-- ==== Sys2Proof/Word.lean ====
section
/-! DEFINITION. The words of the Y-48: the 64-bit general register, the byte, the vector
register and the mask, and their plainest readings (spec 00 R7, R14, R15). -/

namespace Sys2Proof

/-- A 64-bit general register or system register (R92). -/
abbrev Word := BitVec 64

/-- One byte of memory (R7). -/
abbrev Byte := BitVec 8

/-- A vector register, and a mask register: 2,048 bits (R241). -/
abbrev VWord := BitVec 2048

/-- `u64(x)` of R100. -/
abbrev u64 (x : Word) : Nat := x.toNat

/-- `s64(x)` of R100. -/
abbrev s64 (x : Word) : Int := x.toInt

/-- 0 or 1, as a word. -/
def ofBool (b : Bool) : Word := if b then 1 else 0

end Sys2Proof
end

