-- ==== Sys2Proof/Syntax.lean ====
section
/-! DEFINITION. The operations and events of the Y-48: one constructor of `Instr` for every row of
the opcode table. Operand types follow the fields of spec 02; an encoding that a rule makes illegal
whatever its context has no term here where the type can say so, and otherwise `WellFormed` says it. -/

namespace Sys2Proof

/-- A general register field: 0-30 name g0-g30, 31 names mq (R50). -/
abbrev GReg := BitVec 5
/-- A vector register field (R50). -/
abbrev VReg := BitVec 5
/-- A mask register m0-m7 (R50). -/
abbrev MReg := BitVec 3
/-- A mask selector: 0 unmasked, 1-7 name m1-m7 (R50). -/
abbrev MaskSel := BitVec 3

/-- Size codes of a load (R64, R144). -/
inductive LoadSize where
  | b | h | w | d | bu | hu | wu
  deriving DecidableEq, Repr

/-- Size codes of a store (R64). -/
inductive StoreSize where
  | b | h | w | d
  deriving DecidableEq, Repr

/-- Scopes (R60). -/
inductive Scope where
  | hart | core | croft | parish | die | device | system
  deriving DecidableEq, Repr

/-- Rounding field (R61). -/
inductive Rm where
  | rne | rtz | rup | rdn | rna | sr | dyn
  deriving DecidableEq, Repr

/-- Formats of FP.R and FP.FMA (R72). -/
inductive FpFmt where
  | d | s | h | bf
  deriving DecidableEq, Repr

/-- Formats of FCVT, codes 0 to 15 (R72). -/
inductive CvtFmt where
  | fp64 | fp32 | fp16 | bf16 | e4m3 | e5m2 | e2m1 | e8m0
  | sint8 | sint16 | sint32 | sint64 | uint8 | uint16 | uint32 | uint64
  deriving DecidableEq, Repr

/-- Sub-operations of FSGN (R231). -/
inductive FsgnOp where
  | cp | neg | xor
  deriving DecidableEq, Repr

/-- Relations of FCMP (R231). -/
inductive FcmpOp where
  | eq | lt | le
  deriving DecidableEq, Repr

/-- Source widths of SEXT and ZEXT (R63). -/
inductive ExtW where
  | b | h | w
  deriving DecidableEq, Repr

/-- Orderings of an atomic (R66). -/
inductive AmoOrd where
  | rlx | acq | rel | ar
  deriving DecidableEq, Repr

/-- Operand types of MOOTRED (R376). -/
inductive MootType where
  | sint | uint | fp32 | fp64
  deriving DecidableEq, Repr

/-- Forms of a V-format major (R54). -/
inductive VForm where
  | vv | vx | vi
  deriving DecidableEq, Repr

/-- Forms of VFMA (R276). -/
inductive FmaForm where
  | vv | vx
  deriving DecidableEq, Repr

/-- Format tags (R245). -/
inductive Tag where
  | raw | sint | uint | float | bfloat | e4m3 | e5m2 | e2m1x2
  deriving DecidableEq, Repr

/-- Element widths (R242). -/
inductive Sew where
  | e8 | e16 | e32 | e64
  deriving DecidableEq, Repr

/-- Register groupings (R242). -/
inductive Grp where
  | x1 | x2 | x4 | x8
  deriving DecidableEq, Repr

/-- Reduction operations (R76). -/
inductive RedOp where
  | add | min | max | and | or | xor
  deriving DecidableEq, Repr

/-- Extract formats (R83, R341). -/
inductive ExtFmt where
  | fp32 | fp16 | bf16 | e4m3 | e5m2 | sint8 | sint32
  deriving DecidableEq, Repr

/-- A drove descriptor of the long form (R57). -/
inductive Drove where
  | none
  | rot (k : BitVec 13)
  | rotg (g : GReg)
  | bc (i : BitVec 13)
  | bcg (g : GReg)
  | fly (j : BitVec 4)
  | rev (n : BitVec 4)
  | ix (v : VReg) (modulo : Bool)
  deriving DecidableEq, Repr

/-- The modifier on the one vector source of a unary instruction: the short code of the base form
(R54), or the descriptor of the long form (R56). -/
inductive CMod where
  | short (code : BitVec 3)
  | long (d : Drove)
  deriving DecidableEq, Repr

/-- Base-form operands of a V-format major (R52, R273). -/
structure VBase where
  a : BitVec 5
  c : VReg
  b : BitVec 5
  j : Bool
  drv : BitVec 3
  form : VForm
  m : MaskSel
  deriving DecidableEq, Repr

/-- Long-form operands of a V-format major (R56, R273). -/
structure VLong where
  a : BitVec 5
  c : VReg
  b : BitVec 5
  j : Bool
  form : VForm
  m : MaskSel
  db : Drove
  dc : Drove
  deriving DecidableEq, Repr

/-- Base-form operands of VFMA, and of VFMS and VFNMA whose form is fixed (R276). -/
structure VFmaBase where
  a : VReg
  c : VReg
  b : BitVec 5
  j : Bool
  drv : BitVec 3
  form : FmaForm
  m : MaskSel
  deriving DecidableEq, Repr

/-- Long-form operands of the VFMA family (R276). -/
structure VFmaLong where
  a : VReg
  c : VReg
  b : BitVec 5
  j : Bool
  form : FmaForm
  m : MaskSel
  db : Drove
  dc : Drove
  deriving DecidableEq, Repr

/-- Operands of VCMP: combine A[4:3], mask A[2:0] (R74). -/
structure VCmpBase where
  comb : BitVec 2
  md : MReg
  c : VReg
  b : BitVec 5
  j : Bool
  drv : BitVec 3
  form : VForm
  m : MaskSel
  deriving DecidableEq, Repr

/-- Long-form operands of VCMP. -/
structure VCmpLong where
  comb : BitVec 2
  md : MReg
  c : VReg
  b : BitVec 5
  j : Bool
  form : VForm
  m : MaskSel
  db : Drove
  dc : Drove
  deriving DecidableEq, Repr

/-- Operands of VEC.UN, both lengths (R75). -/
structure VUn where
  a : VReg
  c : VReg
  j : Bool
  m : MaskSel
  mod : CMod
  deriving DecidableEq, Repr

/-- Operands of a whole-vector instruction with one source C; `dc` is the long form's descriptor (R301). -/
structure VOne where
  a : VReg
  c : VReg
  j : Bool
  m : MaskSel
  dc : Option Drove
  deriving DecidableEq, Repr

/-- Operands of VRED, VRED.O and VSCAN (R301). -/
structure VRedOps where
  a : VReg
  c : VReg
  op : RedOp
  j : Bool
  m : MaskSel
  dc : Option Drove
  deriving DecidableEq, Repr

/-- Operands of VSEL (R301). -/
structure VSelOps where
  a : VReg
  c : VReg
  b : VReg
  j : Bool
  m : MaskSel
  mods : Option (Drove × Drove)
  deriving DecidableEq, Repr

/-- Operands of VRESHAPE and VEXTRACT-like forms with a general register in B (R301). -/
structure VReshapeOps where
  a : VReg
  c : VReg
  b : GReg
  j : Bool
  m : MaskSel
  dc : Option Drove
  deriving DecidableEq, Repr

/-- Operands of VEXTRACT (R309). -/
structure VExtractOps where
  a : GReg
  c : VReg
  b : GReg
  dc : Option Drove
  deriving DecidableEq, Repr

/-- Operands of VINSERT (R309); `long` is the long form, whose descriptors are kind 0 (R58). -/
structure VInsertOps where
  a : VReg
  b : GReg
  c : GReg
  j : Bool
  m : MaskSel
  long : Bool
  deriving DecidableEq, Repr

/-- Operands of VIOTA (R307). -/
structure VIotaOps where
  a : VReg
  j : Bool
  m : MaskSel
  long : Bool
  deriving DecidableEq, Repr

/-- Operands of MAND to MANDN (R310). -/
structure MaskOps where
  a : MReg
  b : MReg
  c : MReg
  j : Bool
  long : Bool
  deriving DecidableEq, Repr

/-- Operands of MMOV (R310). -/
structure MaskMovOps where
  a : MReg
  c : MReg
  j : Bool
  long : Bool
  deriving DecidableEq, Repr

/-- Operands of MPOPC and MFIRST (R310). -/
structure MaskCountOps where
  a : GReg
  c : MReg
  long : Bool
  deriving DecidableEq, Repr

/-- Operands of VSETN and VSETN.G (R251). -/
structure VSetOps where
  a : GReg
  b : GReg
  sew : Sew
  grp : Grp
  tz : Bool
  mz : Bool
  deriving DecidableEq, Repr

/-- Operands of VCVT and VCVT.SAT (R79, R280). -/
structure VCvtOps where
  a : VReg
  c : VReg
  tag : Tag
  sew : Sew
  rm : Rm
  j : Bool
  m : MaskSel
  dc : Option Drove
  deriving DecidableEq, Repr

/-- The addressing of VLD and VST: a stride register (0 is unit stride) or a sweep (R55, R289). -/
inductive VAddr where
  | strided (c : GReg)
  | sweep
  deriving DecidableEq, Repr

/-- Operands of VLD (R289). -/
structure VLdOps where
  a : VReg
  b : GReg
  addr : VAddr
  j : Bool
  u : Bool
  tag : Tag
  m : MaskSel
  deriving DecidableEq, Repr

/-- Operands of VST (R289). -/
structure VStOps where
  a : VReg
  b : GReg
  addr : VAddr
  j : Bool
  u : Bool
  m : MaskSel
  deriving DecidableEq, Repr

/-- Operands of VLDX (R289). -/
structure VLdxOps where
  a : VReg
  b : GReg
  c : VReg
  j : Bool
  u : Bool
  tag : Tag
  m : MaskSel
  deriving DecidableEq, Repr

/-- Operands of VSTX (R289). -/
structure VStxOps where
  a : VReg
  b : GReg
  c : VReg
  j : Bool
  u : Bool
  m : MaskSel
  deriving DecidableEq, Repr

/-- Operands of VLD.W (R297); `off` is the long form's byte offset. -/
structure VLdwOps where
  a : VReg
  w : BitVec 3
  j : Bool
  tag : Tag
  m : MaskSel
  off : Option (BitVec 32)
  deriving DecidableEq, Repr

/-- Operands of VST.W (R297). -/
structure VStwOps where
  a : VReg
  w : BitVec 3
  j : Bool
  m : MaskSel
  off : Option (BitVec 32)
  deriving DecidableEq, Repr

/-- The B operand of MMA and MMAS: a tile register or a latch (R83). -/
inductive MatB where
  | tile (t : BitVec 2)
  | latch (n : Bool)
  deriving DecidableEq, Repr

/-- Operands of MMA (R338). -/
structure MmaOps where
  t : BitVec 2
  b : MatB
  ka : BitVec 2
  kb : BitVec 2
  cb : BitVec 3
  deriving DecidableEq, Repr

/-- Operands of an atomic (R156). -/
structure AmoOps where
  a : GReg
  b : GReg
  c : GReg
  dbl : Bool
  far : Bool
  scope : Scope
  ord : AmoOrd
  off : BitVec 16
  deriving DecidableEq, Repr

/-- Feature classes (R30). -/
inductive Cls where
  | B | F | S | V | E | M
  deriving DecidableEq, Repr

/-- A core: die, parish within the die, core within the parish (R25). -/
structure CoreId where
  die : Nat
  parish : Nat
  core : Nat
  deriving DecidableEq, Repr

/-- A hart's place (R27). -/
structure Place where
  core : CoreId
  hart : Nat
  deriving DecidableEq, Repr

/-- A croft: die, parish within the die, croft within the parish (R25). -/
structure CroftId where
  die : Nat
  parish : Nat
  croft : Nat
  deriving DecidableEq, Repr

/-- An engine hart, by the DIE, PARISH and CORE fields of its SY.HID (R416, R456). -/
structure EngineId where
  die : Nat
  parish : Nat
  core : Nat
  deriving DecidableEq, Repr

/-- Who makes an access: a hart, or an engine hart. -/
inductive Agent where
  | hart (p : Place)
  | engine (e : EngineId)
  deriving DecidableEq, Repr

/-- How the host reaches the device (R446, R449): through BAR0 of PF0, through BAR2 of a function, or as CXL.mem, where
it may keep the granules that it reads. -/
inductive HostVia where
  | bar0
  | bar2 (f : BitVec 4)
  | mem (keep : Bool)
  deriving DecidableEq, Repr

/-- What the memory device behind a shared entry asks for (R453): the half at an address, with the bytes of another
agent's write of it, if there is one. -/
structure BackInv where
  addr : Nat
  data : Option (List Byte)
  deriving DecidableEq, Repr

/-- What another rank of a collective says of its record, and the bytes that it contributes (R457). -/
structure RankSays where
  op : Nat
  type : Nat
  rop : Nat
  nrank : Nat
  len : Nat
  data : List Byte
  deriving DecidableEq, Repr

/-- Where a parity error is found that nothing corrects (R461, R462): the registers or queues of a hart, or the Carter
frame of a task. -/
inductive ParityAt where
  | hart (p : Place)
  | frame (task : BitVec 32)
  deriving DecidableEq, Repr

/-- A moot table: a parish table or the device table (R346). -/
inductive MootTable where
  | parish (pp : Nat)
  | device
  deriving DecidableEq, Repr

/-- A co-scheduled group: a gang, by the identity of its rank 0, or a moot (R400). -/
inductive GroupKey where
  | gang (id : Nat)
  | moot (t : MootTable) (name : Nat)
  deriving DecidableEq, Repr

/-- Units that count errors (R463, R464). -/
inductive RasUnit where
  | hbm | well | directory | l2 | l1 | croftStore | regFile | link
  deriving DecidableEq, Repr

/-- Interface states of a function (R447). -/
inductive Tdisp where
  | unlocked | locked | run | error
  deriving DecidableEq, Repr

/-- The operation a far atomic or a peer's request performs at a home (R157, R454). -/
inductive HomeOp where
  | load (n : Nat)
  | store (data : List Byte)
  | amo (op : Nat) (dbl : Bool) (src : Word) (exp : Word)
  deriving DecidableEq, Repr

/-- A Commons link (R20). -/
inductive LinkId where
  | well (w : Nat)
  | compute (d e : Nat)
  | green (d : Nat)
  deriving DecidableEq, Repr

/-- The operations and events of the Y-48, one constructor per row of the opcode table. -/
inductive Instr where
  -- compact forms (R59, R108)
  | cmv (r g : GReg)
  | caddi (r : GReg) (imm : BitVec 5)
  | cadd (r g : GReg)
  | csub (r g : GReg)
  | cand (r g : GReg)
  | cor (r g : GReg)
  | cxor (r g : GReg)
  | cshli (r : GReg) (sh : BitVec 5)
  | cshri (r : GReg) (sh : BitVec 5)
  | csrai (r : GReg) (sh : BitVec 5)
  | cld (r : GReg) (off : BitVec 5)
  | cst (r : GReg) (off : BitVec 5)
  | cbnz (d : BitVec 10)
  | cbez (d : BitVec 10)
  | cvadd (r g : VReg)
  | cvmul (r g : VReg)
  | cvfma (r g : VReg)
  -- INT.R (R63, R101)
  | add (a b c : GReg)
  | sub (a b c : GReg)
  | and (a b c : GReg)
  | or (a b c : GReg)
  | xor (a b c : GReg)
  | andn (a b c : GReg)
  | orn (a b c : GReg)
  | xnor (a b c : GReg)
  | shl (a b c : GReg)
  | shr (a b c : GReg)
  | sra (a b c : GReg)
  | rol (a b c : GReg)
  | ror (a b c : GReg)
  | slt (a b c : GReg)
  | sltu (a b c : GReg)
  | min (a b c : GReg)
  | max (a b c : GReg)
  | minu (a b c : GReg)
  | maxu (a b c : GReg)
  | mul (a b c : GReg)
  | mulh (a b c : GReg)
  | mulhu (a b c : GReg)
  | div (a b c : GReg)
  | divu (a b c : GReg)
  | rem (a b c : GReg)
  | remu (a b c : GReg)
  | clz (a b : GReg)
  | ctz (a b : GReg)
  | popc (a b : GReg)
  | bswap (a b : GReg)
  | sext (a b : GReg) (width : ExtW)
  | zext (a b : GReg) (width : ExtW)
  | bfx (a b c : GReg)
  | bfi (a b c : GReg)
  | select (a b c : GReg)
  | addsc1 (a b c : GReg)
  | addsc2 (a b c : GReg)
  | addsc3 (a b c : GReg)
  -- immediates (R105-R107)
  | addi (a b : GReg) (imm : BitVec 14)
  | andi (a b : GReg) (imm : BitVec 14)
  | ori (a b : GReg) (imm : BitVec 14)
  | xori (a b : GReg) (imm : BitVec 14)
  | slti (a b : GReg) (imm : BitVec 14)
  | sltiu (a b : GReg) (imm : BitVec 14)
  | addiL (a b : GReg) (imm : BitVec 32)
  | andiL (a b : GReg) (imm : BitVec 32)
  | oriL (a b : GReg) (imm : BitVec 32)
  | xoriL (a b : GReg) (imm : BitVec 32)
  | sltiL (a b : GReg) (imm : BitVec 32)
  | sltiuL (a b : GReg) (imm : BitVec 32)
  | shli (a b : GReg) (sh : BitVec 6)
  | shri (a b : GReg) (sh : BitVec 6)
  | srai (a b : GReg) (sh : BitVec 6)
  | rori (a b : GReg) (sh : BitVec 6)
  | ldhi (a : GReg) (imm : BitVec 19)
  | addpc (a : GReg) (imm : BitVec 19)
  | laddpc (a : GReg) (off : BitVec 32)
  -- scalar memory (R150-R153, R156, R162)
  | load (a b : GReg) (off : BitVec 11) (sz : LoadSize)
  | loadL (a b : GReg) (off : BitVec 32) (sz : LoadSize)
  | store (a b : GReg) (off : BitVec 11) (sz : StoreSize)
  | storeL (a b : GReg) (off : BitVec 32) (sz : StoreSize)
  | loadx (a b c : GReg) (s : BitVec 2) (sz : LoadSize)
  | storex (a b c : GReg) (s : BitVec 2) (sz : StoreSize)
  | loadAcq (a b : GReg) (scope : Scope) (sz : LoadSize)
  | storeRel (a b : GReg) (scope : Scope) (sz : StoreSize)
  | amoadd (o : AmoOps)
  | amoand (o : AmoOps)
  | amoor (o : AmoOps)
  | amoxor (o : AmoOps)
  | amomin (o : AmoOps)
  | amomax (o : AmoOps)
  | amominu (o : AmoOps)
  | amomaxu (o : AmoOps)
  | amoswap (o : AmoOps)
  | amofadd (o : AmoOps)
  | cas (o : AmoOps)
  | fenceAcq (s : Scope)
  | fenceRel (s : Scope)
  | fenceFull (s : Scope)
  | waitm (a b c : GReg) (dbl : Bool) (s : Scope)
  | prefetch (b : GReg) (write : Bool)
  | clean (b : GReg) (s : Scope)
  | flush (b : GReg) (s : Scope)
  | inval (b : GReg) (s : Scope)
  -- control (R111-R113)
  | beq (a b : GReg) (d : BitVec 14)
  | bne (a b : GReg) (d : BitVec 14)
  | blt (a b : GReg) (d : BitVec 14)
  | bge (a b : GReg) (d : BitVec 14)
  | bltu (a b : GReg) (d : BitVec 14)
  | bgeu (a b : GReg) (d : BitVec 14)
  | beqL (a b : GReg) (d : BitVec 32)
  | bneL (a b : GReg) (d : BitVec 32)
  | bltL (a b : GReg) (d : BitVec 32)
  | bgeL (a b : GReg) (d : BitVec 32)
  | bltuL (a b : GReg) (d : BitVec 32)
  | bgeuL (a b : GReg) (d : BitVec 32)
  | call (a : GReg) (d : BitVec 19)
  | lcall (a : GReg) (d : BitVec 32)
  | jumpr (a b : GReg) (imm : BitVec 14)
  -- tasks and messages (R387)
  | spawn (a b c : GReg) (p : BitVec 2)
  | msgopen (b c : GReg) (core : Bool)
  | msgpoll (a : GReg)
  -- moots (R367)
  | mootnew (a b c : GReg) (h : BitVec 3)
  | mootjoin (a b : GReg) (h : BitVec 3)
  | mootleave (h : BitVec 3)
  | mootfree (a : GReg) (h : BitVec 3)
  | mootarrive (a : GReg) (h : BitVec 3)
  | mootwait (a b : GReg) (h : BitVec 3)
  | mootsync (a : GReg) (h : BitVec 3)
  | mootvoteAll (a b : GReg) (h : BitVec 3)
  | mootvoteAny (a b : GReg) (h : BitVec 3)
  | mootvoteCount (a b : GReg) (h : BitVec 3)
  | mootbytes (b : GReg) (h : BitVec 3)
  | mootquery (a b : GReg) (h : BitVec 3)
  | mootredAdd (a b : GReg) (t : MootType) (h : BitVec 3)
  | mootredMin (a b : GReg) (t : MootType) (h : BitVec 3)
  | mootredMax (a b : GReg) (t : MootType) (h : BitVec 3)
  | mootredAnd (a b : GReg) (h : BitVec 3)
  | mootredOr (a b : GReg) (h : BitVec 3)
  | mootredXor (a b : GReg) (h : BitVec 3)
  -- engines (R419)
  | xcopy (a b : GReg)
  | qgather (a b : VReg) (c : GReg) (m : MaskSel)
  | qwalk (a b : GReg)
  | kick (b c : GReg)
  -- scalar floating point (R230-R235)
  | fadd (a b c : GReg) (f : FpFmt) (rm : Rm)
  | fsub (a b c : GReg) (f : FpFmt) (rm : Rm)
  | fmul (a b c : GReg) (f : FpFmt) (rm : Rm)
  | fdiv (a b c : GReg) (f : FpFmt) (rm : Rm)
  | fsqrt (a b : GReg) (f : FpFmt) (rm : Rm)
  | fmin (a b c : GReg) (f : FpFmt)
  | fmax (a b c : GReg) (f : FpFmt)
  | fsgn (a b c : GReg) (f : FpFmt) (o : FsgnOp)
  | fcmp (a b c : GReg) (f : FpFmt) (o : FcmpOp)
  | fclass (a b : GReg) (f : FpFmt)
  | frnd (a b : GReg) (f : FpFmt) (rm : Rm)
  | fmvx (a b : GReg) (f : FpFmt)
  | fma (a b c : GReg) (f : FpFmt) (rm : Rm)
  | fms (a b c : GReg) (f : FpFmt) (rm : Rm)
  | fnma (a b c : GReg) (f : FpFmt) (rm : Rm)
  | fnms (a b c : GReg) (f : FpFmt) (rm : Rm)
  | fcvt (a b : GReg) (src dst : CvtFmt) (sat : Bool) (rm : Rm)
  -- system (R131)
  | syscall (code : BitVec 10)
  | brk (code : BitVec 10)
  | srd (a : GReg) (num : BitVec 12)
  | swr (a : GReg) (num : BitVec 12)
  | sswap (a : GReg) (num : BitVec 12)
  | tlbinv (b c : GReg) (mode : Fin 3)
  | migrate (b : GReg)
  | pause (b : GReg)
  -- vector arithmetic, base forms (R273-R277)
  | vadd (o : VBase)
  | vsub (o : VBase)
  | vrsub (o : VBase)
  | vmul (o : VBase)
  | vmulh (o : VBase)
  | vdiv (o : VBase)
  | vrem (o : VBase)
  | vmin (o : VBase)
  | vmax (o : VBase)
  | vand (o : VBase)
  | vor (o : VBase)
  | vxor (o : VBase)
  | vshl (o : VBase)
  | vshr (o : VBase)
  | vfma (o : VFmaBase)
  | vfms (o : VFmaBase)
  | vfnma (o : VFmaBase)
  | vcmpEq (o : VCmpBase)
  | vcmpNe (o : VCmpBase)
  | vcmpLt (o : VCmpBase)
  | vcmpLe (o : VCmpBase)
  -- vector arithmetic, long forms
  | vaddL (o : VLong)
  | vsubL (o : VLong)
  | vrsubL (o : VLong)
  | vmulL (o : VLong)
  | vmulhL (o : VLong)
  | vdivL (o : VLong)
  | vremL (o : VLong)
  | vminL (o : VLong)
  | vmaxL (o : VLong)
  | vandL (o : VLong)
  | vorL (o : VLong)
  | vxorL (o : VLong)
  | vshlL (o : VLong)
  | vshrL (o : VLong)
  | vfmaL (o : VFmaLong)
  | vfmsL (o : VFmaLong)
  | vfnmaL (o : VFmaLong)
  | vcmpEqL (o : VCmpLong)
  | vcmpNeL (o : VCmpLong)
  | vcmpLtL (o : VCmpLong)
  | vcmpLeL (o : VCmpLong)
  -- vector unary (R278, R279)
  | vmv (o : VUn)
  | vneg (o : VUn)
  | vabs (o : VUn)
  | vnot (o : VUn)
  | vsqrt (o : VUn)
  | vrcp (o : VUn)
  | vrsq (o : VUn)
  | vexp2 (o : VUn)
  | vlog2 (o : VUn)
  | vtanh (o : VUn)
  | vclz (o : VUn)
  | vpopc (o : VUn)
  -- vector miscellaneous (R301-R309)
  | vsel (o : VSelOps)
  | vred (o : VRedOps)
  | vredO (o : VRedOps)
  | vscan (o : VRedOps)
  | vcompress (o : VOne)
  | vexpand (o : VOne)
  | viota (o : VIotaOps)
  | vreshape (o : VReshapeOps)
  | vextract (o : VExtractOps)
  | vinsert (o : VInsertOps)
  -- vector memory (R289-R298)
  | vld (o : VLdOps)
  | vst (o : VStOps)
  | vldx (o : VLdxOps)
  | vstx (o : VStxOps)
  | vldL (o : VLdOps) (off : BitVec 32)
  | vstL (o : VStOps) (off : BitVec 32)
  | vldxL (o : VLdxOps) (off : BitVec 32)
  | vstxL (o : VStxOps) (off : BitVec 32)
  | vldW (o : VLdwOps)
  | vstW (o : VStwOps)
  | wset (wr : BitVec 3) (b c : GReg) (off : Option (BitVec 32))
  | wadv (wr : BitVec 3) (b : GReg) (off : Option (BitVec 32))
  -- without operands: compact, fences, tasks, moots, system
  | cnop
  | fenceSv
  | fenceVs
  | fenceVv
  | fenceI
  | join
  | taskend
  | msgdone
  | gbar
  | eret
  | yield
  | halt
  | wfm
  -- vector configuration (R251-R255, R271), masks (R310, R311), vector conversions (R280, R281), matrix (R335-R343)
  | vsetn (o : VSetOps)
  | vsetnG (o : VSetOps)
  | vsetd (b c : GReg) (d : Fin 3)
  | vtag (a : VReg) (t : Tag)
  | vfsave (b : GReg)
  | vfrestore (b : GReg)
  | mand (o : MaskOps)
  | mor (o : MaskOps)
  | mxor (o : MaskOps)
  | mandn (o : MaskOps)
  | mmov (o : MaskMovOps)
  | mpopc (o : MaskCountOps)
  | mfirst (o : MaskCountOps)
  | vcvt (o : VCvtOps)
  | vcvtSat (o : VCvtOps)
  | vcvtI4 (o : VOne)
  | vcvtE3m2 (o : VOne)
  | vcvtE2m3 (o : VOne)
  | mattach (a b : GReg)
  | mshape (b : GReg)
  | mtld (t : BitVec 2) (b c : GReg)
  | mtldk (k : BitVec 2) (b c : GReg)
  | mtst (t : BitVec 2) (b c : GReg)
  | mring (t : BitVec 2) (n : Bool)
  | mma (o : MmaOps)
  | mmas (o : MmaOps) (wr : BitVec 3)
  | mext (a : VReg) (c : GReg) (relu : Bool) (f : ExtFmt) (m : MaskSel)
  | mextst (v : VReg) (b c : GReg) (relu : Bool) (f : ExtFmt) (m : MaskSel)
  | mdetach
  | mzero
  | mrel
  | mwait
  -- events of the machine and of its surroundings
  | coldReset
  | asyncTrap
  | migrationTrap (cls : Cls) (enc : Word)
  | carterQueuePlacement
  | window
  | mixMigration
  | preemption (pp : Nat)
  | placement (pp : Nat)
  | lendRequest (pp : Nat)
  | overflowReturn (pp : Nat)
  | levelLift (pp : Nat) (level : Fin 3)
  | groupStart (g : GroupKey)
  | reservationRelease (pp : Nat)
  | tkill (v : Word)
  | hbaseWrite (v : Word)
  | hlimitWrite (v : Word)
  | hstrayWrite (v : Word)
  | reevevecWrite (v : Word)
  | registerWrite (num : BitVec 12) (v : Word)
  | messageDeparture (c : CoreId)
  | messageDispatch (c : CoreId)
  | post (slot : BitVec 4) (v : Word)
  | hostBar0Write (off : Nat) (data : List Byte)
  | hostWrite (via : HostVia) (off : Nat) (data : List Byte)
  | hostRead (via : HostVia) (off : Nat) (len : Nat)
  | convoyStart
  | convoyClose
  | convoyDrain
  | latchForward (c : CroftId) (n : Bool)
  | gets (pp line : Nat)
  | getx (pp line : Nat)
  | upg (pp line : Nat)
  | puts (pp line : Nat)
  | putx (pp line : Nat)
  | inv (pp line : Nat)
  | invAck (pp line : Nat)
  | fwd (line : Nat)
  | dataReply (pp line : Nat)
  | complete (pp line : Nat)
  | putAck (pp line : Nat)
  | farAtomic (addr : Nat) (op : HomeOp)
  | sectoredStore (pp addr : Nat) (data : List Byte)
  | homeRead (addr len : Nat)
  | homeWrite (addr : Nat) (data : List Byte)
  | wakeNotice (p : Place)
  | watchPoll (p : Place)
  | pauseExpiry (p : Place)
  | linkActive (l : LinkId)
  | linkDoze (l : LinkId)
  | dieLost (d : Nat)
  | pendDecrement (t : MootTable) (name : Word) (bytes : Nat)
  | copyRecord (e : EngineId)
  | migrateRecord (e : EngineId)
  | lockhouseAdmit
  | sealRecord (e : EngineId)
  | openRecord (e : EngineId)
  | chase (e : EngineId)
  | uwalk (e : EngineId)
  | allreduce (e : EngineId) (others : List RankSays)
  | allgather (e : EngineId) (others : List RankSays)
  | reducescatter (e : EngineId) (others : List RankSays)
  | broadcast (e : EngineId) (others : List RankSays)
  | collectiveTimeout (e : EngineId)
  | peerTimeout (a : Agent)
  | keyWrite (slot : BitVec 6) (word : Fin 4) (v : Word)
  | extentRemove (i : BitVec 6)
  | extentRemoved (i : BitVec 6)
  | bisnp (req : BackInv)
  | tdispMessage (f : BitVec 4) (state : Tdisp)
  | spdmMeasurement
  | spdmDebugRequest (p : Place)
  | correctedError (u : RasUnit) (unitNo loc : Nat)
  | rasWindow (u : RasUnit) (unitNo : Nat)
  | parityError (p : ParityAt)
  | raslogRead
  | rateWrite (reg : BitVec 4) (v : Word)
  | channelSwitchEnd (wd ch : Nat)
  | migctlFree (page : Nat)
  | migctlFreeIfComplete (page : Nat)
  | quiesceRequest (pp : Nat)
  | quiesceCancel (pp : Nat)
  | drained (pp : Nat)
  | save (pp : Nat)
  | saveEnd (pp : Nat)
  | clkenWrite (pp : Nat) (v : Word)
  | railenWrite (pp : Nat) (v : Word)
  | railSettled (pp : Nat)
  | restore (pp : Nat)
  | restoreEnd (pp : Nat)
  | wakeRequest (pp : Nat)
  | illegalInstruction (enc : Word)
  | fetchFault
  | scaleUpRequest (addr : Nat) (op : HomeOp)
  | fwdData (line : Nat)
  | bisnpResponse (addr : Nat)
  | ideKm (f : BitVec 4) (keyed : Bool)
  | hostConfigWrite (f : BitVec 4) (size : Nat)
  | linkRetrain (l : LinkId) (ok : Bool)
  | uncorrectableError (u : RasUnit) (addr : Nat)
  deriving DecidableEq, Repr

end Sys2Proof
end

