-- ==== Sys2Proof/WellFormed.lean ====
section
/-! DEFINITION. What an encodable instruction must satisfy beyond its types: the legality rules of
spec 02 that relate fields of one encoding (R57, R58, R76, R79, R84). An event has no encoding and is
well formed. -/

namespace Sys2Proof

/-- An argument in the range of its row, and a scalar modifier that does not name mq (R57). -/
def Drove.wf : Drove → Bool
  | .none => true
  | .rot _ => true
  | .rotg g => g != 31
  | .bc _ => true
  | .bcg g => g != 31
  | .fly j => decide (j.toNat ≤ 10)
  | .rev n => decide (n.toNat ≤ 11)
  | .ix _ _ => true

/-- The descriptor of the long form, when there is one, is legal (R57). -/
def droveOptWf : Option Drove → Bool
  | none => true
  | some d => d.wf

/-- A short code has no illegal value; a descriptor must be legal (R57). -/
def CMod.wf : CMod → Bool
  | .short _ => true
  | .long d => d.wf

/-- The B descriptor of a vx or vi form is kind 0 (R58). -/
def VLong.wf (o : VLong) : Bool :=
  o.db.wf && o.dc.wf && (o.form == .vv || o.db == .none)

/-- As `VLong.wf`, for the VFMA family. -/
def VFmaLong.wf (o : VFmaLong) : Bool :=
  o.db.wf && o.dc.wf && (o.form == .vv || o.db == .none)

/-- As `VLong.wf`, for VCMP. -/
def VCmpLong.wf (o : VCmpLong) : Bool :=
  o.db.wf && o.dc.wf && (o.form == .vv || o.db == .none)

/-- The tag is legal at the width (R245). -/
def Tag.legalAt : Tag → Sew → Bool
  | .raw, _ => true
  | .sint, _ => true
  | .uint, _ => true
  | .float, s => s != .e8
  | .bfloat, s => s == .e16
  | .e4m3, s => s == .e8
  | .e5m2, s => s == .e8
  | .e2m1x2, s => s == .e8

/-- VCVT names a legal pair of tag and width (R79). -/
def VCvtOps.wf (o : VCvtOps) : Bool := o.tag.legalAt o.sew && droveOptWf o.dc

/-- VSEL needs a mask, and its descriptors are legal (R76). -/
def VSelOps.wf (o : VSelOps) : Bool :=
  o.m != 0 && (match o.mods with | none => true | some p => p.1.wf && p.2.wf)

/-- The form of VFMS and VFNMA is vv alone (R276). -/
def VFmaBase.wfVv (o : VFmaBase) : Bool := o.form == .vv

/-- As `VFmaBase.wfVv`, for the long form. -/
def VFmaLong.wfVv (o : VFmaLong) : Bool := o.form == .vv && o.wf

/-- The relations between fields that R57, R58, R76, R79 and R276 ask of one encoding. -/
def WellFormed : Instr → Bool
  | .vaddL o | .vsubL o | .vrsubL o | .vmulL o | .vmulhL o | .vdivL o | .vremL o | .vminL o
  | .vmaxL o | .vandL o | .vorL o | .vxorL o | .vshlL o | .vshrL o => o.wf
  | .vfms o | .vfnma o => o.wfVv
  | .vfmaL o => o.wf
  | .vfmsL o | .vfnmaL o => o.wfVv
  | .vcmpEqL o | .vcmpNeL o | .vcmpLtL o | .vcmpLeL o => o.wf
  | .vmv o | .vneg o | .vabs o | .vnot o | .vsqrt o | .vrcp o | .vrsq o | .vexp2 o | .vlog2 o
  | .vtanh o | .vclz o | .vpopc o => o.mod.wf
  | .vsel o => o.wf
  | .vred o | .vredO o | .vscan o => droveOptWf o.dc
  | .vcompress o | .vexpand o => o.m != 0 && droveOptWf o.dc
  | .vreshape o => droveOptWf o.dc
  | .vextract o => droveOptWf o.dc
  | .vcvt o | .vcvtSat o => o.wf
  | .vcvtI4 o | .vcvtE3m2 o | .vcvtE2m3 o => droveOptWf o.dc
  | _ => true

end Sys2Proof
end

