-- ==== Sys2Proof/Decode.lean ====
section
/-! DEFINITION. Decoding (total, rejecting by name) and, after it, encoding: spec 02, with the
field tables of the instruction chapters. Bit 0 is the least significant bit of the first halfword
(R48), so an instruction is read as one number, its bytes in ascending address order. -/

namespace Sys2Proof

/-- Why bytes are not an instruction. -/
inductive DecodeError where
  /-- Fewer bytes than the length bits ask for (R47). -/
  | short
  /-- An encoding of `len` bytes that R84 lists as no instruction; `enc` is what SY.TRAPVAL receives. -/
  | illegal (len : Nat) (enc : Word)
  deriving DecidableEq, Repr

/-! ### Code tables -/

def LoadSize.ofCode (x : BitVec 3) : Option LoadSize :=
  match x.toNat with
  | 0 => some .b | 1 => some .h | 2 => some .w | 3 => some .d
  | 4 => some .bu | 5 => some .hu | 6 => some .wu | _ => none

def LoadSize.code : LoadSize → BitVec 3
  | .b => 0 | .h => 1 | .w => 2 | .d => 3 | .bu => 4 | .hu => 5 | .wu => 6

def StoreSize.ofCode (x : BitVec 3) : Option StoreSize :=
  match x.toNat with
  | 0 => some .b | 1 => some .h | 2 => some .w | 3 => some .d | _ => none

def StoreSize.code : StoreSize → BitVec 3
  | .b => 0 | .h => 1 | .w => 2 | .d => 3

def Scope.ofCode (x : BitVec 3) : Option Scope :=
  match x.toNat with
  | 0 => some .hart | 1 => some .core | 2 => some .croft | 3 => some .parish
  | 4 => some .die | 5 => some .device | 6 => some .system | _ => none

def Scope.code : Scope → BitVec 3
  | .hart => 0 | .core => 1 | .croft => 2 | .parish => 3 | .die => 4 | .device => 5 | .system => 6

def Rm.ofCode (x : BitVec 3) : Option Rm :=
  match x.toNat with
  | 0 => some .rne | 1 => some .rtz | 2 => some .rup | 3 => some .rdn
  | 4 => some .rna | 5 => some .sr | 7 => some .dyn | _ => none

def Rm.code : Rm → BitVec 3
  | .rne => 0 | .rtz => 1 | .rup => 2 | .rdn => 3 | .rna => 4 | .sr => 5 | .dyn => 7

def FpFmt.ofCode (x : BitVec 2) : FpFmt :=
  match x.toNat with
  | 0 => .d | 1 => .s | 2 => .h | _ => .bf

def FpFmt.code : FpFmt → BitVec 2
  | .d => 0 | .s => 1 | .h => 2 | .bf => 3

def CvtFmt.ofCode (x : BitVec 4) : CvtFmt :=
  match x.toNat with
  | 0 => .fp64 | 1 => .fp32 | 2 => .fp16 | 3 => .bf16 | 4 => .e4m3 | 5 => .e5m2 | 6 => .e2m1
  | 7 => .e8m0 | 8 => .sint8 | 9 => .sint16 | 10 => .sint32 | 11 => .sint64
  | 12 => .uint8 | 13 => .uint16 | 14 => .uint32 | _ => .uint64

def CvtFmt.code : CvtFmt → BitVec 4
  | .fp64 => 0 | .fp32 => 1 | .fp16 => 2 | .bf16 => 3 | .e4m3 => 4 | .e5m2 => 5 | .e2m1 => 6
  | .e8m0 => 7 | .sint8 => 8 | .sint16 => 9 | .sint32 => 10 | .sint64 => 11
  | .uint8 => 12 | .uint16 => 13 | .uint32 => 14 | .uint64 => 15

def FsgnOp.ofCode (x : BitVec 3) : Option FsgnOp :=
  match x.toNat with | 0 => some .cp | 1 => some .neg | 2 => some .xor | _ => none

def FsgnOp.code : FsgnOp → BitVec 3 | .cp => 0 | .neg => 1 | .xor => 2

def FcmpOp.ofCode (x : BitVec 3) : Option FcmpOp :=
  match x.toNat with | 0 => some .eq | 1 => some .lt | 2 => some .le | _ => none

def FcmpOp.code : FcmpOp → BitVec 3 | .eq => 0 | .lt => 1 | .le => 2

def ExtW.ofCode (x : BitVec 3) : Option ExtW :=
  match x.toNat with | 0 => some .b | 1 => some .h | 2 => some .w | _ => none

def ExtW.code : ExtW → BitVec 3 | .b => 0 | .h => 1 | .w => 2

def AmoOrd.ofCode (x : BitVec 2) : AmoOrd :=
  match x.toNat with | 0 => .rlx | 1 => .acq | 2 => .rel | _ => .ar

def AmoOrd.code : AmoOrd → BitVec 2 | .rlx => 0 | .acq => 1 | .rel => 2 | .ar => 3

def MootType.ofCode (x : BitVec 2) : MootType :=
  match x.toNat with | 0 => .sint | 1 => .uint | 2 => .fp32 | _ => .fp64

def MootType.code : MootType → BitVec 2 | .sint => 0 | .uint => 1 | .fp32 => 2 | .fp64 => 3

def VForm.ofCode (x : BitVec 2) : Option VForm :=
  match x.toNat with | 0 => some .vv | 1 => some .vx | 2 => some .vi | _ => none

def VForm.code : VForm → BitVec 2 | .vv => 0 | .vx => 1 | .vi => 2

def FmaForm.code : FmaForm → BitVec 2 | .vv => 0 | .vx => 1

def Tag.ofCode (x : BitVec 3) : Tag :=
  match x.toNat with
  | 0 => .raw | 1 => .sint | 2 => .uint | 3 => .float | 4 => .bfloat | 5 => .e4m3 | 6 => .e5m2
  | _ => .e2m1x2

def Tag.code : Tag → BitVec 3
  | .raw => 0 | .sint => 1 | .uint => 2 | .float => 3 | .bfloat => 4 | .e4m3 => 5 | .e5m2 => 6
  | .e2m1x2 => 7

def Sew.ofCode (x : BitVec 2) : Sew :=
  match x.toNat with | 0 => .e8 | 1 => .e16 | 2 => .e32 | _ => .e64

def Sew.code : Sew → BitVec 2 | .e8 => 0 | .e16 => 1 | .e32 => 2 | .e64 => 3

def Grp.ofCode (x : BitVec 2) : Grp :=
  match x.toNat with | 0 => .x1 | 1 => .x2 | 2 => .x4 | _ => .x8

def Grp.code : Grp → BitVec 2 | .x1 => 0 | .x2 => 1 | .x4 => 2 | .x8 => 3

def RedOp.ofCode (x : BitVec 5) : Option RedOp :=
  match x.toNat with
  | 0 => some .add | 1 => some .min | 2 => some .max | 3 => some .and | 4 => some .or
  | 5 => some .xor | _ => none

def RedOp.code : RedOp → BitVec 5
  | .add => 0 | .min => 1 | .max => 2 | .and => 3 | .or => 4 | .xor => 5

def ExtFmt.ofCode (x : BitVec 3) : Option ExtFmt :=
  match x.toNat with
  | 0 => some .fp32 | 1 => some .fp16 | 2 => some .bf16 | 3 => some .e4m3 | 4 => some .e5m2
  | 5 => some .sint8 | 6 => some .sint32 | _ => none

def ExtFmt.code : ExtFmt → BitVec 3
  | .fp32 => 0 | .fp16 => 1 | .bf16 => 2 | .e4m3 => 3 | .e5m2 => 4 | .sint8 => 5 | .sint32 => 6

/-- A descriptor word (R57): kind in bits 15:13, argument in bits 12:0, unused argument bits zero. -/
def Drove.ofCode (w : BitVec 16) : Option Drove :=
  let arg := w.extractLsb' 0 13
  let hi8 := w.extractLsb' 5 8
  let hi9 := w.extractLsb' 4 9
  let hi7 := w.extractLsb' 6 7
  let g := w.extractLsb' 0 5
  let n := w.extractLsb' 0 4
  let ok (d : Drove) (z : Bool) : Option Drove := if z && d.wf then some d else Option.none
  match (w.extractLsb' 13 3).toNat with
  | 0 => ok .none (arg == 0)
  | 1 => some (.rot arg)
  | 2 => ok (.rotg g) (hi8 == 0)
  | 3 => some (.bc arg)
  | 4 => ok (.bcg g) (hi8 == 0)
  | 5 => ok (.fly n) (hi9 == 0)
  | 6 => ok (.rev n) (hi9 == 0)
  | _ => ok (.ix g (w.getLsbD 5)) (hi7 == 0)

def Drove.code : Drove → BitVec 16
  | .none => 0
  | .rot k => 1#3 ++ k
  | .rotg g => 2#3 ++ 0#8 ++ g
  | .bc i => 3#3 ++ i
  | .bcg g => 4#3 ++ 0#8 ++ g
  | .fly j => 5#3 ++ 0#9 ++ j
  | .rev n => 6#3 ++ 0#9 ++ n
  | .ix v m => 7#3 ++ 0#7 ++ BitVec.ofBool m ++ v

/-- A decoded instruction. Lean's compiled code holds at most 245 constructors with fields, so the
decoder hands over the operations after those by constructors of this type, and `Decoded.instr` names
the instruction each stands for: a matter of running the model, not of the hardware. -/
inductive Decoded where
  | plain (i : Instr)
  | vsetn (o : VSetOps)
  | vsetnG (o : VSetOps)
  | vsetd (b c : GReg) (d : Fin 3)
  | vtag (a : VReg) (t : Tag)
  | vfsave (b : GReg)
  | vfrestore (b : GReg)
  | mand (o : MaskOps)
  | mor (o : MaskOps)
  | mxor (o : MaskOps)
  | mandn (o : MaskOps)
  | mmov (o : MaskMovOps)
  | mpopc (o : MaskCountOps)
  | mfirst (o : MaskCountOps)
  | vcvt (o : VCvtOps)
  | vcvtSat (o : VCvtOps)
  | vcvtI4 (o : VOne)
  | vcvtE3m2 (o : VOne)
  | vcvtE2m3 (o : VOne)
  | mattach (a b : GReg)
  | mshape (b : GReg)
  | mtld (t : BitVec 2) (b c : GReg)
  | mtldk (k : BitVec 2) (b c : GReg)
  | mtst (t : BitVec 2) (b c : GReg)
  | mring (t : BitVec 2) (n : Bool)
  | mma (o : MmaOps)
  | mmas (o : MmaOps) (wr : BitVec 3)
  | mext (a : VReg) (c : GReg) (relu : Bool) (f : ExtFmt) (m : MaskSel)
  | mextst (v : VReg) (b c : GReg) (relu : Bool) (f : ExtFmt) (m : MaskSel)
  deriving DecidableEq, Repr

/-- The instruction decoded. -/
noncomputable def Decoded.instr : Decoded → Instr
  | .plain i => i
  | .vsetn o => .vsetn o
  | .vsetnG o => .vsetnG o
  | .vsetd b c d => .vsetd b c d
  | .vtag a t => .vtag a t
  | .vfsave b => .vfsave b
  | .vfrestore b => .vfrestore b
  | .mand o => .mand o
  | .mor o => .mor o
  | .mxor o => .mxor o
  | .mandn o => .mandn o
  | .mmov o => .mmov o
  | .mpopc o => .mpopc o
  | .mfirst o => .mfirst o
  | .vcvt o => .vcvt o
  | .vcvtSat o => .vcvtSat o
  | .vcvtI4 o => .vcvtI4 o
  | .vcvtE3m2 o => .vcvtE3m2 o
  | .vcvtE2m3 o => .vcvtE2m3 o
  | .mattach a b => .mattach a b
  | .mshape b => .mshape b
  | .mtld t b c => .mtld t b c
  | .mtldk k b c => .mtldk k b c
  | .mtst t b c => .mtst t b c
  | .mring t n => .mring t n
  | .mma o => .mma o
  | .mmas o wr => .mmas o wr
  | .mext a c relu f m => .mext a c relu f m
  | .mextst v b c relu f m => .mextst v b c relu f m

/-! ### Decoding the compact form (R59) -/

def decode16 (w : BitVec 16) : Option Instr :=
  let r := w.extractLsb' 5 5
  let g := w.extractLsb' 0 5
  match (w.extractLsb' 10 6).toNat with
  | 0x01 => if r == 0 && g == 0 then some .cnop else none
  | 0x02 => some (.cmv r g)
  | 0x03 => some (.caddi r g)
  | 0x04 => some (.cadd r g)
  | 0x05 => some (.csub r g)
  | 0x06 => some (.cand r g)
  | 0x07 => some (.cor r g)
  | 0x08 => some (.cxor r g)
  | 0x09 => some (.cshli r g)
  | 0x0A => some (.cshri r g)
  | 0x0B => some (.csrai r g)
  | 0x0C => some (.cld r g)
  | 0x0D => some (.cst r g)
  | 0x0E => some (.cbnz (w.extractLsb' 0 10))
  | 0x0F => some (.cbez (w.extractLsb' 0 10))
  | 0x10 => some (.cvadd r g)
  | 0x11 => some (.cvmul r g)
  | 0x12 => some (.cvfma r g)
  | _ => none

/-! ### Decoding the base form -/

/-- The fields of the base form (R49). -/
structure Fields where
  a : BitVec 5
  x : BitVec 3
  b : BitVec 5
  c : BitVec 5
  f : BitVec 6
  maj : BitVec 6
  deriving DecidableEq, Repr

def fieldsOf (w : BitVec 32) : Fields :=
  { a := w.extractLsb' 3 5, x := w.extractLsb' 0 3, b := w.extractLsb' 22 5,
    c := w.extractLsb' 27 5, f := w.extractLsb' 16 6, maj := w.extractLsb' 8 6 }

/-- `i` when the must-be-zero fields are zero (R9, R84). -/
def whenZero {α : Type} (z : Bool) (i : α) : Option α := if z then some i else none

/-- Keep a term that `WellFormed` accepts. -/
def checked (i : Instr) : Option Instr := if WellFormed i then some i else none

/-- The I-format immediate {C, F, X} (R53). -/
def Fields.imm14 (d : Fields) : BitVec 14 := d.c ++ d.f ++ d.x

/-- The U- and J-format immediate {C, B, F, X} (R53). -/
def Fields.imm19 (d : Fields) : BitVec 19 := d.c ++ d.b ++ d.f ++ d.x

/-- INT.R (R63, R101). -/
def decIntR (d : Fields) : Option Instr :=
  let x0 := d.x == 0
  let c0 := d.x == 0 && d.c == 0
  match d.f.toNat with
  | 0x00 => whenZero x0 (.add d.a d.b d.c)
  | 0x01 => whenZero x0 (.sub d.a d.b d.c)
  | 0x02 => whenZero x0 (.and d.a d.b d.c)
  | 0x03 => whenZero x0 (.or d.a d.b d.c)
  | 0x04 => whenZero x0 (.xor d.a d.b d.c)
  | 0x05 => whenZero x0 (.andn d.a d.b d.c)
  | 0x06 => whenZero x0 (.orn d.a d.b d.c)
  | 0x07 => whenZero x0 (.xnor d.a d.b d.c)
  | 0x08 => whenZero x0 (.shl d.a d.b d.c)
  | 0x09 => whenZero x0 (.shr d.a d.b d.c)
  | 0x0A => whenZero x0 (.sra d.a d.b d.c)
  | 0x0B => whenZero x0 (.rol d.a d.b d.c)
  | 0x0C => whenZero x0 (.ror d.a d.b d.c)
  | 0x10 => whenZero x0 (.slt d.a d.b d.c)
  | 0x11 => whenZero x0 (.sltu d.a d.b d.c)
  | 0x12 => whenZero x0 (.min d.a d.b d.c)
  | 0x13 => whenZero x0 (.max d.a d.b d.c)
  | 0x14 => whenZero x0 (.minu d.a d.b d.c)
  | 0x15 => whenZero x0 (.maxu d.a d.b d.c)
  | 0x18 => whenZero x0 (.mul d.a d.b d.c)
  | 0x19 => whenZero x0 (.mulh d.a d.b d.c)
  | 0x1A => whenZero x0 (.mulhu d.a d.b d.c)
  | 0x1C => whenZero x0 (.div d.a d.b d.c)
  | 0x1D => whenZero x0 (.divu d.a d.b d.c)
  | 0x1E => whenZero x0 (.rem d.a d.b d.c)
  | 0x1F => whenZero x0 (.remu d.a d.b d.c)
  | 0x20 => whenZero c0 (.clz d.a d.b)
  | 0x21 => whenZero c0 (.ctz d.a d.b)
  | 0x22 => whenZero c0 (.popc d.a d.b)
  | 0x23 => whenZero c0 (.bswap d.a d.b)
  | 0x24 => if d.c == 0 then (ExtW.ofCode d.x).map (.sext d.a d.b) else none
  | 0x25 => if d.c == 0 then (ExtW.ofCode d.x).map (.zext d.a d.b) else none
  | 0x28 => whenZero x0 (.bfx d.a d.b d.c)
  | 0x29 => whenZero x0 (.bfi d.a d.b d.c)
  | 0x2A => whenZero x0 (.select d.a d.b d.c)
  | 0x2C => whenZero x0 (.addsc1 d.a d.b d.c)
  | 0x2D => whenZero x0 (.addsc2 d.a d.b d.c)
  | 0x2E => whenZero x0 (.addsc3 d.a d.b d.c)
  | _ => none

/-- SHIFTI (R106). -/
def decShiftI (d : Fields) : Option Instr :=
  let c0 := d.c == 0
  match d.x.toNat with
  | 0 => whenZero c0 (.shli d.a d.b d.f)
  | 1 => whenZero c0 (.shri d.a d.b d.f)
  | 2 => whenZero c0 (.srai d.a d.b d.f)
  | 3 => whenZero c0 (.rori d.a d.b d.f)
  | _ => none

/-- Major 0x0D (R65, R152). -/
def decMemX (d : Fields) : Option Instr :=
  let f4 := d.f.extractLsb' 4 2
  let s := d.f.extractLsb' 2 2
  let sc := d.f.extractLsb' 1 3
  match f4.toNat with
  | 0 => if d.f.extractLsb' 0 2 == 0 then (LoadSize.ofCode d.x).map (.loadx d.a d.b d.c s) else none
  | 1 => if d.f.extractLsb' 0 2 == 0 then (StoreSize.ofCode d.x).map (.storex d.a d.b d.c s) else none
  | 2 => if d.f.extractLsb' 0 1 == 0 && d.c == 0 then
      (Scope.ofCode sc).bind fun q => (LoadSize.ofCode d.x).map (.loadAcq d.a d.b q) else none
  | _ => if d.f.extractLsb' 0 1 == 0 && d.c == 0 then
      (Scope.ofCode sc).bind fun q => (StoreSize.ofCode d.x).map (.storeRel d.a d.b q) else none

/-- Major 0x0F (R67, R162). -/
def decFence (d : Fields) : Option Instr :=
  let lo := (d.f.extractLsb' 0 2).toNat
  let abc0 := d.a == 0 && d.b == 0 && d.c == 0
  let all0 := abc0 && d.x == 0 && lo == 0
  let ac0 := d.a == 0 && d.c == 0
  match (d.f.extractLsb' 2 4).toNat with
  | 0 =>
    if abc0 then
      (Scope.ofCode d.x).bind fun q =>
        match lo with
        | 1 => some (.fenceAcq q)
        | 2 => some (.fenceRel q)
        | 3 => some (.fenceFull q)
        | _ => none
    else none
  | 1 => whenZero all0 .fenceSv
  | 2 => whenZero all0 .fenceVs
  | 3 => whenZero all0 .fenceVv
  | 4 => whenZero all0 .fenceI
  | 5 =>
    match lo with
    | 2 => (Scope.ofCode d.x).map (.waitm d.a d.b d.c false)
    | 3 => (Scope.ofCode d.x).map (.waitm d.a d.b d.c true)
    | _ => none
  | 8 =>
    match lo with
    | 0 => whenZero (ac0 && d.x == 0) (.prefetch d.b false)
    | 1 => whenZero (ac0 && d.x == 0) (.prefetch d.b true)
    | _ => none
  | 9 => if ac0 && lo == 0 then (Scope.ofCode d.x).map (.clean d.b) else none
  | 10 => if ac0 && lo == 0 then (Scope.ofCode d.x).map (.flush d.b) else none
  | 11 => if ac0 && lo == 0 then (Scope.ofCode d.x).map (.inval d.b) else none
  | _ => none

/-- Major 0x18 (R387). -/
def decTask (d : Fields) : Option Instr :=
  let abc0 := d.a == 0 && d.b == 0 && d.c == 0 && d.x == 0
  match d.f.toNat with
  | 0 => whenZero (d.x.extractLsb' 2 1 == 0) (.spawn d.a d.b d.c (d.x.extractLsb' 0 2))
  | 1 => whenZero abc0 .join
  | 2 => whenZero abc0 .taskend
  | 4 => whenZero (d.a == 0 && d.x.extractLsb' 1 2 == 0) (.msgopen d.b d.c (d.x.getLsbD 0))
  | 5 => whenZero (d.b == 0 && d.c == 0 && d.x == 0) (.msgpoll d.a)
  | 6 => whenZero abc0 .msgdone
  | _ => none

/-- Major 0x19 (R367). -/
def decMoot (d : Fields) : Option Instr :=
  let c0 := d.c == 0
  let bc0 := d.b == 0 && d.c == 0
  let ac0 := d.a == 0 && d.c == 0
  let ty := MootType.ofCode (d.f.extractLsb' 0 2)
  match d.f.toNat with
  | 0x00 => some (.mootnew d.a d.b d.c d.x)
  | 0x01 => whenZero c0 (.mootjoin d.a d.b d.x)
  | 0x02 => whenZero (d.a == 0 && bc0) (.mootleave d.x)
  | 0x03 => whenZero bc0 (.mootfree d.a d.x)
  | 0x04 => whenZero bc0 (.mootarrive d.a d.x)
  | 0x05 => whenZero c0 (.mootwait d.a d.b d.x)
  | 0x06 => whenZero bc0 (.mootsync d.a d.x)
  | 0x08 => whenZero c0 (.mootvoteAll d.a d.b d.x)
  | 0x09 => whenZero c0 (.mootvoteAny d.a d.b d.x)
  | 0x0A => whenZero c0 (.mootvoteCount d.a d.b d.x)
  | 0x0C => whenZero ac0 (.mootbytes d.b d.x)
  | 0x0D => whenZero c0 (.mootquery d.a d.b d.x)
  | 0x0E => whenZero (d.a == 0 && bc0 && d.x == 0) .gbar
  | 0x10 | 0x11 | 0x12 | 0x13 => whenZero c0 (.mootredAdd d.a d.b ty d.x)
  | 0x14 | 0x15 | 0x16 | 0x17 => whenZero c0 (.mootredMin d.a d.b ty d.x)
  | 0x18 | 0x19 | 0x1A | 0x1B => whenZero c0 (.mootredMax d.a d.b ty d.x)
  | 0x1C => whenZero c0 (.mootredAnd d.a d.b d.x)
  | 0x1D => whenZero c0 (.mootredOr d.a d.b d.x)
  | 0x1E => whenZero c0 (.mootredXor d.a d.b d.x)
  | _ => none

/-- Major 0x1A (R419). -/
def decEngine (d : Fields) : Option Instr :=
  match d.f.toNat with
  | 0 => whenZero (d.c == 0 && d.x == 0) (.xcopy d.a d.b)
  | 1 => some (.qgather d.a d.b d.c d.x)
  | 2 => whenZero (d.c == 0 && d.x == 0) (.qwalk d.a d.b)
  | 3 => whenZero (d.a == 0 && d.x == 0) (.kick d.b d.c)
  | _ => none

/-- FP.R (R230, R231). -/
def decFpR (d : Fields) : Option Instr :=
  let f := FpFmt.ofCode (d.f.extractLsb' 0 2)
  let c0 := d.c == 0
  let x0 := d.x == 0
  match (d.f.extractLsb' 2 4).toNat with
  | 0 => (Rm.ofCode d.x).map (.fadd d.a d.b d.c f)
  | 1 => (Rm.ofCode d.x).map (.fsub d.a d.b d.c f)
  | 2 => (Rm.ofCode d.x).map (.fmul d.a d.b d.c f)
  | 3 => (Rm.ofCode d.x).map (.fdiv d.a d.b d.c f)
  | 4 => if c0 then (Rm.ofCode d.x).map (.fsqrt d.a d.b f) else none
  | 5 => whenZero x0 (.fmin d.a d.b d.c f)
  | 6 => whenZero x0 (.fmax d.a d.b d.c f)
  | 7 => (FsgnOp.ofCode d.x).map (.fsgn d.a d.b d.c f)
  | 8 => (FcmpOp.ofCode d.x).map (.fcmp d.a d.b d.c f)
  | 9 => whenZero (c0 && x0) (.fclass d.a d.b f)
  | 10 => if c0 then (Rm.ofCode d.x).map (.frnd d.a d.b f) else none
  | 11 => whenZero (c0 && x0) (.fmvx d.a d.b f)
  | _ => none

/-- FP.FMA (R234). -/
def decFma (d : Fields) : Option Instr :=
  let f := FpFmt.ofCode (d.f.extractLsb' 0 2)
  if d.f.extractLsb' 2 2 == 0 then
    (Rm.ofCode d.x).map fun rm =>
      match (d.f.extractLsb' 4 2).toNat with
      | 0 => .fma d.a d.b d.c f rm
      | 1 => .fms d.a d.b d.c f rm
      | 2 => .fnma d.a d.b d.c f rm
      | _ => .fnms d.a d.b d.c f rm
  else none

/-- FP.CVT (R235). -/
def decCvt (d : Fields) : Option Instr :=
  if d.c.getLsbD 4 || d.f.getLsbD 4 then none else
    (Rm.ofCode d.x).map fun rm =>
      .fcvt d.a d.b (CvtFmt.ofCode (d.f.extractLsb' 0 4)) (CvtFmt.ofCode (d.c.extractLsb' 0 4))
        (d.f.getLsbD 5) rm

/-- SYSTEM (R131). -/
def decSystem (d : Fields) : Option Instr :=
  let code : BitVec 10 := d.c ++ d.b
  let num : BitVec 12 := d.c ++ d.b ++ d.x.extractLsb' 0 2
  let a0 := d.a == 0
  let x0 := d.x == 0
  let none0 := d.a == 0 && d.b == 0 && d.c == 0 && d.x == 0
  let b0 := d.a == 0 && d.c == 0 && d.x == 0
  let x2 := d.x.getLsbD 2 == false
  match d.f.toNat with
  | 0x00 => whenZero (a0 && x0) (.syscall code)
  | 0x01 => whenZero (a0 && x0) (.brk code)
  | 0x02 => whenZero none0 .eret
  | 0x04 => whenZero x2 (.srd d.a num)
  | 0x05 => whenZero x2 (.swr d.a num)
  | 0x06 => whenZero x2 (.sswap d.a num)
  | 0x08 =>
    if a0 && x2 then
      (match (d.x.extractLsb' 0 2).toNat with
       | 0 => some (.tlbinv d.b d.c 0)
       | 1 => some (.tlbinv d.b d.c 1)
       | 2 => some (.tlbinv d.b d.c 2)
       | _ => none)
    else none
  | 0x09 => whenZero b0 (.migrate d.b)
  | 0x0A => whenZero none0 .yield
  | 0x0B => whenZero b0 (.pause d.b)
  | 0x0C => whenZero none0 .halt
  | 0x0D => whenZero none0 .wfm
  | _ => none

/-- The base-form operands of a V-format major; form 0b11 is reserved (R54). -/
def decVBase (d : Fields) : Option VBase :=
  (VForm.ofCode (d.f.extractLsb' 0 2)).map fun fm =>
    { a := d.a, c := d.c, b := d.b, j := d.f.getLsbD 5, drv := d.f.extractLsb' 2 3, form := fm, m := d.x }

/-- The base-form operands of VCMP (R74). -/
def decVCmpBase (d : Fields) : Option VCmpBase :=
  (VForm.ofCode (d.f.extractLsb' 0 2)).map fun fm =>
    { comb := d.a.extractLsb' 3 2, md := d.a.extractLsb' 0 3, c := d.c, b := d.b,
      j := d.f.getLsbD 5, drv := d.f.extractLsb' 2 3, form := fm, m := d.x }

/-- The base-form operands of the VFMA family, at a given form. -/
def decVFmaBase (d : Fields) (fm : FmaForm) : VFmaBase :=
  { a := d.a, c := d.c, b := d.b, j := d.f.getLsbD 5, drv := d.f.extractLsb' 2 3, form := fm, m := d.x }

/-- The VEC.UN operation that B selects (R75), with its modifier field. -/
def decVUn (d : Fields) (mod : CMod) : Option Instr :=
  let o : VUn := { a := d.a, c := d.c, j := d.f.getLsbD 5, m := d.x, mod := mod }
  match d.b.toNat with
  | 0 => some (.vmv o)
  | 1 => some (.vneg o)
  | 2 => some (.vabs o)
  | 3 => some (.vnot o)
  | 4 => some (.vsqrt o)
  | 5 => some (.vrcp o)
  | 6 => some (.vrsq o)
  | 7 => some (.vexp2 o)
  | 8 => some (.vlog2 o)
  | 9 => some (.vtanh o)
  | 10 => some (.vclz o)
  | 11 => some (.vpopc o)
  | _ => none

/-- The base form of majors 0x20 to 0x33 (R74, R75). -/
def decVArith (d : Fields) : Option Instr :=
  match d.maj.toNat with
  | 0x20 => (decVBase d).map .vadd
  | 0x21 => (decVBase d).map .vsub
  | 0x22 => (decVBase d).map .vrsub
  | 0x23 => (decVBase d).map .vmul
  | 0x24 => (decVBase d).map .vmulh
  | 0x25 => (decVBase d).map .vdiv
  | 0x26 => (decVBase d).map .vrem
  | 0x27 => (decVBase d).map .vmin
  | 0x28 => (decVBase d).map .vmax
  | 0x29 => (decVBase d).map .vand
  | 0x2A => (decVBase d).map .vor
  | 0x2B => (decVBase d).map .vxor
  | 0x2C => (decVBase d).map .vshl
  | 0x2D => (decVBase d).map .vshr
  | 0x2E =>
    match (d.f.extractLsb' 0 2).toNat with
    | 0 => some (.vfma (decVFmaBase d .vv))
    | 1 => some (.vfma (decVFmaBase d .vx))
    | 2 => some (.vfms (decVFmaBase d .vv))
    | _ => some (.vfnma (decVFmaBase d .vv))
  | 0x2F => if d.f.extractLsb' 0 2 == 0 then decVUn d (.short (d.f.extractLsb' 2 3)) else none
  | 0x30 => (decVCmpBase d).map .vcmpEq
  | 0x31 => (decVCmpBase d).map .vcmpNe
  | 0x32 => (decVCmpBase d).map .vcmpLt
  | 0x33 => (decVCmpBase d).map .vcmpLe
  | _ => none

/-- VEC.MISC (R301), with the descriptors of the long form when there is one. -/
def decMisc (d : Fields) (mods : Option (Drove × Drove)) : Option Instr :=
  let j := d.f.getLsbD 5
  let dc := mods.map (·.2)
  let long := mods.isSome
  let dbNone : Bool := match mods with | none => true | some p => p.1 == .none
  let bothNone : Bool := match mods with | none => true | some p => p.1 == .none && p.2 == .none
  let one : VOne := { a := d.a, c := d.c, j := j, m := d.x, dc := dc }
  let red (k : VRedOps → Instr) : Option Instr :=
    if dbNone then (RedOp.ofCode d.b).map fun op =>
      k { a := d.a, c := d.c, op := op, j := j, m := d.x, dc := dc } else none
  match (d.f.extractLsb' 0 5).toNat with
  | 0x00 => checked (.vsel { a := d.a, c := d.c, b := d.b, j := j, m := d.x, mods := mods })
  | 0x01 => red .vred
  | 0x02 => red .vredO
  | 0x03 => red .vscan
  | 0x04 => if dbNone && d.b == 0 then checked (.vcompress one) else none
  | 0x05 => if dbNone && d.b == 0 then checked (.vexpand one) else none
  | 0x06 => whenZero (bothNone && d.b == 0 && d.c == 0) (.viota { a := d.a, j := j, m := d.x, long := long })
  | 0x07 => whenZero dbNone (.vreshape { a := d.a, c := d.c, b := d.b, j := j, m := d.x, dc := dc })
  | 0x08 => whenZero (dbNone && !j && d.x == 0) (.vextract { a := d.a, c := d.c, b := d.b, dc := dc })
  | 0x09 => whenZero bothNone (.vinsert { a := d.a, b := d.b, c := d.c, j := j, m := d.x, long := long })
  | _ => none

/-- VEC.MASK (R310). -/
def decMask (d : Fields) (long : Bool) : Option Decoded :=
  let j := d.f.getLsbD 5
  let x0 := d.x == 0
  let mk (r : BitVec 5) : BitVec 3 := r.extractLsb' 0 3
  let isM (r : BitVec 5) : Bool := r.extractLsb' 3 2 == 0
  let o : MaskOps := { a := mk d.a, b := mk d.b, c := mk d.c, j := j, long := long }
  let three := x0 && isM d.a && isM d.b && isM d.c
  let cnt : MaskCountOps := { a := d.a, c := mk d.c, long := long }
  match (d.f.extractLsb' 0 5).toNat with
  | 0 => whenZero three (.mand o)
  | 1 => whenZero three (.mor o)
  | 2 => whenZero three (.mxor o)
  | 3 => whenZero three (.mandn o)
  | 4 => whenZero (x0 && isM d.a && isM d.c && d.b == 0) (.mmov { a := mk d.a, c := mk d.c, j := j, long := long })
  | 5 => whenZero (x0 && isM d.c && d.b == 0 && !j) (.mpopc cnt)
  | 6 => whenZero (x0 && isM d.c && d.b == 0 && !j) (.mfirst cnt)
  | _ => none

/-- VEC.CFG (R251). -/
def decCfg (d : Fields) : Option Decoded :=
  let o : VSetOps :=
    { a := d.a, b := d.b, sew := Sew.ofCode (d.c.extractLsb' 0 2), grp := Grp.ofCode (d.c.extractLsb' 2 2),
      tz := d.c.getLsbD 4, mz := d.x.getLsbD 0 }
  let setOk := d.x.extractLsb' 1 2 == 0
  match d.f.toNat with
  | 0 => whenZero setOk (.vsetn o)
  | 1 => whenZero setOk (.vsetnG o)
  | 2 =>
    if d.a == 0 then
      (match d.x.toNat with
       | 0 => some (.vsetd d.b d.c 0)
       | 1 => some (.vsetd d.b d.c 1)
       | 2 => some (.vsetd d.b d.c 2)
       | _ => none)
    else none
  | 3 => whenZero (d.b == 0 && d.c == 0) (.vtag d.a (Tag.ofCode d.x))
  | 4 => whenZero (d.a == 0 && d.c == 0 && d.x == 0) (.vfsave d.b)
  | 5 => whenZero (d.a == 0 && d.c == 0 && d.x == 0) (.vfrestore d.b)
  | _ => none

/-- VEC.CVT (R79). -/
def decVCvt (d : Fields) (mods : Option (Drove × Drove)) : Option Decoded :=
  let j := d.f.getLsbD 5
  let dc := mods.map (·.2)
  let dbNone : Bool := match mods with | none => true | some p => p.1 == .none
  let cvt (k : VCvtOps → Decoded) : Option Decoded :=
    (Rm.ofCode (d.f.extractLsb' 0 3)).bind fun rm =>
      let o : VCvtOps := { a := d.a, c := d.c, tag := Tag.ofCode (d.b.extractLsb' 0 3),
                           sew := Sew.ofCode (d.b.extractLsb' 3 2), rm := rm, j := j, m := d.x, dc := dc }
      whenZero o.wf (k o)
  let one : VOne := { a := d.a, c := d.c, j := j, m := d.x, dc := dc }
  if dbNone then
    match (d.f.extractLsb' 3 2).toNat with
    | 0 => cvt .vcvt
    | 1 => cvt .vcvtSat
    | 2 =>
      if d.b == 0 then
        (match (d.f.extractLsb' 0 3).toNat with
         | 0 => some (.vcvtI4 one)
         | 1 => some (.vcvtE3m2 one)
         | 2 => some (.vcvtE2m3 one)
         | _ => none)
      else none
    | _ => none
  else none

/-- The addressing of VLD and VST; with D = 1, C is must-be-zero (R55). -/
def decVAddr (d : Fields) : Option VAddr :=
  if d.f.getLsbD 4 then (if d.c == 0 then some .sweep else none) else some (.strided d.c)

/-- Majors 0x38 to 0x3B (R289); `off` is the long form's offset. -/
def decVMem (d : Fields) (off : Option (BitVec 32)) : Option Instr :=
  let j := d.f.getLsbD 5
  let u := d.f.getLsbD 3
  let dd := d.f.getLsbD 4
  let tg := Tag.ofCode (d.f.extractLsb' 0 3)
  let t0 := d.f.extractLsb' 0 3 == 0
  match d.maj.toNat with
  | 0x38 =>
    (decVAddr d).map fun ad =>
      let o : VLdOps := { a := d.a, b := d.b, addr := ad, j := j, u := u, tag := tg, m := d.x }
      match off with | none => .vld o | some e => .vldL o e
  | 0x39 =>
    if t0 then
      (decVAddr d).map fun ad =>
        let o : VStOps := { a := d.a, b := d.b, addr := ad, j := j, u := u, m := d.x }
        match off with | none => .vst o | some e => .vstL o e
    else none
  | 0x3A =>
    if dd then none else
      let o : VLdxOps := { a := d.a, b := d.b, c := d.c, j := j, u := u, tag := tg, m := d.x }
      some (match off with | none => .vldx o | some e => .vldxL o e)
  | 0x3B =>
    if dd || !t0 then none else
      let o : VStxOps := { a := d.a, b := d.b, c := d.c, j := j, u := u, m := d.x }
      some (match off with | none => .vstx o | some e => .vstxL o e)
  | _ => none

/-- VSTREAM (R297). -/
def decStream (d : Fields) (off : Option (BitVec 32)) : Option Instr :=
  let j := d.f.getLsbD 5
  let tg := d.f.extractLsb' 0 3
  let wb := d.b.extractLsb' 0 3
  let wa := d.a.extractLsb' 0 3
  let bw := d.b.extractLsb' 3 2 == 0
  let aw := d.a.extractLsb' 3 2 == 0
  match (d.f.extractLsb' 3 2).toNat with
  | 0 => whenZero (bw && d.c == 0) (.vldW { a := d.a, w := wb, j := j, tag := Tag.ofCode tg, m := d.x, off := off })
  | 1 => whenZero (bw && d.c == 0 && tg == 0) (.vstW { a := d.a, w := wb, j := j, m := d.x, off := off })
  | 2 => whenZero (aw && !j && tg == 0 && d.x == 0) (.wset wa d.b d.c off)
  | _ => whenZero (aw && !j && tg == 0 && d.x == 0 && d.c == 0) (.wadv wa d.b off)

/-- MAT.A (R335). -/
def decMatA (d : Fields) : Option Decoded :=
  let none0 := d.a == 0 && d.b == 0 && d.c == 0 && d.x == 0
  let t := d.a.extractLsb' 0 2
  let isT := d.a.extractLsb' 2 3 == 0
  match d.f.toNat with
  | 0 => whenZero (d.c == 0 && d.x == 0) (.mattach d.a d.b)
  | 1 => whenZero none0 (.plain .mdetach)
  | 2 => whenZero (d.a == 0 && d.c == 0 && d.x == 0) (.mshape d.b)
  | 3 => whenZero (isT && d.x == 0) (.mtld t d.b d.c)
  | 4 => whenZero (isT && d.x == 0) (.mtldk t d.b d.c)
  | 5 => whenZero (isT && d.x == 0) (.mtst t d.b d.c)
  | 6 => whenZero none0 (.plain .mzero)
  | 7 => whenZero none0 (.plain .mrel)
  | 8 => whenZero none0 (.plain .mwait)
  | 9 => whenZero (isT && d.b == 0 && d.c == 0 && d.x.extractLsb' 1 2 == 0) (.mring t (d.x.getLsbD 0))
  | _ => none

/-- The B operand of MMA: codes 6 to 31 are illegal (R338). -/
def decMatB (b : BitVec 5) : Option MatB :=
  match b.toNat with
  | 0 => some (.tile 0) | 1 => some (.tile 1) | 2 => some (.tile 2) | 3 => some (.tile 3)
  | 4 => some (.latch false) | 5 => some (.latch true) | _ => none

/-- MAT.B (R338). -/
def decMatBMaj (d : Fields) : Option Decoded :=
  let isT := d.a.extractLsb' 2 3 == 0
  let mma : Option MmaOps :=
    if isT && d.c.getLsbD 4 == false then
      (decMatB d.b).map fun q =>
        { t := d.a.extractLsb' 0 2, b := q, ka := d.c.extractLsb' 0 2, kb := d.c.extractLsb' 2 2, cb := d.x }
    else none
  let relu := d.f.getLsbD 3
  let lo := d.f.extractLsb' 0 3
  match (d.f.extractLsb' 4 2).toNat with
  | 0 => if d.f.extractLsb' 0 4 == 0 then mma.map .mma else none
  | 1 => if relu then none else mma.map fun o => .mmas o lo
  | 2 => if d.b == 0 then (ExtFmt.ofCode lo).map fun f => .mext d.a d.c relu f d.x else none
  | _ => (ExtFmt.ofCode lo).map fun f => .mextst d.a d.b d.c relu f d.x

/-- A base-form instruction of the majors other than the masks, the configuration, the vector
conversions and the matrix majors (R62, R84). -/
def decode32Plain (d : Fields) : Option Instr :=
  match d.maj.toNat with
  | 0x01 => decIntR d
  | 0x02 => some (.addi d.a d.b d.imm14)
  | 0x03 => some (.andi d.a d.b d.imm14)
  | 0x04 => some (.ori d.a d.b d.imm14)
  | 0x05 => some (.xori d.a d.b d.imm14)
  | 0x06 => some (.slti d.a d.b d.imm14)
  | 0x07 => some (.sltiu d.a d.b d.imm14)
  | 0x08 => decShiftI d
  | 0x09 => some (.ldhi d.a d.imm19)
  | 0x0A => some (.addpc d.a d.imm19)
  | 0x0B => (LoadSize.ofCode d.x).map (.load d.a d.b (d.c ++ d.f))
  | 0x0C => (StoreSize.ofCode d.x).map (.store d.a d.b (d.c ++ d.f))
  | 0x0D => decMemX d
  | 0x0F => decFence d
  | 0x10 => some (.beq d.a d.b d.imm14)
  | 0x11 => some (.bne d.a d.b d.imm14)
  | 0x12 => some (.blt d.a d.b d.imm14)
  | 0x13 => some (.bge d.a d.b d.imm14)
  | 0x14 => some (.bltu d.a d.b d.imm14)
  | 0x15 => some (.bgeu d.a d.b d.imm14)
  | 0x16 => some (.call d.a (d.c ++ d.b ++ d.f ++ d.x))
  | 0x17 => some (.jumpr d.a d.b d.imm14)
  | 0x18 => decTask d
  | 0x19 => decMoot d
  | 0x1A => decEngine d
  | 0x1B => decFpR d
  | 0x1C => decFma d
  | 0x1D => decCvt d
  | 0x1E => decSystem d
  | 0x34 => decMisc d none
  | 0x38 | 0x39 | 0x3A | 0x3B => decVMem d none
  | 0x3C => decStream d none
  | _ => decVArith d

/-- A base-form instruction (R62, R84). -/
def decode32 (w : BitVec 32) : Option Decoded :=
  let d := fieldsOf w
  match d.maj.toNat with
  | 0x35 => decMask d false
  | 0x36 => decCfg d
  | 0x37 => decVCvt d none
  | 0x3D => decMatA d
  | 0x3E => decMatBMaj d
  | _ => (decode32Plain d).map .plain

/-! ### Decoding the long form (R56) -/

/-- The long-form operands of a V-format major: F[4:2] is must-be-zero, and the B descriptor of a vx
or vi form is kind 0 (R56, R58). -/
def decVLong (d : Fields) (db dc : Drove) : Option VLong :=
  if d.f.extractLsb' 2 3 == 0 then
    (VForm.ofCode (d.f.extractLsb' 0 2)).bind fun fm =>
      let o : VLong := { a := d.a, c := d.c, b := d.b, j := d.f.getLsbD 5, form := fm, m := d.x, db := db, dc := dc }
      if o.wf then some o else none
  else none

/-- The long-form operands of VCMP. -/
def decVCmpLong (d : Fields) (db dc : Drove) : Option VCmpLong :=
  if d.f.extractLsb' 2 3 == 0 then
    (VForm.ofCode (d.f.extractLsb' 0 2)).bind fun fm =>
      let o : VCmpLong := { comb := d.a.extractLsb' 3 2, md := d.a.extractLsb' 0 3, c := d.c, b := d.b,
                            j := d.f.getLsbD 5, form := fm, m := d.x, db := db, dc := dc }
      if o.wf then some o else none
  else none

/-- The long-form VFMA family. -/
def decVFmaLong (d : Fields) (db dc : Drove) : Option Instr :=
  let o (fm : FmaForm) : VFmaLong :=
    { a := d.a, c := d.c, b := d.b, j := d.f.getLsbD 5, form := fm, m := d.x, db := db, dc := dc }
  if d.f.extractLsb' 2 3 == 0 then
    match (d.f.extractLsb' 0 2).toNat with
    | 0 => checked (.vfmaL (o .vv))
    | 1 => checked (.vfmaL (o .vx))
    | 2 => checked (.vfmsL (o .vv))
    | _ => checked (.vfnmaL (o .vv))
  else none

/-- The long form of majors 0x20 to 0x33. -/
def decVArithLong (d : Fields) (db dc : Drove) : Option Instr :=
  match d.maj.toNat with
  | 0x20 => (decVLong d db dc).map .vaddL
  | 0x21 => (decVLong d db dc).map .vsubL
  | 0x22 => (decVLong d db dc).map .vrsubL
  | 0x23 => (decVLong d db dc).map .vmulL
  | 0x24 => (decVLong d db dc).map .vmulhL
  | 0x25 => (decVLong d db dc).map .vdivL
  | 0x26 => (decVLong d db dc).map .vremL
  | 0x27 => (decVLong d db dc).map .vminL
  | 0x28 => (decVLong d db dc).map .vmaxL
  | 0x29 => (decVLong d db dc).map .vandL
  | 0x2A => (decVLong d db dc).map .vorL
  | 0x2B => (decVLong d db dc).map .vxorL
  | 0x2C => (decVLong d db dc).map .vshlL
  | 0x2D => (decVLong d db dc).map .vshrL
  | 0x2E => decVFmaLong d db dc
  | 0x2F => if d.f.extractLsb' 0 5 == 0 && db == .none then decVUn d (.long dc) else none
  | 0x30 => (decVCmpLong d db dc).map .vcmpEqL
  | 0x31 => (decVCmpLong d db dc).map .vcmpNeL
  | 0x32 => (decVCmpLong d db dc).map .vcmpLtL
  | 0x33 => (decVCmpLong d db dc).map .vcmpLeL
  | _ => none

/-- ATOMIC, which has the long form alone (R66, R156). -/
def decAtomic (d : Fields) (ext : BitVec 32) : Option Instr :=
  if ext.extractLsb' 2 14 == 0 then
    (Scope.ofCode d.x).bind fun sc =>
      let o : AmoOps := { a := d.a, b := d.b, c := d.c, dbl := d.f.getLsbD 1, far := d.f.getLsbD 0,
                          scope := sc, ord := AmoOrd.ofCode (ext.extractLsb' 0 2), off := ext.extractLsb' 16 16 }
      match (d.f.extractLsb' 2 4).toNat with
      | 0 => some (.amoadd o)
      | 1 => some (.amoand o)
      | 2 => some (.amoor o)
      | 3 => some (.amoxor o)
      | 4 => some (.amomin o)
      | 5 => some (.amomax o)
      | 6 => some (.amominu o)
      | 7 => some (.amomaxu o)
      | 8 => some (.amoswap o)
      | 9 => some (.amofadd o)
      | 10 => some (.cas o)
      | _ => none
  else none

/-- The two descriptors of the second word (R56, R57). -/
def drovesOf (ext : BitVec 32) : Option (Drove × Drove) :=
  (Drove.ofCode (ext.extractLsb' 0 16)).bind fun db =>
    (Drove.ofCode (ext.extractLsb' 16 16)).map fun dc => (db, dc)

/-- A long-form instruction of the majors other than the masks and the vector conversions (R56). -/
def decode64Plain (d : Fields) (ext : BitVec 32) : Option Instr :=
  let cfx0 := d.c == 0 && d.f == 0 && d.x == 0
  let cbfx0 := cfx0 && d.b == 0
  let cf0 := d.c == 0 && d.f == 0
  match d.maj.toNat with
  | 0x02 => whenZero cfx0 (.addiL d.a d.b ext)
  | 0x03 => whenZero cfx0 (.andiL d.a d.b ext)
  | 0x04 => whenZero cfx0 (.oriL d.a d.b ext)
  | 0x05 => whenZero cfx0 (.xoriL d.a d.b ext)
  | 0x06 => whenZero cfx0 (.sltiL d.a d.b ext)
  | 0x07 => whenZero cfx0 (.sltiuL d.a d.b ext)
  | 0x0A => whenZero cbfx0 (.laddpc d.a ext)
  | 0x0B => if cf0 then (LoadSize.ofCode d.x).map (.loadL d.a d.b ext) else none
  | 0x0C => if cf0 then (StoreSize.ofCode d.x).map (.storeL d.a d.b ext) else none
  | 0x0E => decAtomic d ext
  | 0x10 => whenZero cfx0 (.beqL d.a d.b ext)
  | 0x11 => whenZero cfx0 (.bneL d.a d.b ext)
  | 0x12 => whenZero cfx0 (.bltL d.a d.b ext)
  | 0x13 => whenZero cfx0 (.bgeL d.a d.b ext)
  | 0x14 => whenZero cfx0 (.bltuL d.a d.b ext)
  | 0x15 => whenZero cfx0 (.bgeuL d.a d.b ext)
  | 0x16 => whenZero cbfx0 (.lcall d.a ext)
  | 0x34 => (drovesOf ext).bind fun p => decMisc d (some p)
  | 0x38 | 0x39 | 0x3A | 0x3B => decVMem d (some ext)
  | 0x3C => decStream d (some ext)
  | _ => (drovesOf ext).bind fun p => decVArithLong d p.1 p.2

/-- A long-form instruction (R56). -/
def decode64 (w : BitVec 64) : Option Decoded :=
  let d := fieldsOf (w.extractLsb' 0 32)
  let ext := w.extractLsb' 32 32
  match d.maj.toNat with
  | 0x35 => (drovesOf ext).bind fun p => if p.1 == .none && p.2 == .none then decMask d true else none
  | 0x37 => (drovesOf ext).bind fun p => decVCvt d (some p)
  | _ => (decode64Plain d ext).map .plain

/-! ### Bytes -/

/-- Bytes in ascending address order, as one number (R7, R48). -/
def leNat : List Byte → Nat
  | [] => 0
  | x :: xs => x.toNat + 256 * leNat xs

/-- The instruction's length in bytes, by bits 15:14 of its first halfword (R47). -/
def lengthOf (h0 : BitVec 16) : Nat :=
  match (h0.extractLsb' 14 2).toNat with
  | 0 => 2
  | 1 => 2
  | 2 => 4
  | _ => 8

/-- An instruction of `len` bytes whose bits are `bits` (R47). -/
def decodeRaw (len : Nat) (bits : Word) : Option Decoded :=
  match len with
  | 2 => (decode16 (bits.extractLsb' 0 16)).map .plain
  | 4 => decode32 (bits.extractLsb' 0 32)
  | 8 => decode64 bits
  | _ => none

/-- `decodeRaw`, answering the instruction itself. -/
noncomputable def decodeBits (len : Nat) (bits : Word) : Option Instr := (decodeRaw len bits).map Decoded.instr

/-- The decoder on any bytes: what stands at their front and the bytes after it, or the reason there
is none. -/
def decodeBytes (bs : List Byte) : Except DecodeError (Decoded × List Byte) :=
  match bs with
  | b0 :: b1 :: _ =>
    let len := lengthOf (b1 ++ b0)
    if bs.length < len then .error .short
    else
      let bits : Word := BitVec.ofNat 64 (leNat (bs.take len))
      match decodeRaw len bits with
      | some i => .ok (i, bs.drop len)
      | none => .error (.illegal len bits)
  | _ => .error .short

/-- The decoder on any bytes, answering the instruction itself. -/
noncomputable def decode (bs : List Byte) : Except DecodeError (Instr × List Byte) :=
  match decodeBytes bs with
  | .ok p => .ok (p.1.instr, p.2)
  | .error e => .error e

/-- The `n` bytes of a number, least significant first. -/
def leBytes : Nat → Nat → List Byte
  | 0, _ => []
  | n + 1, v => BitVec.ofNat 8 v :: leBytes n (v / 256)

/-- The instruction the decoder reads from an instruction whose bits are `w`, every bit from `nbits`
up being zero. -/
noncomputable def decodeTableWord (nbits w : Nat) : Option Instr :=
  match decode (leBytes 8 (w % 2 ^ nbits)) with
  | .ok p => some p.1
  | .error _ => none

/-! ### Encoding -/

/-- An encoding: its length in bytes and its bits, zero-extended as SY.TRAPVAL holds them (R84). -/
structure Enc where
  len : Nat
  bits : Word
  deriving DecidableEq, Repr

def enc16 (op : BitVec 6) (r g : BitVec 5) : Enc :=
  { len := 2, bits := (op ++ r ++ g : BitVec 16).setWidth 64 }

/-- The fields of R49 assembled, with the given LEN. -/
def word32 (c b : BitVec 5) (f : BitVec 6) (ln : BitVec 2) (maj : BitVec 6) (a : BitVec 5) (x : BitVec 3) : BitVec 32 :=
  c ++ b ++ f ++ ln ++ maj ++ a ++ x

def enc32 (maj : BitVec 6) (f : BitVec 6) (a : BitVec 5) (x : BitVec 3) (b c : BitVec 5) : Enc :=
  { len := 4, bits := (word32 c b f 2 maj a x).setWidth 64 }

def enc64 (maj : BitVec 6) (f : BitVec 6) (a : BitVec 5) (x : BitVec 3) (b c : BitVec 5) (ext : BitVec 32) : Enc :=
  { len := 8, bits := ext ++ word32 c b f 3 maj a x }

def encIntR (f : BitVec 6) (a b c : GReg) : Enc := enc32 1 f a 0 b c

def encImm (maj : BitVec 6) (a b : GReg) (imm : BitVec 14) : Enc :=
  enc32 maj (imm.extractLsb' 3 6) a (imm.extractLsb' 0 3) b (imm.extractLsb' 9 5)

def encImmL (maj : BitVec 6) (a b : GReg) (imm : BitVec 32) : Enc := enc64 maj 0 a 0 b 0 imm

def encU (maj : BitVec 6) (a : GReg) (imm : BitVec 19) : Enc :=
  enc32 maj (imm.extractLsb' 3 6) a (imm.extractLsb' 0 3) (imm.extractLsb' 9 5) (imm.extractLsb' 14 5)

def encM (maj : BitVec 6) (a b : GReg) (off : BitVec 11) (x : BitVec 3) : Enc :=
  enc32 maj (off.extractLsb' 0 6) a x b (off.extractLsb' 6 5)

def encAmo (op : BitVec 4) (o : AmoOps) : Enc :=
  enc64 0x0E (op ++ BitVec.ofBool o.dbl ++ BitVec.ofBool o.far) o.a o.scope.code o.b o.c
    (o.off ++ 0#14 ++ o.ord.code)

def encMoot (f : BitVec 6) (a b c : GReg) (h : BitVec 3) : Enc := enc32 0x19 f a h b c

def encFp (op : BitVec 4) (f : FpFmt) (a : GReg) (x : BitVec 3) (b c : GReg) : Enc :=
  enc32 0x1B (op ++ f.code) a x b c

def encFmaR (op : BitVec 2) (f : FpFmt) (rm : Rm) (a b c : GReg) : Enc :=
  enc32 0x1C (op ++ 0#2 ++ f.code) a rm.code b c

def encSysReg (f : BitVec 6) (a : GReg) (num : BitVec 12) : Enc :=
  enc32 0x1E f a (0#1 ++ num.extractLsb' 0 2) (num.extractLsb' 2 5) (num.extractLsb' 7 5)

def encVBase (maj : BitVec 6) (o : VBase) : Enc :=
  enc32 maj (BitVec.ofBool o.j ++ o.drv ++ o.form.code) o.a o.m o.b o.c

def encVLong (maj : BitVec 6) (o : VLong) : Enc :=
  enc64 maj (BitVec.ofBool o.j ++ 0#3 ++ o.form.code) o.a o.m o.b o.c (o.dc.code ++ o.db.code)

def encVFmaBase (form : BitVec 2) (o : VFmaBase) : Enc :=
  enc32 0x2E (BitVec.ofBool o.j ++ o.drv ++ form) o.a o.m o.b o.c

def encVFmaLong (form : BitVec 2) (o : VFmaLong) : Enc :=
  enc64 0x2E (BitVec.ofBool o.j ++ 0#3 ++ form) o.a o.m o.b o.c (o.dc.code ++ o.db.code)

def encVCmpBase (maj : BitVec 6) (o : VCmpBase) : Enc :=
  enc32 maj (BitVec.ofBool o.j ++ o.drv ++ o.form.code) (o.comb ++ o.md) o.m o.b o.c

def encVCmpLong (maj : BitVec 6) (o : VCmpLong) : Enc :=
  enc64 maj (BitVec.ofBool o.j ++ 0#3 ++ o.form.code) (o.comb ++ o.md) o.m o.b o.c (o.dc.code ++ o.db.code)

def encVUn (op : BitVec 5) (o : VUn) : Enc :=
  match o.mod with
  | .short k => enc32 0x2F (BitVec.ofBool o.j ++ k ++ 0#2) o.a o.m op o.c
  | .long d => enc64 0x2F (BitVec.ofBool o.j ++ 0#5) o.a o.m op o.c (d.code ++ 0#16)

/-- A VEC.MISC or VEC.CVT word, base or long by the descriptors given. -/
def encOpt (maj : BitVec 6) (j : Bool) (f : BitVec 5) (a : BitVec 5) (x : BitVec 3) (b c : BitVec 5)
    (mods : Option (Drove × Drove)) : Enc :=
  match mods with
  | none => enc32 maj (BitVec.ofBool j ++ f) a x b c
  | some p => enc64 maj (BitVec.ofBool j ++ f) a x b c (p.2.code ++ p.1.code)

/-- The descriptors of a long form whose B descriptor is kind 0. -/
def onlyC (dc : Option Drove) : Option (Drove × Drove) := dc.map fun d => (.none, d)

/-- The descriptors of a long form that takes no modifier. -/
def noMods (long : Bool) : Option (Drove × Drove) := if long then some (.none, .none) else none

def m5 (m : MReg) : BitVec 5 := 0#2 ++ m

def t5 (t : BitVec 2) : BitVec 5 := 0#3 ++ t

def VAddr.cField : VAddr → BitVec 5
  | .strided c => c
  | .sweep => 0

def VAddr.dBit : VAddr → Bool
  | .strided _ => false
  | .sweep => true

/-- A VM-format word (R289). -/
def encVm (maj : BitVec 6) (j dd u : Bool) (tag : BitVec 3) (a : BitVec 5) (x : BitVec 3) (b c : BitVec 5)
    (off : Option (BitVec 32)) : Enc :=
  let f : BitVec 6 := BitVec.ofBool j ++ BitVec.ofBool dd ++ BitVec.ofBool u ++ tag
  match off with
  | none => enc32 maj f a x b c
  | some e => enc64 maj f a x b c e

/-- A VSTREAM word (R297). -/
def encStream (j : Bool) (op : BitVec 2) (tag : BitVec 3) (a : BitVec 5) (x : BitVec 3) (b c : BitVec 5)
    (off : Option (BitVec 32)) : Enc :=
  let f : BitVec 6 := BitVec.ofBool j ++ op ++ tag
  match off with
  | none => enc32 0x3C f a x b c
  | some e => enc64 0x3C f a x b c e

def MatB.code : MatB → BitVec 5
  | .tile t => 0#3 ++ t
  | .latch n => 2#4 ++ BitVec.ofBool n

def encMma (f : BitVec 6) (o : MmaOps) : Enc :=
  enc32 0x3E f (t5 o.t) o.cb o.b.code (0#1 ++ o.kb ++ o.ka)

/-- The words of an instruction, from the encoding tables of the spec; an event has none. -/
def encode : Instr → Option Enc
  | .cnop => some (enc16 1 0 0)
  | .cmv r g => some (enc16 2 r g)
  | .caddi r g => some (enc16 3 r g)
  | .cadd r g => some (enc16 4 r g)
  | .csub r g => some (enc16 5 r g)
  | .cand r g => some (enc16 6 r g)
  | .cor r g => some (enc16 7 r g)
  | .cxor r g => some (enc16 8 r g)
  | .cshli r g => some (enc16 9 r g)
  | .cshri r g => some (enc16 10 r g)
  | .csrai r g => some (enc16 11 r g)
  | .cld r g => some (enc16 12 r g)
  | .cst r g => some (enc16 13 r g)
  | .cvadd r g => some (enc16 16 r g)
  | .cvmul r g => some (enc16 17 r g)
  | .cvfma r g => some (enc16 18 r g)
  | .cbnz d => some (enc16 0x0E (d.extractLsb' 5 5) (d.extractLsb' 0 5))
  | .cbez d => some (enc16 0x0F (d.extractLsb' 5 5) (d.extractLsb' 0 5))
  | .add a b c => some (encIntR 0x00 a b c)
  | .sub a b c => some (encIntR 0x01 a b c)
  | .and a b c => some (encIntR 0x02 a b c)
  | .or a b c => some (encIntR 0x03 a b c)
  | .xor a b c => some (encIntR 0x04 a b c)
  | .andn a b c => some (encIntR 0x05 a b c)
  | .orn a b c => some (encIntR 0x06 a b c)
  | .xnor a b c => some (encIntR 0x07 a b c)
  | .shl a b c => some (encIntR 0x08 a b c)
  | .shr a b c => some (encIntR 0x09 a b c)
  | .sra a b c => some (encIntR 0x0a a b c)
  | .rol a b c => some (encIntR 0x0b a b c)
  | .ror a b c => some (encIntR 0x0c a b c)
  | .slt a b c => some (encIntR 0x10 a b c)
  | .sltu a b c => some (encIntR 0x11 a b c)
  | .min a b c => some (encIntR 0x12 a b c)
  | .max a b c => some (encIntR 0x13 a b c)
  | .minu a b c => some (encIntR 0x14 a b c)
  | .maxu a b c => some (encIntR 0x15 a b c)
  | .mul a b c => some (encIntR 0x18 a b c)
  | .mulh a b c => some (encIntR 0x19 a b c)
  | .mulhu a b c => some (encIntR 0x1a a b c)
  | .div a b c => some (encIntR 0x1c a b c)
  | .divu a b c => some (encIntR 0x1d a b c)
  | .rem a b c => some (encIntR 0x1e a b c)
  | .remu a b c => some (encIntR 0x1f a b c)
  | .bfx a b c => some (encIntR 0x28 a b c)
  | .bfi a b c => some (encIntR 0x29 a b c)
  | .select a b c => some (encIntR 0x2a a b c)
  | .addsc1 a b c => some (encIntR 0x2c a b c)
  | .addsc2 a b c => some (encIntR 0x2d a b c)
  | .addsc3 a b c => some (encIntR 0x2e a b c)
  | .clz a b => some (encIntR 0x20 a b 0)
  | .ctz a b => some (encIntR 0x21 a b 0)
  | .popc a b => some (encIntR 0x22 a b 0)
  | .bswap a b => some (encIntR 0x23 a b 0)
  | .sext a b n => some (enc32 1 0x24 a n.code b 0)
  | .zext a b n => some (enc32 1 0x25 a n.code b 0)
  | .addi a b imm => some (encImm 2 a b imm)
  | .addiL a b imm => some (encImmL 2 a b imm)
  | .andi a b imm => some (encImm 3 a b imm)
  | .andiL a b imm => some (encImmL 3 a b imm)
  | .ori a b imm => some (encImm 4 a b imm)
  | .oriL a b imm => some (encImmL 4 a b imm)
  | .xori a b imm => some (encImm 5 a b imm)
  | .xoriL a b imm => some (encImmL 5 a b imm)
  | .slti a b imm => some (encImm 6 a b imm)
  | .sltiL a b imm => some (encImmL 6 a b imm)
  | .sltiu a b imm => some (encImm 7 a b imm)
  | .sltiuL a b imm => some (encImmL 7 a b imm)
  | .shli a b sh => some (enc32 8 sh a 0 b 0)
  | .shri a b sh => some (enc32 8 sh a 1 b 0)
  | .srai a b sh => some (enc32 8 sh a 2 b 0)
  | .rori a b sh => some (enc32 8 sh a 3 b 0)
  | .ldhi a imm => some (encU 9 a imm)
  | .addpc a imm => some (encU 0x0A a imm)
  | .laddpc a off => some (enc64 0x0A 0 a 0 0 0 off)
  | .load a b off sz => some (encM 0x0B a b off sz.code)
  | .loadL a b off sz => some (enc64 0x0B 0 a sz.code b 0 off)
  | .store a b off sz => some (encM 0x0C a b off sz.code)
  | .storeL a b off sz => some (enc64 0x0C 0 a sz.code b 0 off)
  | .loadx a b c s sz => some (enc32 0x0D (0#2 ++ s ++ 0#2) a sz.code b c)
  | .storex a b c s sz => some (enc32 0x0D (1#2 ++ s ++ 0#2) a sz.code b c)
  | .loadAcq a b q sz => some (enc32 0x0D (2#2 ++ q.code ++ 0#1) a sz.code b 0)
  | .storeRel a b q sz => some (enc32 0x0D (3#2 ++ q.code ++ 0#1) a sz.code b 0)
  | .amoadd o => some (encAmo 0 o)
  | .amoand o => some (encAmo 1 o)
  | .amoor o => some (encAmo 2 o)
  | .amoxor o => some (encAmo 3 o)
  | .amomin o => some (encAmo 4 o)
  | .amomax o => some (encAmo 5 o)
  | .amominu o => some (encAmo 6 o)
  | .amomaxu o => some (encAmo 7 o)
  | .amoswap o => some (encAmo 8 o)
  | .amofadd o => some (encAmo 9 o)
  | .cas o => some (encAmo 10 o)
  | .fenceAcq s => some (enc32 0x0F 1 0 s.code 0 0)
  | .fenceRel s => some (enc32 0x0F 2 0 s.code 0 0)
  | .fenceFull s => some (enc32 0x0F 3 0 s.code 0 0)
  | .fenceSv => some (enc32 0x0F 4 0 0 0 0)
  | .fenceVs => some (enc32 0x0F 8 0 0 0 0)
  | .fenceVv => some (enc32 0x0F 12 0 0 0 0)
  | .fenceI => some (enc32 0x0F 16 0 0 0 0)
  | .waitm a b c dbl s => some (enc32 0x0F (0b01011#5 ++ BitVec.ofBool dbl) a s.code b c)
  | .prefetch b w => some (enc32 0x0F (0b10000#5 ++ BitVec.ofBool w) 0 0 b 0)
  | .clean b s => some (enc32 0x0F 0x24 0 s.code b 0)
  | .flush b s => some (enc32 0x0F 0x28 0 s.code b 0)
  | .inval b s => some (enc32 0x0F 0x2c 0 s.code b 0)
  | .beq a b d => some (encImm 0x10 a b d)
  | .beqL a b d => some (encImmL 0x10 a b d)
  | .bne a b d => some (encImm 0x11 a b d)
  | .bneL a b d => some (encImmL 0x11 a b d)
  | .blt a b d => some (encImm 0x12 a b d)
  | .bltL a b d => some (encImmL 0x12 a b d)
  | .bge a b d => some (encImm 0x13 a b d)
  | .bgeL a b d => some (encImmL 0x13 a b d)
  | .bltu a b d => some (encImm 0x14 a b d)
  | .bltuL a b d => some (encImmL 0x14 a b d)
  | .bgeu a b d => some (encImm 0x15 a b d)
  | .bgeuL a b d => some (encImmL 0x15 a b d)
  | .call a d => some (encU 0x16 a d)
  | .lcall a d => some (enc64 0x16 0 a 0 0 0 d)
  | .jumpr a b imm => some (encImm 0x17 a b imm)
  | .spawn a b c p => some (enc32 0x18 0 a (0#1 ++ p) b c)
  | .join => some (enc32 0x18 1 0 0 0 0)
  | .taskend => some (enc32 0x18 2 0 0 0 0)
  | .msgopen b c core => some (enc32 0x18 4 0 (0#2 ++ BitVec.ofBool core) b c)
  | .msgpoll a => some (enc32 0x18 5 a 0 0 0)
  | .msgdone => some (enc32 0x18 6 0 0 0 0)
  | .mootnew a b c h => some (encMoot 0 a b c h)
  | .mootjoin a b h => some (encMoot 1 a b 0 h)
  | .mootleave h => some (encMoot 2 0 0 0 h)
  | .mootfree a h => some (encMoot 3 a 0 0 h)
  | .mootarrive a h => some (encMoot 4 a 0 0 h)
  | .mootwait a b h => some (encMoot 5 a b 0 h)
  | .mootsync a h => some (encMoot 6 a 0 0 h)
  | .mootvoteAll a b h => some (encMoot 8 a b 0 h)
  | .mootvoteAny a b h => some (encMoot 9 a b 0 h)
  | .mootvoteCount a b h => some (encMoot 10 a b 0 h)
  | .mootbytes b h => some (encMoot 0x0C 0 b 0 h)
  | .mootquery a b h => some (encMoot 0x0D a b 0 h)
  | .gbar => some (encMoot 0x0E 0 0 0 0)
  | .mootredAdd a b t h => some (encMoot (0b0100#4 ++ t.code) a b 0 h)
  | .mootredMin a b t h => some (encMoot (0b0101#4 ++ t.code) a b 0 h)
  | .mootredMax a b t h => some (encMoot (0b0110#4 ++ t.code) a b 0 h)
  | .mootredAnd a b h => some (encMoot 0x1c a b 0 h)
  | .mootredOr a b h => some (encMoot 0x1d a b 0 h)
  | .mootredXor a b h => some (encMoot 0x1e a b 0 h)
  | .xcopy a b => some (enc32 0x1A 0 a 0 b 0)
  | .qgather a b c m => some (enc32 0x1A 1 a m b c)
  | .qwalk a b => some (enc32 0x1A 2 a 0 b 0)
  | .kick b c => some (enc32 0x1A 3 0 0 b c)
  | .fadd a b c f rm => some (encFp 0 f a rm.code b c)
  | .fsub a b c f rm => some (encFp 1 f a rm.code b c)
  | .fmul a b c f rm => some (encFp 2 f a rm.code b c)
  | .fdiv a b c f rm => some (encFp 3 f a rm.code b c)
  | .fsqrt a b f rm => some (encFp 4 f a rm.code b 0)
  | .fmin a b c f => some (encFp 5 f a 0 b c)
  | .fmax a b c f => some (encFp 6 f a 0 b c)
  | .fsgn a b c f o => some (encFp 7 f a o.code b c)
  | .fcmp a b c f o => some (encFp 8 f a o.code b c)
  | .fclass a b f => some (encFp 9 f a 0 b 0)
  | .frnd a b f rm => some (encFp 10 f a rm.code b 0)
  | .fmvx a b f => some (encFp 11 f a 0 b 0)
  | .fma a b c f rm => some (encFmaR 0 f rm a b c)
  | .fms a b c f rm => some (encFmaR 1 f rm a b c)
  | .fnma a b c f rm => some (encFmaR 2 f rm a b c)
  | .fnms a b c f rm => some (encFmaR 3 f rm a b c)
  | .fcvt a b src dst sat rm => some (enc32 0x1D (BitVec.ofBool sat ++ 0#1 ++ src.code) a rm.code b (0#1 ++ dst.code))
  | .syscall k => some (enc32 0x1E 0 0 0 (k.extractLsb' 0 5) (k.extractLsb' 5 5))
  | .brk k => some (enc32 0x1E 1 0 0 (k.extractLsb' 0 5) (k.extractLsb' 5 5))
  | .eret => some (enc32 0x1E 2 0 0 0 0)
  | .srd a num => some (encSysReg 4 a num)
  | .swr a num => some (encSysReg 5 a num)
  | .sswap a num => some (encSysReg 6 a num)
  | .tlbinv b c mode => some (enc32 0x1E 8 0 (BitVec.ofNat 3 mode.val) b c)
  | .migrate b => some (enc32 0x1E 9 0 0 b 0)
  | .yield => some (enc32 0x1E 0x0A 0 0 0 0)
  | .pause b => some (enc32 0x1E 0x0B 0 0 b 0)
  | .halt => some (enc32 0x1E 0x0C 0 0 0 0)
  | .wfm => some (enc32 0x1E 0x0D 0 0 0 0)
  | .vadd o => some (encVBase 0x20 o)
  | .vaddL o => some (encVLong 0x20 o)
  | .vsub o => some (encVBase 0x21 o)
  | .vsubL o => some (encVLong 0x21 o)
  | .vrsub o => some (encVBase 0x22 o)
  | .vrsubL o => some (encVLong 0x22 o)
  | .vmul o => some (encVBase 0x23 o)
  | .vmulL o => some (encVLong 0x23 o)
  | .vmulh o => some (encVBase 0x24 o)
  | .vmulhL o => some (encVLong 0x24 o)
  | .vdiv o => some (encVBase 0x25 o)
  | .vdivL o => some (encVLong 0x25 o)
  | .vrem o => some (encVBase 0x26 o)
  | .vremL o => some (encVLong 0x26 o)
  | .vmin o => some (encVBase 0x27 o)
  | .vminL o => some (encVLong 0x27 o)
  | .vmax o => some (encVBase 0x28 o)
  | .vmaxL o => some (encVLong 0x28 o)
  | .vand o => some (encVBase 0x29 o)
  | .vandL o => some (encVLong 0x29 o)
  | .vor o => some (encVBase 0x2a o)
  | .vorL o => some (encVLong 0x2a o)
  | .vxor o => some (encVBase 0x2b o)
  | .vxorL o => some (encVLong 0x2b o)
  | .vshl o => some (encVBase 0x2c o)
  | .vshlL o => some (encVLong 0x2c o)
  | .vshr o => some (encVBase 0x2d o)
  | .vshrL o => some (encVLong 0x2d o)
  | .vfma o => some (encVFmaBase o.form.code o)
  | .vfms o => some (encVFmaBase 2 o)
  | .vfnma o => some (encVFmaBase 3 o)
  | .vfmaL o => some (encVFmaLong o.form.code o)
  | .vfmsL o => some (encVFmaLong 2 o)
  | .vfnmaL o => some (encVFmaLong 3 o)
  | .vcmpEq o => some (encVCmpBase 0x30 o)
  | .vcmpEqL o => some (encVCmpLong 0x30 o)
  | .vcmpNe o => some (encVCmpBase 0x31 o)
  | .vcmpNeL o => some (encVCmpLong 0x31 o)
  | .vcmpLt o => some (encVCmpBase 0x32 o)
  | .vcmpLtL o => some (encVCmpLong 0x32 o)
  | .vcmpLe o => some (encVCmpBase 0x33 o)
  | .vcmpLeL o => some (encVCmpLong 0x33 o)
  | .vmv o => some (encVUn 0 o)
  | .vneg o => some (encVUn 1 o)
  | .vabs o => some (encVUn 2 o)
  | .vnot o => some (encVUn 3 o)
  | .vsqrt o => some (encVUn 4 o)
  | .vrcp o => some (encVUn 5 o)
  | .vrsq o => some (encVUn 6 o)
  | .vexp2 o => some (encVUn 7 o)
  | .vlog2 o => some (encVUn 8 o)
  | .vtanh o => some (encVUn 9 o)
  | .vclz o => some (encVUn 10 o)
  | .vpopc o => some (encVUn 11 o)
  | .vsel o => some (encOpt 0x34 o.j 0 o.a o.m o.b o.c o.mods)
  | .vred o => some (encOpt 0x34 o.j 1 o.a o.m o.op.code o.c (onlyC o.dc))
  | .vredO o => some (encOpt 0x34 o.j 2 o.a o.m o.op.code o.c (onlyC o.dc))
  | .vscan o => some (encOpt 0x34 o.j 3 o.a o.m o.op.code o.c (onlyC o.dc))
  | .vcompress o => some (encOpt 0x34 o.j 4 o.a o.m 0 o.c (onlyC o.dc))
  | .vexpand o => some (encOpt 0x34 o.j 5 o.a o.m 0 o.c (onlyC o.dc))
  | .viota o => some (encOpt 0x34 o.j 6 o.a o.m 0 0 (noMods o.long))
  | .vreshape o => some (encOpt 0x34 o.j 7 o.a o.m o.b o.c (onlyC o.dc))
  | .vextract o => some (encOpt 0x34 false 8 o.a 0 o.b o.c (onlyC o.dc))
  | .vinsert o => some (encOpt 0x34 o.j 9 o.a o.m o.b o.c (noMods o.long))
  | .mand o => some (encOpt 0x35 o.j 0 (m5 o.a) 0 (m5 o.b) (m5 o.c) (noMods o.long))
  | .mor o => some (encOpt 0x35 o.j 1 (m5 o.a) 0 (m5 o.b) (m5 o.c) (noMods o.long))
  | .mxor o => some (encOpt 0x35 o.j 2 (m5 o.a) 0 (m5 o.b) (m5 o.c) (noMods o.long))
  | .mandn o => some (encOpt 0x35 o.j 3 (m5 o.a) 0 (m5 o.b) (m5 o.c) (noMods o.long))
  | .mmov o => some (encOpt 0x35 o.j 4 (m5 o.a) 0 0 (m5 o.c) (noMods o.long))
  | .mpopc o => some (encOpt 0x35 false 5 o.a 0 0 (m5 o.c) (noMods o.long))
  | .mfirst o => some (encOpt 0x35 false 6 o.a 0 0 (m5 o.c) (noMods o.long))
  | .vsetn o => some (enc32 0x36 0 o.a (0#2 ++ BitVec.ofBool o.mz) o.b (BitVec.ofBool o.tz ++ o.grp.code ++ o.sew.code))
  | .vsetnG o => some (enc32 0x36 1 o.a (0#2 ++ BitVec.ofBool o.mz) o.b (BitVec.ofBool o.tz ++ o.grp.code ++ o.sew.code))
  | .vsetd b c d => some (enc32 0x36 2 0 (BitVec.ofNat 3 d.val) b c)
  | .vtag a t => some (enc32 0x36 3 a t.code 0 0)
  | .vfsave b => some (enc32 0x36 4 0 0 b 0)
  | .vfrestore b => some (enc32 0x36 5 0 0 b 0)
  | .vcvt o => some (encOpt 0x37 o.j (0#2 ++ o.rm.code) o.a o.m (o.sew.code ++ o.tag.code) o.c (onlyC o.dc))
  | .vcvtSat o => some (encOpt 0x37 o.j (1#2 ++ o.rm.code) o.a o.m (o.sew.code ++ o.tag.code) o.c (onlyC o.dc))
  | .vcvtI4 o => some (encOpt 0x37 o.j 0x10 o.a o.m 0 o.c (onlyC o.dc))
  | .vcvtE3m2 o => some (encOpt 0x37 o.j 0x11 o.a o.m 0 o.c (onlyC o.dc))
  | .vcvtE2m3 o => some (encOpt 0x37 o.j 0x12 o.a o.m 0 o.c (onlyC o.dc))
  | .vld o => some (encVm 0x38 o.j o.addr.dBit o.u o.tag.code o.a o.m o.b o.addr.cField none)
  | .vldL o e => some (encVm 0x38 o.j o.addr.dBit o.u o.tag.code o.a o.m o.b o.addr.cField (some e))
  | .vst o => some (encVm 0x39 o.j o.addr.dBit o.u 0 o.a o.m o.b o.addr.cField none)
  | .vstL o e => some (encVm 0x39 o.j o.addr.dBit o.u 0 o.a o.m o.b o.addr.cField (some e))
  | .vldx o => some (encVm 0x3A o.j false o.u o.tag.code o.a o.m o.b o.c none)
  | .vldxL o e => some (encVm 0x3A o.j false o.u o.tag.code o.a o.m o.b o.c (some e))
  | .vstx o => some (encVm 0x3B o.j false o.u 0 o.a o.m o.b o.c none)
  | .vstxL o e => some (encVm 0x3B o.j false o.u 0 o.a o.m o.b o.c (some e))
  | .vldW o => some (encStream o.j 0 o.tag.code o.a o.m (m5 o.w) 0 o.off)
  | .vstW o => some (encStream o.j 1 0 o.a o.m (m5 o.w) 0 o.off)
  | .wset w b c off => some (encStream false 2 0 (m5 w) 0 b c off)
  | .wadv w b off => some (encStream false 3 0 (m5 w) 0 b 0 off)
  | .mattach a b => some (enc32 0x3D 0 a 0 b 0)
  | .mdetach => some (enc32 0x3D 1 0 0 0 0)
  | .mshape b => some (enc32 0x3D 2 0 0 b 0)
  | .mtld t b c => some (enc32 0x3D 3 (t5 t) 0 b c)
  | .mtldk k b c => some (enc32 0x3D 4 (t5 k) 0 b c)
  | .mtst t b c => some (enc32 0x3D 5 (t5 t) 0 b c)
  | .mzero => some (enc32 0x3D 6 0 0 0 0)
  | .mrel => some (enc32 0x3D 7 0 0 0 0)
  | .mwait => some (enc32 0x3D 8 0 0 0 0)
  | .mring t n => some (enc32 0x3D 9 (t5 t) (0#2 ++ BitVec.ofBool n) 0 0)
  | .mma o => some (encMma 0 o)
  | .mmas o w => some (encMma (1#2 ++ 0#1 ++ w) o)
  | .mext a c relu f m => some (enc32 0x3E (2#2 ++ BitVec.ofBool relu ++ f.code) a m 0 c)
  | .mextst v b c relu f m => some (enc32 0x3E (3#2 ++ BitVec.ofBool relu ++ f.code) v m b c)
  | .coldReset => none
  | .asyncTrap => none
  | .migrationTrap _ _ => none
  | .carterQueuePlacement => none
  | .window => none
  | .mixMigration => none
  | .preemption _ => none
  | .placement _ => none
  | .lendRequest _ => none
  | .overflowReturn _ => none
  | .levelLift _ _ => none
  | .groupStart _ => none
  | .reservationRelease _ => none
  | .tkill _ => none
  | .hbaseWrite _ => none
  | .hlimitWrite _ => none
  | .hstrayWrite _ => none
  | .reevevecWrite _ => none
  | .registerWrite _ _ => none
  | .messageDeparture _ => none
  | .messageDispatch _ => none
  | .post _ _ => none
  | .hostBar0Write _ _ => none
  | .hostWrite _ _ _ => none
  | .hostRead _ _ _ => none
  | .convoyStart => none
  | .convoyClose => none
  | .convoyDrain => none
  | .latchForward _ _ => none
  | .gets _ _ => none
  | .getx _ _ => none
  | .upg _ _ => none
  | .puts _ _ => none
  | .putx _ _ => none
  | .inv _ _ => none
  | .invAck _ _ => none
  | .fwd _ => none
  | .dataReply _ _ => none
  | .complete _ _ => none
  | .putAck _ _ => none
  | .farAtomic _ _ => none
  | .sectoredStore _ _ _ => none
  | .homeRead _ _ => none
  | .homeWrite _ _ => none
  | .wakeNotice _ => none
  | .watchPoll _ => none
  | .pauseExpiry _ => none
  | .linkActive _ => none
  | .linkDoze _ => none
  | .dieLost _ => none
  | .pendDecrement _ _ _ => none
  | .copyRecord _ => none
  | .migrateRecord _ => none
  | .lockhouseAdmit => none
  | .sealRecord _ => none
  | .openRecord _ => none
  | .chase _ => none
  | .uwalk _ => none
  | .allreduce _ _ => none
  | .allgather _ _ => none
  | .reducescatter _ _ => none
  | .broadcast _ _ => none
  | .collectiveTimeout _ => none
  | .peerTimeout _ => none
  | .keyWrite _ _ _ => none
  | .extentRemove _ => none
  | .extentRemoved _ => none
  | .bisnp _ => none
  | .tdispMessage _ _ => none
  | .spdmMeasurement => none
  | .spdmDebugRequest _ => none
  | .correctedError _ _ _ => none
  | .rasWindow _ _ => none
  | .parityError _ => none
  | .raslogRead => none
  | .rateWrite _ _ => none
  | .channelSwitchEnd _ _ => none
  | .migctlFree _ => none
  | .migctlFreeIfComplete _ => none
  | .quiesceRequest _ => none
  | .quiesceCancel _ => none
  | .drained _ => none
  | .save _ => none
  | .saveEnd _ => none
  | .clkenWrite _ _ => none
  | .railenWrite _ _ => none
  | .railSettled _ => none
  | .restore _ => none
  | .restoreEnd _ => none
  | .wakeRequest _ => none
  | .illegalInstruction _ => none
  | .fetchFault => none
  | .scaleUpRequest _ _ => none
  | .fwdData _ => none
  | .bisnpResponse _ => none
  | .ideKm _ _ => none
  | .hostConfigWrite _ _ => none
  | .linkRetrain _ _ => none
  | .uncorrectableError _ _ => none

/-- The encoding that SY.TRAPVAL reports (R84, R127); 0 for an event. -/
def encBits (i : Instr) : Word := match encode i with | some e => e.bits | none => 0

/-- The length in bytes; 0 for an event, which stands at no address. -/
def encLen (i : Instr) : Nat := match encode i with | some e => e.len | none => 0

/-- The bytes of an instruction at ascending addresses; none for an event. -/
def encodeBytes (i : Instr) : List Byte := match encode i with | some e => leBytes e.len e.bits.toNat | none => []

end Sys2Proof
end

