-- ==== Sys2Proof/Config.lean ====
section
/-! DEFINITION. What the package fixes (member, dies, core counts: spec 01 R17-R27) and the free
values that the spec leaves open. A free value is a constant without a body: nothing can be proved of
what it is. -/

namespace Sys2Proof

/-- The members of the family (R1). -/
inductive Member where
  | y4822 | y4840 | y4804 | y4813
  deriving DecidableEq, Repr

/-- The three core classes (R22). -/
inductive CoreClass where
  | C | V | T
  deriving DecidableEq, Repr

namespace Config

/-- SY.CLASSES.MEMBER (R125). -/
def memberCode : Member → BitVec 16
  | .y4822 => 0x4822
  | .y4840 => 0x4840
  | .y4804 => 0x4804
  | .y4813 => 0x4813

/-- Whether compute die `d` of the member is a V-die (R18). -/
def isVDie (m : Member) (d : Nat) : Bool :=
  match m, d with
  | .y4822, 1 => true
  | .y4822, 3 => true
  | .y4840, 1 => true
  | .y4840, 2 => true
  | .y4840, 3 => true
  | .y4840, 4 => true
  | .y4813, 1 => true
  | _, _ => false

/-- Whether `d` is a compute die (R17). -/
def isCompute (d : Nat) : Bool := decide (1 ≤ d ∧ d ≤ 4)

/-- The class of the cores on die `d`, for the dies that carry cores (R17, R18). -/
def dieClass (m : Member) (d : Nat) : Option CoreClass :=
  if d = 0 then some .C
  else if isCompute d then some (if isVDie m d then .V else .T)
  else none

/-- Parishes on a die (R24). -/
def parishesOf (m : Member) (d : Nat) : Nat :=
  match dieClass m d with
  | some .C => 2
  | some .V => 20
  | some .T => 32
  | none => 0

/-- Cores in a parish (R24). -/
def coresOf : CoreClass → Nat
  | .C => 16
  | .V => 32
  | .T => 32

/-- Hart contexts of a core (R22). -/
def hartsOf : CoreClass → Nat
  | .C => 2
  | .V => 8
  | .T => 4

/-- The most compute harts a core holds at once (R23). -/
def computeLimit : CoreClass → Nat
  | .C => 0
  | .V => 4
  | .T => 2

/-- Which classes a core class carries (R30). -/
def carries : CoreClass → Cls → Bool
  | _, .B => true
  | _, .S => true
  | .C, .F => true
  | .V, .F => true
  | .V, .V => true
  | .V, .E => true
  | .T, .E => true
  | .T, .M => true
  | _, _ => false

/-- Whether some core of the member is of class `k` (R18). -/
def hasCore (m : Member) : CoreClass → Bool
  | .C => true
  | .V => isVDie m 1 || isVDie m 2 || isVDie m 3 || isVDie m 4
  | .T => !(isVDie m 1 && isVDie m 2 && isVDie m 3 && isVDie m 4)

/-- Whether some core of the member carries the class (R4). -/
def memberHas (m : Member) (c : Cls) : Bool :=
  (hasCore m .C && carries .C c) || (hasCore m .V && carries .V c) || (hasCore m .T && carries .T c)

/-- The dies that carry cores, in the order of package parish numbers: V-dies before T-dies (R26). -/
def dieOrder (m : Member) : List Nat :=
  let v := [1, 2, 3, 4].filter fun d => isVDie m d
  let t := [1, 2, 3, 4].filter fun d => !isVDie m d
  0 :: (v ++ t)

/-- The first package parish number of a die (R26). -/
def firstParish (m : Member) (d : Nat) : Nat :=
  let rec go : List Nat → Nat → Nat
    | [], acc => acc
    | x :: xs, acc => if x = d then acc else go xs (acc + parishesOf m x)
  go (dieOrder m) 0

/-- Package parish number of a parish (R26). -/
def packageParish (m : Member) (d p : Nat) : Nat := firstParish m d + p

/-- How many parishes the package has (R26). -/
def parishCount (m : Member) : Nat := (dieOrder m).foldl (fun n d => n + parishesOf m d) 0

/-- The die and the parish within it of a package parish number (R26). -/
def parishPlace (m : Member) (pp : Nat) : Option (Nat × Nat) :=
  let rec go : List Nat → Nat → Option (Nat × Nat)
    | [], _ => none
    | d :: ds, k => if k < parishesOf m d then some (d, k) else go ds (k - parishesOf m d)
  go (dieOrder m) pp

/-- Whether the core exists (R22, R24). -/
def coreExists (m : Member) (c : CoreId) : Bool :=
  match dieClass m c.die with
  | some k => decide (c.parish < parishesOf m c.die) && decide (c.core < coresOf k)
  | none => false

/-- The class of a core; a core that does not exist answers class C. -/
def classOf (m : Member) (c : CoreId) : CoreClass := (dieClass m c.die).getD .C

/-- Codes of CCLASS (R124). -/
def cclassCode : CoreClass → BitVec 2
  | .C => 0
  | .V => 1
  | .T => 2

/-! ### Free values -/

/-- Added to a core's SY.CYCLE between two readings, beyond one cycle (R44; log 5). -/
opaque freeCycles : Nat → Word
/-- The SERIAL of a new task identity, before the search for one that no live task holds (R381; log 12). -/
opaque freeSerial : Nat → BitVec 24
/-- What the device writes in a save area: VFSAVE's held part and a parish's SAVE (R272, R470; log 16). -/
opaque freeByte : Nat → Byte
/-- Which of two stores of an unordered vector store stands on a common byte (R288; log 11). -/
opaque freeOrder : Nat → Nat
/-- The XMSS signature of a measurement with a given leaf index (R460; log 15). -/
opaque freeSignature : Nat → Word
/-- What decides the rounding of a stochastic conversion from an integer tag, which draws nothing (R282; log 48). -/
opaque freeDraw : Nat → Nat → Nat
/-- The directory entry read from a home that is lost (R205, R465; log 11). -/
opaque freeDir : Nat → Word
/-- A byte of the new page after a migration entry is freed early (R468; log 11). -/
opaque freePage : Nat → Byte

/-- UNIT and LOC of a die-lost entry of MEM.RASLOG (R464, R465; log 11). -/
opaque freeRas : Nat → BitVec 59
/-- Whether a spare row is left in the bank of an HBM row that is retired (R463; log 26). -/
opaque spareRow : Nat → Bool
/-- The sectors of an HBM row, by an address in it (R463; log 26). -/
opaque rowSectors : Nat → List Nat
/-- The pseudo-channel of a line of HBM, modulo 64: the stack's controller chooses it (R187, R467; log 69). -/
opaque channelOf : Nat → Nat

/-- Where a record enters an overflow area, and the address of its saved Carter frame (R383, R395; log 34). -/
opaque freeSlot : Nat → Nat
opaque freeFrame : Nat → Word
/-- Where an urgent pre-emption stops a convoy, among the multiples of 16 that it may stop at (R137, R267; log 11). -/
opaque freeStop : Nat → Nat
/-- Whether the firmware image fails the boot ROM's check (R459; log 6). -/
opaque imageFails : Nat → Bool
/-- Word 1 of a report of FAULT that no access caused (R422, R456, R457; log 11). -/
opaque freeAddr : Nat → Word
/-- The elements of the reduced data that a rank receives, as the first and how many, when they do not divide evenly
among the ranks (R456; log 29). -/
opaque scatterSlice : Nat → Nat → Nat → Nat × Nat

end Config
end Sys2Proof
end

