-- ==== Sys2Proof/Machine/State.lean ====
section
/-! DEFINITION. The state of the package, as plain data, and its value at reset. Types only: every
operation stands in the files after this one. Rule numbers name the rule that gives a field. -/

namespace Sys2Proof.Machine

/-- Why a step stops the model. -/
inductive Fault where
  /-- Raised by `step` alone, when the G-die is lost: every die of the package stops, and only a cold
  reset starts it again (R465). Safe: the hardware does nothing then. -/
  | packageLost
  deriving DecidableEq, Repr

/-- Why a step has no meaning. -/
inductive Refusal where
  /-- The instruction has no meaning in this model yet: answered by `exec`'s own arm alone. Safe. -/
  | notModelled (mnemonic : String)
  /-- An event named by the schedule that cannot happen in this state, such as an acknowledgement that
  nothing sent: answered by the meanings of the event rows. Safe: the hardware has no such step. -/
  | notEnabled (event : String)
  deriving DecidableEq, Repr

/-- The answer of a meaning. -/
abbrev Out (σ : Type) := Host.Outcome σ Fault Refusal

/-! ### Privilege and status (R117, R120) -/

/-- Privilege levels (R117). -/
inductive Priv where
  | task | super | firm
  deriving DecidableEq, Repr

/-- SY.STATUS (R120). -/
structure Status where
  fbusy : Bool
  sbusy : Bool
  fpaie : Bool
  spaie : Bool
  faie : Bool
  saie : Bool
  fpp : Priv
  spp : Priv
  priv : Priv
  deriving DecidableEq, Repr

/-- A trap bank: TRAPPC, TRAPCAUSE, TRAPVAL of one level (R119). -/
structure Bank where
  pc : Word
  cause : Word
  val : Word
  deriving DecidableEq, Repr

/-- An address-space context: ASID, PTROOT, CCID (R202), and SY.FRM where a rule records it (R386). -/
structure Ctx where
  asid : BitVec 16
  ptroot : Word
  ccid : BitVec 8
  frm : BitVec 3
  deriving DecidableEq, Repr

/-! ### Vector state (R241) -/

/-- A vector register with its shape record (R246). -/
structure VR where
  bits : VWord
  tag : Tag
  sew : Sew
  grp : Grp
  deriving DecidableEq, Repr

/-- VFORM (R242). -/
structure VCfg where
  mz : Bool
  tz : Bool
  grp : Grp
  sew : Sew
  deriving DecidableEq, Repr

/-- VDIM0 to VDIM2 (R254). -/
structure Dim where
  len : BitVec 32
  stride : Word
  deriving DecidableEq, Repr

/-- A TLB entry (R210). -/
structure TlbEntry where
  page : Nat
  span : Nat
  asid : BitVec 16
  global : Bool
  pte : Word
  /-- where the leaf stands, for the D update (R209) -/
  pteAddr : Nat
  deriving DecidableEq, Repr

/-- A stream register (R296), with the translations that the stream engine keeps for its next four pages (R210, R299). -/
structure Stream where
  base : Word
  stride : BitVec 32
  cursor : BitVec 32
  pages : List TlbEntry
  /-- the stream engine has yet to fill the entries, as a walk for them waits (R299) -/
  due : Bool := false
  deriving DecidableEq, Repr

/-- A drove modifier with its captured argument (R259, R264). -/
inductive Route where
  | none
  | rot (k : Word)
  | bc (k : Word)
  | fly (j : Nat)
  | rev (n : Nat)
  | ix (v : VReg) (modulo : Bool)
  deriving DecidableEq, Repr

/-- A vector source as captured. -/
structure VSrc where
  reg : VReg
  route : Route
  deriving DecidableEq, Repr

/-- The B operand of a V-format instruction as captured (R249). -/
inductive VOpnd where
  | vec (s : VSrc)
  | scalar (w : Word)
  | imm (i : BitVec 5)
  deriving DecidableEq, Repr

/-- The operations of majors 0x20 to 0x2D (R274). -/
inductive VBin where
  | add | sub | rsub | mul | mulh | div | rem | min | max | and | or | xor | shl | shr
  deriving DecidableEq, Repr

/-- The operations of major 0x2E (R276). -/
inductive VFmaKind where
  | fma | fms | fnma
  deriving DecidableEq, Repr

/-- The relations of VCMP (R277). -/
inductive VRel where
  | eq | ne | lt | le
  deriving DecidableEq, Repr

/-- The operations of VEC.UN (R278, R279). -/
inductive VUnOp where
  | mv | neg | abs | not | sqrt | rcp | rsq | exp2 | log2 | tanh | clz | popc
  deriving DecidableEq, Repr

/-- MAND to MANDN (R311). -/
inductive MaskOp where
  | and | or | xor | andn
  deriving DecidableEq, Repr

/-- The three expansions of R281. -/
inductive VExpand where
  | i4 | e3m2 | e2m3
  deriving DecidableEq, Repr

/-- Element addresses as captured (R290, R298). -/
inductive VAt where
  | unit (base : Word)
  | strided (base stride : Word)
  | sweep (base : Word) (d0 d1 d2 : Dim)
  | indexed (base : Word) (v : VReg)
  | stream (w : BitVec 3) (base : Word) (stride cursor : BitVec 32)
  deriving DecidableEq, Repr

/-- Where a queued instruction writes a general result: a register, or a position in a message. -/
inductive GDest where
  | reg (g : GReg)
  | msg (pos : Nat)
  deriving DecidableEq, Repr

/-- What a queued vector instruction does (R273 to R311, R437). -/
inductive VWork where
  | bin (op : VBin) (d : VReg) (c : VSrc) (b : VOpnd)
  | fma (k : VFmaKind) (d : VReg) (c : VSrc) (b : VOpnd)
  | cmp (r : VRel) (comb : BitVec 2) (md : MReg) (c : VSrc) (b : VOpnd)
  | un (op : VUnOp) (d : VReg) (c : VSrc)
  | sel (d : VReg) (c b : VSrc)
  | red (op : RedOp) (ordered : Bool) (d : VReg) (c : VSrc)
  | scan (op : RedOp) (d : VReg) (c : VSrc)
  | compress (d : VReg) (c : VSrc)
  | expand (d : VReg) (c : VSrc)
  | iota (d : VReg)
  | reshape (d : VReg) (c : VSrc) (row : Word)
  | extract (d : GDest) (c : VSrc) (i : Word)
  | insert (d : VReg) (v i : Word)
  | mask (op : MaskOp) (a b c : MReg)
  | mmov (a c : MReg)
  | mpopc (d : GDest) (c : MReg)
  | mfirst (d : GDest) (c : MReg)
  | cvt (d : VReg) (c : VSrc) (tag : Tag) (sew : Sew) (rm : Rm) (sat : Bool)
  | grow (k : VExpand) (d : VReg) (c : VSrc)
  | load (d : VReg) (at' : VAt) (tag : Tag) (ff : Bool)
  | store (s : VReg) (at' : VAt) (unordered : Bool)
  | gather (d : VReg) (i : VReg) (base : Word)
  | config
  | vtag (d : VReg) (t : Tag)
  | vfsave (a : Word)
  | vfrestore (a : Word)
  deriving DecidableEq, Repr

/-- A member of a convoy with what it captured at dispatch (R264, R270, R282). -/
structure VMember where
  work : VWork
  enc : Word
  vn : Nat
  form : VCfg
  mask : MaskSel
  frm : BitVec 3
  needsV : Bool
  /-- counts in SY.MIXCNT as class V (R138) -/
  mixV : Bool
  level : Priv
  /-- registers of the destination group, as the shape records at dispatch give it (R262, R280) -/
  dgrp : Nat
  /-- the operation tag, once the checks of the convoy's start have passed (R263) -/
  tag : Option Tag
  /-- the draws that its elements below a stop have made (R282) -/
  drawn : Nat
  /-- the bytes that its elements below a stop have stored over, as they were (R287) -/
  wrote : List (Nat × Byte) := []
  deriving DecidableEq, Repr

/-- A convoy of the hart's queue (R261, R267). `restart` marks one that stopped at VFIRST, and `raised` holds the flags
that its elements below have raised; `done` holds the flags of a convoy whose members have all run, until it drains
(R269). `seed` is the generator state before the members' first draw, which the queue keeps once it has stopped (R282; log
49), and `passed` says by how many draws SY.SEED and the states kept behind it have moved past it then. `fenced` marks one
that a FENCE.VV precedes (R164), and `toTask` one that VFRESTORE restored above TASK, which an ERET to TASK resumes (R271).
`upTo` counts the elements below which every member has run, where the convoy waits for its core's misses (R312). -/
structure Convoy where
  members : List VMember
  closed : Bool
  held : Bool
  restart : Bool
  raised : BitVec 5
  done : Option (BitVec 5)
  seed : Option (BitVec 32) := none
  passed : Nat := 0
  fenced : Bool := false
  toTask : Bool := false
  upTo : Nat := 0
  deriving DecidableEq, Repr

/-- The vector state of a compute hart (R241), its queue (R264), the record of the convoy last dispatched (R262, R413),
and whether a FENCE.VV has passed since (R164). -/
structure Vec where
  v : Vector VR 32
  m : Vector VWord 8
  vn : Nat
  form : VCfg
  vfirst : Word
  dg : Vector Nat 32
  dim : Vector Dim 3
  w : Vector Stream 8
  ldv : BitVec 5
  queue : List Convoy
  last : List VMember
  vv : Bool := false
  deriving DecidableEq, Repr

/-! ### Matrix state (R315, R326) -/

/-- What a queued matrix instruction does (R336, R339 to R343). -/
inductive MWork where
  | attach (d : GDest) (rows : Word)
  | detach
  | shape (v : Word)
  | ld (t : BitVec 2) (base stride : Word)
  | ldk (k : BitVec 2) (base stride : Word)
  | st (t : BitVec 2) (base stride : Word)
  | zero
  | rel
  | ring (t : BitVec 2) (n : Bool) (visits : Nat)
  | mma (o : MmaOps)
  | mmas (o : MmaOps) (w : BitVec 3) (entry : Word)
  | ext (d : VReg) (sel : Word) (relu : Bool) (f : ExtFmt)
  | extst (bias : VReg) (base sel : Word) (relu : Bool) (f : ExtFmt)
  deriving DecidableEq, Repr

/-- The staging area of a stopped MEXTST (R343): the element it stopped at, and the converted values. -/
structure Staged where
  next : Nat
  vals : List (Option Word)
  deriving DecidableEq, Repr

/-- A queued matrix instruction with its captures (R326); `held` marks one that a fault stopped (R330), and `older` counts
the convoys at the head of the vector queue that stood there at its dispatch (R327, R328). -/
structure MMember where
  work : MWork
  enc : Word
  vn : Nat
  form : VCfg
  mask : MaskSel
  frm : BitVec 3
  level : Priv
  held : Bool
  staged : Option Staged
  older : Nat
  deriving DecidableEq, Repr

/-- The matrix state of a compute hart (R315) and its queue (R326). -/
structure Mat where
  t : Vector (BitVec 65536) 4
  k : Vector (BitVec 4096) 4
  shape : Word
  grantBase : Nat
  grantRows : Nat
  flags : BitVec 5
  readN0 : Bool
  readN1 : Bool
  queue : List MMember
  deriving DecidableEq, Repr

/-! ### Moots (R350, R351, R379) -/

/-- The operation of a generation (R374). -/
inductive MootOp where
  | all | any | count
  | red (op : RedOp) (t : MootType)
  deriving DecidableEq, Repr

/-- The awaiting state of a handle (R362). -/
structure Await where
  gen : BitVec 32
  op : Option MootOp
  operand : Word
  deriving DecidableEq, Repr

/-- A bound handle (R351); `parked` names the generation for which a MOOTWAIT is parked (R373). -/
structure Handle where
  table : MootTable
  name : Word
  member : Nat
  na : BitVec 32
  await : Option Await
  parked : Option (BitVec 32) := none
  deriving DecidableEq, Repr

/-- A member as the moot's record holds it (R350); `in0`, `in1` are its operands in GEN and GEN + 1. -/
structure MootMember where
  id : Nat
  left : Bool
  arr0 : Bool
  arr1 : Bool
  in0 : Option Word
  in1 : Option Word
  deriving DecidableEq, Repr

/-- A moot's record (R350). `brokeGen` is the generation in which it broke, once it has; `mism` marks that
the open generation breaks it by a mismatch (R374); `die` is the die of its creator (R348). -/
structure Moot where
  name : Word
  scope : BitVec 2
  tol : Bool
  cosched : Bool
  die : Nat
  gen : BitVec 32
  counted : List MootMember
  joiners : List MootMember
  pend : Nat
  op0 : Option MootOp
  op1 : Option MootOp
  result : Word
  rflags : BitVec 5
  rlost : Bool
  broken : Bool
  breaking : Bool
  brokeGen : BitVec 32
  err : Bool
  lostcnt : Nat
  nextId : Nat
  deriving DecidableEq, Repr

/-- GB of a gang (R379), held by the parish where it was spawned; `parish` is where it was placed. -/
structure Gang where
  id : BitVec 32
  size : Nat
  gen : BitVec 32
  live : BitVec 16
  arr : BitVec 16
  parish : Nat
  deriving DecidableEq, Repr

/-- A hart's gang membership (R379, R140): `home` is the parish that holds GB. -/
structure GangRef where
  id : BitVec 32
  rank : Nat
  size : Nat
  home : Nat
  count : BitVec 32
  deriving DecidableEq, Repr

/-! ### Messages (R402 to R405) -/

/-- A message in a departure buffer or an arrival queue. -/
structure Msg where
  dest : CoreId
  hart : Option Nat
  words : List Word
  sender : Word
  /-- the launch slot it came from, freed when it arrives (R411) -/
  slot : Option (BitVec 4)
  /-- a fault message to a reeve core (R212) -/
  reeve : Bool
  deriving DecidableEq, Repr

/-- A message being written (R402, R403): the positions filled so far. -/
structure OpenMsg where
  dest : CoreId
  hart : Option Nat
  words : List (Option Word)
  /-- positions taken by dispatched instructions -/
  taken : Nat
  deriving DecidableEq, Repr

/-! ### The hart (R140) -/

/-- What a hart asleep on a reeve reply waits for (R212, R213). -/
structure Asleep where
  addr : Word
  acc : BitVec 2
  vec : Bool
  /-- whether the fault lies in the matrix queue -/
  mat : Bool
  deriving DecidableEq, Repr

/-- Whether a hart issues, and if not why (R129, R132, R135, R362). -/
inductive Wait where
  | running
  /-- stalled or parked: the instruction at the pc issues afresh -/
  | parked
  /-- parked in a WAITM on this physical address, with a watch entry or polling (R168) -/
  | watching (addr : Nat) (entry : Bool)
  /-- PAUSE: cycles left (R132) -/
  | paused (n : Nat)
  /-- HALT (R132) -/
  | halted
  | asleep (f : Asleep)
  | lockup
  /-- pre-empted while pinned by a grant: it keeps its context (R322) -/
  | preempted
  /-- the context holds no hart -/
  | vacant
  deriving DecidableEq, Repr

/-- A hart's state (R140). -/
structure Hart where
  pc : Word
  g : Vector Word 31
  ldsT : BitVec 5
  ldsS : BitVec 5
  ldsF : BitVec 5
  status : Status
  bankS : Bank
  bankF : Bank
  tvec : Word
  ftvec : Word
  tdeleg : Word
  scratch : Word
  fscratch : Word
  taskId : BitVec 32
  parent : BitVec 32
  /-- the descriptor and the argument of its record (R383) -/
  desc : Word
  arg : Word
  prio : Nat
  /-- when it was placed, for the choice of a victim (R399) -/
  placedAt : Nat
  mixctl : Word
  nv : BitVec 16
  nm : BitVec 16
  nf : BitVec 16
  /-- TASK instructions of the window so far; 65,536 when the window has ended and awaits its evaluation -/
  winCount : Nat
  /-- the preferred classes of the last windows, newest first (R143) -/
  windows : List CoreClass
  /-- the Steward is to move the hart to this class at its next pre-emption point (R143) -/
  moveTo : Option CoreClass
  /-- the Steward's request to pre-empt the hart waits for its next pre-emption point (R137) -/
  evict : Bool
  /-- that request is urgent: a convoy that runs stops between groups of elements (R137, R267) -/
  urgent : Bool
  instret : Word
  fflags : BitVec 5
  frm : BitVec 3
  fenable : BitVec 5
  seed : BitVec 32
  asid : BitVec 16
  ptroot : Word
  ccid : BitVec 8
  diraddr : Word
  pwMode : Bool
  pwSel : BitVec 8
  seqerr : Bool
  compute : Bool
  handles : Vector (Option Handle) 8
  gang : Option GangRef
  words : List Word
  /-- how many of `words`, from the back, stand in the core's arrival queue (R404, R409) -/
  wordsHere : Nat
  open' : Option OpenMsg
  wait : Wait
  pend1 : Bool
  pend2 : Bool
  /-- enabled flags of drained convoys, to be reported, with the level of each convoy's dispatch (R269, R329) -/
  fpTraps : List (Priv × BitVec 5)
  vec : Vec
  mat : Mat
  deriving DecidableEq, Repr

/-! ### Cores, crofts, parishes -/

/-- What belongs to a core (R384, R402, R210). -/
structure Core where
  cycle : Word
  arrival : List Msg
  depart : List Msg
  hbase : Word
  hlimit : Word
  hen : Bool
  howner : Word
  hstray : Word
  strays : BitVec 32
  drops : BitVec 16
  winCtx : Ctx
  strayCtx : Ctx
  tlb : List TlbEntry
  /-- lines of the data cache, newest first, and whether a C-core holds them dirty (R22, R188) -/
  l1d : List (Nat × Bool)
  /-- lines of the instruction cache, newest first, with the bytes that fetches find there (R22, R165) -/
  l1i : List (Nat × List Byte)
  /-- the context that the vector unit served last (R414) -/
  unitLast : Nat
  deriving DecidableEq, Repr

/-- A ring latch (R323). `readers` names the harts that have not released its tile, by their places, which a grant
fixes (R322), and `released` those that have, by their tasks (R325). -/
structure Latch where
  full : Bool
  tile : BitVec 65536
  scale : BitVec 4096
  visits : Nat
  readers : List Place
  released : List (BitVec 32)
  deriving DecidableEq, Repr

/-- The matrix resources of a croft (R314); a row that is not listed holds zero. -/
structure Croft where
  acc : List (Nat × BitVec 16384)
  owner : Vector (Option Place) 4
  n0 : Latch
  n1 : Latch
  /-- tiles ready to leave on n0 and n1, in order (R324): the latch's own, or an MRING of the hart named -/
  out0 : List (Option Place)
  out1 : List (Option Place)
  deriving DecidableEq, Repr

/-- A task record (R383). `resume` is the saved Carter frame, with the core it left. -/
structure TaskRec where
  desc : Word
  arg : Word
  id : BitVec 32
  parent : BitVec 32
  ctx : Ctx
  prio : Nat
  level : Nat
  kill : Bool
  cosched : Bool
  mixctl : Word
  resume : Option Hart
  left : Option CoreId
  /-- order in which it became ready -/
  since : Nat
  /-- where it stands in the overflow area (R395) -/
  slot : Option Nat
  deriving DecidableEq, Repr

/-- A live-task table entry (R382). -/
structure TaskEntry where
  id : BitVec 32
  join : BitVec 32
  ended : Bool
  kill : Bool
  deriving DecidableEq, Repr

/-- The part of a parish that a SAVE keeps (R470): queue, tables, reeve registers, arrival queues. -/
structure ParishData where
  queue : List TaskRec
  overflow : List TaskRec
  lift : Vector Nat 3
  tasks : List TaskEntry
  moots : List Moot
  gangs : List Gang
  reevemap : Word
  reevevec : Word
  reeveCtx : Ctx
  stwovf : Word
  arrivals : List (CoreId × List Msg)
  deriving DecidableEq, Repr

/-- Parish power states, coded as PW.STATE (R470). -/
inductive PwState where
  | run | drain | quiesce | saving | saved | stopped | ret | off | powered | restoring
  deriving DecidableEq, Repr

/-- The PW. registers of a parish (R469). -/
structure Power where
  qreq : Bool
  ack : Bool
  saveptr : Word
  done : Bool
  err : Bool
  clken : Bool
  enRet : Bool
  enMain : Bool
  okRet : Bool
  okMain : Bool
  pend : Bool
  wake : Bool
  fresh : Bool
  modeOff : Bool
  st : PwState
  deriving DecidableEq, Repr

/-- A context that a Steward holds for a member of a co-scheduled group (R400). -/
structure Reservation where
  id : BitVec 32
  place : Place
  compute : Bool
  deriving DecidableEq, Repr

/-- A parish (R24). -/
structure Parish where
  data : ParishData
  saved : Option ParishData
  tlb : List TlbEntry
  pw : Power
  /-- the group for which the Steward holds reserved contexts, and those contexts (R400) -/
  reserved : Option (GroupKey × List Reservation)
  /-- groups whose reservation the Steward has released, the latest last: others go before them (R400; log 84) -/
  released : List GroupKey := []
  deriving DecidableEq, Repr

/-! ### Coherence (R187 to R194) -/

/-- Directory states (R189). -/
inductive DirSt where
  | I | S | O
  deriving DecidableEq, Repr

/-- A directory entry (R189). -/
structure Dir where
  st : DirSt
  ovf : Bool
  busy : Bool
  ackcnt : Nat
  reqp : Nat
  ptrs : List Nat
  cvec : BitVec 32
  deriving DecidableEq, Repr

/-- A line in a parish L2 (R188, R192): `valid` has a bit for each sector (R194), and `ahead` the bytes of a sectored
store that the L2 took when the store was accepted, with their addresses, until the home has them (R194). -/
structure L2 where
  owned : Bool
  dirty : Bool
  pendingOwn : Bool
  valid : BitVec 4
  ahead : List (Nat × List Byte)
  deriving DecidableEq, Repr

/-- What a home is asked to do (R191, R194, R159). -/
inductive Req where
  | gets | getx | upg
  | far (addr : Nat) (op : HomeOp)
  | sectored (addr : Nat) (data : List Byte)
  deriving DecidableEq, Repr

/-- A request at a home: served, or waiting because the line is busy (R191), with the core whose miss it is, for those
that count against that core's limit (R195). -/
structure Tx where
  line : Nat
  pp : Nat
  req : Req
  core : Option CoreId := none
  deriving DecidableEq, Repr

/-- What a level holds of a line below a dirty copy: its bytes, and its poisoned sectors, from 0 (R149, R171). -/
structure Kept where
  bytes : List Byte
  poison : List Nat
  deriving DecidableEq, Repr

/-- Which path an access of a hart takes: a fetch's, a scalar one through the core's L1, or one of the vector unit or the
matrix unit, which perform at the parish L2 (R188, R284; log 82). -/
inductive Path where
  | fetch | scalar | unit | mat
  deriving DecidableEq, Repr

/-- An access of a hart to a line of a CXL extent that was issued and has not completed (R149, R452). -/
structure CxlReq where
  place : Place
  path : Path
  ext : Nat
  line : Nat
  deriving DecidableEq, Repr

/-- A protocol message in flight (R191 to R193). -/
inductive CohMsg where
  | inv (pp line : Nat)
  | invAck (pp line : Nat)
  | fwd (pp line : Nat)
  | fwdData (pp line : Nat)
  /-- `own` of an owned copy; `pend` while COMPLETE is still to come -/
  | data (pp line : Nat) (own pend : Bool)
  /-- `own` when the requester owns the line from here on -/
  | complete (pp line : Nat) (own : Bool)
  | putAck (pp line : Nat)
  deriving DecidableEq, Repr

/-- The coherence layer. `inner` holds, for a line that some L1 holds dirty, what the parish L2 holds; `below`, for a
line that some L2 holds dirty, what the home holds; `dram`, for a line that the well cache holds dirty, what the memory
array holds (R170). `well` holds the lines of the well caches, oldest first, with the valid bits of their sectors
(R194). -/
structure Coh where
  dir : List (Nat × Dir)
  l2 : List ((Nat × Nat) × L2)
  well : List (Nat × BitVec 4)
  inner : List (Nat × Kept)
  evict : List ((Nat × Nat) × Bool)
  inflight : List CohMsg
  active : List Tx
  waiting : List Tx
  /-- those in progress that wait only for the home of a new page (R214) -/
  settling : List Tx
  below : List (Nat × Kept)
  dram : List (Nat × Kept)
  /-- 64-byte granules that the host holds (R449), oldest first -/
  snoop : List Nat
  deriving DecidableEq, Repr

/-! ### Engines (R416 to R443, R456) -/

/-- A request accepted by an engine (R420): the record's physical address and the captured context; `bytes` is the
record as a copy-engine hart read it, for one that it passed to the Lockhouse (R417, R428). -/
structure EngReq where
  rec' : Nat
  level : Priv
  ctx : Ctx
  since : Nat
  bytes : List Byte
  /-- bytes of it that a moot's PEND counts no more (R423) -/
  landed : Nat := 0
  deriving DecidableEq, Repr

/-- A Lockhouse key slot (R433). -/
structure KeySlot where
  key : BitVec 256
  salt : BitVec 32
  owner : BitVec 8
  valid : Bool
  next : Word
  deriving DecidableEq, Repr

/-- A page-migration entry (R214). -/
structure Migration where
  old : Nat
  new : Nat
  bits : BitVec 512
  deriving DecidableEq, Repr

/-! ### The package -/

/-- A range table entry (R450). -/
structure RangeEntry where
  valid : Bool
  shared : Bool
  remove : Bool
  type : Byte
  func : Byte
  base : Word
  size : Word
  target : Word
  deriving DecidableEq, Repr

/-- A function table entry (R447), with the size of its BAR2 (R446). -/
structure Func where
  state : Tdisp
  ide : Bool
  ccid : BitVec 8
  bar2 : Nat
  deriving DecidableEq, Repr

/-- Link states (R199, R200). -/
inductive LinkSt where
  | active | doze | sleep | lost
  deriving DecidableEq, Repr

/-- A frame in a Carter queue (R141): what it needs and where it came from. -/
structure Frame where
  hart : Hart
  needs : List Cls
  compute : Bool
  origin : CoreId
  exact : Option CoreId
  /-- the class that MIGRATE asked for (R133) -/
  cls : Option CoreClass
  deriving DecidableEq, Repr

/-- What the outside world receives (R446, R460). -/
inductive HostAnswer where
  | data (bytes : List Byte)
  /-- read data marked poisoned (R462) -/
  | poisoned
  | unsupported
  | abort
  | signature (leaf : Nat) (sig : Word)
  | spdmError
  deriving DecidableEq, Repr

/-- The schedule: which agent moves, as data (log 3). `run` names the hart whose turn it is; `event` a row of
the event table. -/
inductive Turn where
  | run (p : Place)
  | event (i : Instr)
  deriving DecidableEq, Repr

/-- The state of the package. -/
structure State where
  member : Member
  /-- the hart that issues next, and its place -/
  hart : Hart
  here : Place
  others : List (Place × Hart)
  turns : List Turn
  /-- the model's own counter of free values (log 11) -/
  free : Nat
  /-- the model's own clock of arrivals, for the rules that take the oldest -/
  clock : Nat
  mem : List Host.Cell
  poison : List Nat
  cores : List (CoreId × Core)
  parishes : List (Nat × Parish)
  crofts : List (CroftId × Croft)
  coh : Coh
  moots : List Moot
  copyQ : List (Nat × List EngReq)
  walkQ : List (Nat × List EngReq)
  kickQ : List (EngineId × List EngReq)
  lockQ : List EngReq
  lockWait : List (EngineId × EngReq)
  /-- the TLB of each engine hart (R424) -/
  engTlb : List (EngineId × List TlbEntry)
  keys : List (Nat × KeySlot)
  migs : List Migration
  /-- the engine harts that copy a page, or have performed part of a COPY, each with its request, until that ends (R423, R431) -/
  migrating : List (EngineId × EngReq)
  window : List (Nat × Word)
  posts : List (Nat × BitVec 13)
  ranges : List (Nat × RangeEntry)
  funcs : List (Nat × Func)
  present : BitVec 512
  self : Word
  endpoints : List (Nat × Word)
  hashsel : Word
  rates : List (Nat × Word)
  switching : List (Nat × Nat)
  raslog : List Word
  raslost : Bool
  counts : List ((RasUnit × Nat) × Nat)
  retired : List (RasUnit × Nat)
  links : List (LinkId × LinkSt)
  /-- links that a held request is waking, with the die behind each (R200) -/
  waking : List (LinkId × Nat)
  /-- misses that sleeping links hold: the parish, the core and the line of each (R200) -/
  reqHeld : List (Nat × Option CoreId × Nat)
  /-- stores to overflow areas that Stewards have yet to perform: the parish, the address and the bytes, oldest first
  (R383, R395) -/
  slotWrites : List (Nat × Nat × List Byte)
  /-- accesses to CXL extents that are held (R149, R452) -/
  cxlHeld : List CxlReq
  /-- harts whose walker's update of the PTE at an address is held, for an access of a path (R200, R209) -/
  updHeld : List (Place × Path × Nat)
  lostDies : List Nat
  carter : List Frame
  recovery : Bool
  leaf : Nat
  hostOut : List HostAnswer
  /-- the agent whose next access to a peer has no response (R454) -/
  timeout : Option Agent
  /-- the HELD parts that VFSAVE wrote, and the work each stands for, newest first (R272; log 16) -/
  heldSaves : List (List Byte × List Convoy)
  deriving DecidableEq, Repr

/-! ### Reset values -/

/-- VFORM at reset (R242). -/
def VCfg.reset : VCfg := { mz := false, tz := false, grp := .x1, sew := .e8 }

/-- Vector state at reset and task start (R241). -/
def Vec.reset : Vec :=
  { v := Vector.replicate 32 { bits := 0, tag := .raw, sew := .e8, grp := .x1 }
    m := Vector.replicate 8 0
    vn := 0
    form := VCfg.reset
    vfirst := 0
    dg := Vector.replicate 32 0
    dim := Vector.replicate 3 { len := 0, stride := 0 }
    w := Vector.replicate 8 { base := 0, stride := 0, cursor := 0, pages := [] }
    ldv := 0
    queue := []
    last := [] }

/-- 512 bytes of 0x7F (R315). -/
def scaleReset : BitVec 4096 := BitVec.ofNat 4096 (0x7F * ((2 ^ 4096 - 1) / 255))

/-- Matrix state at reset and task start (R315). -/
def Mat.reset : Mat :=
  { t := Vector.replicate 4 0
    k := Vector.replicate 4 scaleReset
    shape := 0x20000
    grantBase := 0
    grantRows := 0
    flags := 0
    readN0 := false
    readN1 := false
    queue := [] }

/-- SY.STATUS at reset (R120). -/
def Status.reset : Status :=
  { fbusy := false, sbusy := false, fpaie := false, spaie := false, faie := false, saie := false,
    fpp := .firm, spp := .task, priv := .firm }

/-- SY.STATUS when a task starts (R120), at the given level. -/
def Status.start (l : Priv) : Status :=
  { fbusy := false, sbusy := false, fpaie := false, spaie := false, faie := false, saie := false,
    fpp := .task, spp := .task, priv := l }

def Bank.reset : Bank := { pc := 0, cause := 0, val := 0 }

def Ctx.reset : Ctx := { asid := 0, ptroot := 0, ccid := 0, frm := 0 }

/-- SY.MIXCTL at reset: MIXEN 1, TV 64, TM 64, TF 128 (R138). -/
def mixctlReset : Word := 0x4000000000404080

/-- The boot ROM's entry (R458). -/
def bootEntry : Word := 0x020000100000

/-- The boot ROM's trap entry, the reset value of SY.FTVEC (R458). -/
def bootTrap : Word := 0x02000010F000

/-- A hart context at reset (R92, R97, R119 to R123, R138, R226, R202, R458). -/
def Hart.reset : Hart :=
  { pc := bootEntry
    g := Vector.replicate 31 0
    ldsT := 0
    ldsS := 0
    ldsF := 0
    status := Status.reset
    bankS := Bank.reset
    bankF := Bank.reset
    tvec := 0
    ftvec := bootTrap
    tdeleg := 0
    scratch := 0
    fscratch := 0
    taskId := 0
    parent := 0
    desc := 0
    arg := 0
    prio := 0
    placedAt := 0
    mixctl := mixctlReset
    nv := 0
    nm := 0
    nf := 0
    winCount := 0
    windows := []
    moveTo := none
    evict := false
    urgent := false
    instret := 0
    fflags := 0
    frm := 0
    fenable := 0
    seed := 0x5EEDC0DE
    asid := 0
    ptroot := 0
    ccid := 0
    diraddr := 0
    pwMode := false
    pwSel := 0
    seqerr := false
    compute := false
    handles := Vector.replicate 8 none
    gang := none
    words := []
    wordsHere := 0
    open' := none
    wait := .running
    pend1 := false
    pend2 := false
    fpTraps := []
    vec := Vec.reset
    mat := Mat.reset }

/-- A context that holds no hart. -/
def Hart.vacant : Hart := { Hart.reset with wait := .vacant }

/-- A core at reset (R385). -/
def Core.reset : Core :=
  { cycle := 0
    arrival := []
    depart := []
    hbase := 0
    hlimit := 0
    hen := false
    howner := 0
    hstray := 0
    strays := 0
    drops := 0
    winCtx := Ctx.reset
    strayCtx := Ctx.reset
    tlb := []
    l1d := []
    l1i := []
    unitLast := 7 }

def Latch.reset : Latch := { full := false, tile := 0, scale := 0, visits := 0, readers := [], released := [] }

def Croft.reset : Croft :=
  { acc := [], owner := Vector.replicate 4 none, n0 := Latch.reset, n1 := Latch.reset, out0 := [], out1 := [] }

def ParishData.reset : ParishData :=
  { queue := []
    overflow := []
    lift := Vector.replicate 3 0
    tasks := []
    moots := []
    gangs := []
    reevemap := 0
    reevevec := 0
    reeveCtx := Ctx.reset
    stwovf := 0
    arrivals := [] }

/-- The PW. registers at reset (R469). -/
def Power.reset : Power :=
  { qreq := true
    ack := true
    saveptr := 0
    done := true
    err := false
    clken := false
    enRet := false
    enMain := false
    okRet := false
    okMain := false
    pend := false
    wake := false
    fresh := true
    modeOff := true
    st := .off }

def Parish.reset : Parish :=
  { data := ParishData.reset, saved := none, tlb := [], pw := Power.reset, reserved := none }

/-- A directory entry at reset (R189). -/
def Dir.reset : Dir :=
  { st := .I, ovf := false, busy := false, ackcnt := 0, reqp := 0, ptrs := [], cvec := 0 }

def L2.reset : L2 := { owned := false, dirty := false, pendingOwn := false, valid := 0, ahead := [] }

/-- A level that holds nothing of a line. -/
def Kept.none : Kept := { bytes := [], poison := [] }

def Coh.reset : Coh :=
  { dir := [], l2 := [], well := [], inner := [], evict := [], inflight := [], active := [], waiting := [], below := [], dram := [],
    snoop := [], settling := [] }

def KeySlot.reset : KeySlot := { key := 0, salt := 0, owner := 0, valid := false, next := 0 }

def RangeEntry.reset : RangeEntry :=
  { valid := false, shared := false, remove := false, type := 0, func := 0, base := 0, size := 0, target := 0 }

def Func.reset : Func := { state := .unlocked, ide := false, ccid := 0, bar2 := 0 }

/-- The machine after a cold reset of the package, for the member given (R458): hart 0 of C-core 0 of
parish 0 stands at the boot ROM's entry at FIRM, every other context is dormant. -/
def State.resetOf (m : Member) : State :=
  { member := m
    hart := Hart.reset
    here := { core := { die := 0, parish := 0, core := 0 }, hart := 0 }
    others := []
    turns := []
    free := 0
    clock := 0
    mem := []
    poison := []
    cores := []
    parishes := []
    crofts := []
    coh := Coh.reset
    moots := []
    copyQ := []
    walkQ := []
    kickQ := []
    lockQ := []
    lockWait := []
    engTlb := []
    keys := []
    migs := []
    migrating := []
    window := []
    posts := []
    ranges := []
    funcs := []
    present := 0
    self := 0
    endpoints := []
    hashsel := 0
    rates := []
    switching := []
    raslog := []
    raslost := false
    counts := []
    retired := []
    links := []
    waking := []
    reqHeld := []
    slotWrites := []
    cxlHeld := []
    updHeld := []
    lostDies := []
    carter := []
    recovery := false
    leaf := 0
    hostOut := []
    timeout := none
    heldSaves := [] }

/-- The machine right after reset: the Y-4822 (R2; log 1). -/
def State.reset : State := State.resetOf .y4822

end Sys2Proof.Machine
end

