-- ==== Sys2Proof/Machine/Ops.lean ====
section
/-! DEFINITION. The named operations over the state: tables, bytes of memory, general registers, harts
and places, retiring an instruction, taking a trap (R128) and returning from one (R130), and the choice
of a context for a migrating hart (R139 to R142). -/

namespace Sys2Proof.Machine

/-! ### Tables held as lists -/

/-- The entry of a key, or a default. -/
def alGet {κ α : Type} [DecidableEq κ] (d : α) (k : κ) : List (κ × α) → α
  | [] => d
  | (k', x) :: t => if k' = k then x else alGet d k t

/-- Whether a key has an entry. -/
def alHas {κ α : Type} [DecidableEq κ] (k : κ) : List (κ × α) → Bool
  | [] => false
  | (k', _) :: t => if k' = k then true else alHas k t

/-- Set the entry of a key in place, or append it. -/
def alSet {κ α : Type} [DecidableEq κ] (k : κ) (x : α) : List (κ × α) → List (κ × α)
  | [] => [(k, x)]
  | (k', y) :: t => if k' = k then (k, x) :: t else (k', y) :: alSet k x t

/-- Remove the entries of a key. -/
def alDel {κ α : Type} [DecidableEq κ] (k : κ) : List (κ × α) → List (κ × α)
  | [] => []
  | (k', y) :: t => if k' = k then alDel k t else (k', y) :: alDel k t

/-- Remove the first element that satisfies `p`. -/
def dropFirst {α : Type} (p : α → Bool) : List α → List α
  | [] => []
  | x :: t => if p x then t else x :: dropFirst p t

/-- Fold over 0 .. n-1, ascending. -/
def forN {α : Type} : Nat → (Nat → α → α) → α → α
  | 0, _, a => a
  | n + 1, f, a => f n (forN n f a)

/-! ### Bytes of memory (R7; log 2) -/

/-- What a byte that nothing has written reads as (log 2). -/
def unwritten : Byte := 0

/-- One byte of physical memory. -/
def readByte : List Host.Cell → Nat → Byte
  | [], _ => unwritten
  | (k, x) :: t, a => if k = a then x else if a < k then unwritten else readByte t a

/-- Write one byte, keeping the addresses rising and no entry equal to what an unlisted byte reads as. -/
def writeByte : List Host.Cell → Nat → Byte → List Host.Cell
  | [], a, v => if v = unwritten then [] else [(a, v)]
  | (k, x) :: t, a, v =>
    if k = a then (if v = unwritten then t else (a, v) :: t)
    else if a < k then (if v = unwritten then (k, x) :: t else (a, v) :: (k, x) :: t)
    else (k, x) :: writeByte t a v

/-- Whether addresses rise from above `lo` and no listed byte equals an unlisted one. -/
def cellsWf : Option Nat → List Host.Cell → Bool
  | _, [] => true
  | lo, (k, x) :: t => (match lo with | none => true | some l => decide (l < k)) && (x != unwritten) && cellsWf (some k) t

/-- The canonical form of memory. -/
def Memory.wf (m : List Host.Cell) : Bool := cellsWf none m

/-- `n` bytes from `a` up. -/
def readBytes (m : List Host.Cell) (a : Nat) : Nat → List Byte
  | 0 => []
  | n + 1 => readByte m a :: readBytes m (a + 1) n

/-- Write bytes from `a` up. -/
def writeBytes (m : List Host.Cell) (a : Nat) : List Byte → List Host.Cell
  | [] => m
  | x :: xs => writeBytes (writeByte m a x) (a + 1) xs

/-- Bytes as a little-endian number (R7). -/
def numOf (bs : List Byte) : Nat := leNat bs

/-- The `n`-byte little-endian image of a number (R7). -/
def bytesOf (n : Nat) (v : Nat) : List Byte := leBytes n v

/-- A little-endian unsigned number in memory. -/
def readNum (m : List Host.Cell) (a n : Nat) : Nat := numOf (readBytes m a n)

/-- Write the low `n` bytes of a number. -/
def writeNum (m : List Host.Cell) (a n v : Nat) : List Host.Cell := writeBytes m a (bytesOf n v)

/-! ### General registers (R92, R97) -/

/-- A general register by number; g0 reads as zero. Code 31 names mq and is read elsewhere. -/
def Hart.readG (h : Hart) (r : GReg) : Word := if r = 0 then 0 else h.g.getD r.toNat 0

/-- Write a general register; a write of g0 is discarded. -/
def Hart.writeG (h : Hart) (r : GReg) (v : Word) : Hart :=
  if r = 0 then h else { h with g := h.g.setIfInBounds r.toNat v }

/-- LDS of the current level (R97). -/
def Hart.lds (h : Hart) : BitVec 5 :=
  match h.status.priv with
  | .task => h.ldsT
  | .super => h.ldsS
  | .firm => h.ldsF

/-- Set LDS of the current level. -/
def Hart.setLds (h : Hart) (r : BitVec 5) : Hart :=
  match h.status.priv with
  | .task => { h with ldsT := r }
  | .super => { h with ldsS := r }
  | .firm => { h with ldsF := r }

/-- LDS takes the destination of a retiring instruction when it is one of g1 to g30 (R96). -/
def Hart.noteDest (h : Hart) (r : GReg) : Hart := if r = 0 ∨ r = 31 then h else h.setLds r

/-! ### Places and tables of the package -/

/-- The core the current hart stands on. -/
def State.coreId (s : State) : CoreId := s.here.core

/-- The class of the current core. -/
def State.cclass (s : State) : CoreClass := Config.classOf s.member s.here.core

/-- The package parish number of a core. -/
def State.ppOf (s : State) (c : CoreId) : Nat := Config.packageParish s.member c.die c.parish

/-- The package parish number of the current core. -/
def State.pp (s : State) : Nat := s.ppOf s.here.core

def State.core (s : State) (c : CoreId) : Core := alGet Core.reset c s.cores
def State.setCore (s : State) (c : CoreId) (x : Core) : State := { s with cores := alSet c x s.cores }

/-- A parish. The parishes of the G-die have no power sequence and always run (R469, R471). -/
def State.parish (s : State) (pp : Nat) : Parish := alGet Parish.reset pp s.parishes
def State.setParish (s : State) (pp : Nat) (x : Parish) : State := { s with parishes := alSet pp x s.parishes }
def State.pdata (s : State) (pp : Nat) : ParishData := (s.parish pp).data
def State.setPdata (s : State) (pp : Nat) (d : ParishData) : State := s.setParish pp { s.parish pp with data := d }

/-- The die of a package parish. -/
def State.dieOf (s : State) (pp : Nat) : Nat := ((Config.parishPlace s.member pp).map fun q => q.1).getD 0

/-- Whether a parish is in RUN; a parish of the G-die is (R471), and none of a lost die (R465). -/
def State.runs (s : State) (pp : Nat) : Bool :=
  decide (pp < 2) || ((s.parish pp).pw.st == .run && !s.lostDies.contains (s.dieOf pp))

def State.croft (s : State) (c : CroftId) : Croft := alGet Croft.reset c s.crofts
def State.setCroft (s : State) (c : CroftId) (x : Croft) : State := { s with crofts := alSet c x s.crofts }

/-- The croft of a core of a T-die (R25). -/
def croftOf (c : CoreId) : CroftId := { die := c.die, parish := c.parish, croft := c.core / 4 }

/-- The hart at a place; a place that holds none answers a vacant context. -/
def State.hartAt (s : State) (p : Place) : Hart := if p = s.here then s.hart else alGet Hart.vacant p s.others

/-- Replace the hart at a place; a vacant hart leaves no entry. -/
def State.setHart (s : State) (p : Place) (h : Hart) : State :=
  if p = s.here then { s with hart := h }
  else { s with others := if h.wait = .vacant then alDel p s.others else alSet p h s.others }

/-- The places that hold a hart, the current one first. -/
def State.places (s : State) : List Place :=
  if s.hart.wait = .vacant then s.others.map (·.1) else s.here :: s.others.map (·.1)

/-- Make the hart at `p` the current one. -/
def State.switchTo (s : State) (p : Place) : State :=
  if p = s.here then s
  else
    let h := s.hartAt p
    let rest := alDel p s.others
    { s with
      hart := h
      here := p
      others := if s.hart.wait = .vacant then rest else rest ++ [(s.here, s.hart)] }

/-- The contexts that the Steward of a core's parish holds for a group (R400). -/
def State.held (s : State) (c : CoreId) : List Reservation :=
  match (s.parish (s.ppOf c)).reserved with
  | some r => r.2
  | none => []

/-- Number of compute harts on a core, with those for which a context is held (R23, R400). -/
def State.computeOn (s : State) (c : CoreId) : Nat :=
  (s.places.filter fun p => p.core == c && (s.hartAt p).compute).length +
    ((s.held c).filter fun r => r.place.core == c && r.compute).length

/-- SY.HID of a place (R124). -/
def hidOf (m : Member) (p : Place) (compute : Bool) : Word :=
  (0#44 ++ Config.cclassCode (Config.classOf m p.core) ++ BitVec.ofBool compute ++ BitVec.ofNat 4 p.core.die ++
    BitVec.ofNat 5 p.core.parish ++ BitVec.ofNat 5 p.core.core ++ BitVec.ofNat 3 p.hart : BitVec 64)

/-- SY.HID of an engine hart (R416). -/
def hidOfEngine (e : EngineId) : Word :=
  (0#44 ++ 3#2 ++ 0#1 ++ BitVec.ofNat 4 e.die ++ BitVec.ofNat 5 e.parish ++ BitVec.ofNat 5 e.core ++ 0#3 : BitVec 64)

/-! ### Retiring (R96, R119, R138) -/

/-- How an instruction counts in SY.MIXCNT (R138). -/
inductive Mix where
  | plain | v | m | f
  deriving DecidableEq, Repr

/-- A saturating 16-bit count (R138). -/
def bump16 (x : BitVec 16) : BitVec 16 := if x = 0xFFFF then x else x + 1

/-- Count a retired instruction in SY.INSTRET, and at TASK in SY.MIXCNT (R119, R138). -/
def Hart.count (h : Hart) (k : Mix) : Hart :=
  let h := { h with instret := h.instret + 1 }
  match h.status.priv with
  | .task =>
    { h with
      nv := if k = .v then bump16 h.nv else h.nv
      nm := if k = .m then bump16 h.nm else h.nm
      nf := if k = .f then bump16 h.nf else h.nf
      winCount := h.winCount + 1 }
  | _ => h

/-- Retire an instruction of `len` bytes that names no general destination. -/
def State.retire (s : State) (len : Nat) (k : Mix := .plain) : State :=
  { s with hart := ({ s.hart with pc := s.hart.pc + BitVec.ofNat 64 len } : Hart).count k }

/-- The next free value's index, and the state after it is taken (log 11). -/
def State.draw (s : State) : Nat × State := (s.free, { s with free := s.free + 1 })

/-- Take the next tick of the model's clock of arrivals. -/
def State.tick (s : State) : Nat × State := (s.clock, { s with clock := s.clock + 1 })

/-! ### Reliability log (R464) -/

/-- Add an entry to MEM.RASLOG; a full queue drops it and marks the loss (R464). -/
def State.logRas (s : State) (kind unit : Nat) (loc : Nat) : State :=
  if s.raslog.length ≥ 64 then { s with raslost := true }
  else
    let w : Word := (1#1 ++ BitVec.ofBool s.raslost ++ BitVec.ofNat 3 kind ++ BitVec.ofNat 7 unit ++ BitVec.ofNat 52 loc : BitVec 64)
    { s with raslog := s.raslog ++ [w], raslost := false }

/-! ### Taking a trap (R121, R122, R128, R129) -/

/-- A cause register (R121). -/
def causeWord (async double vec : Bool) (acc : BitVec 2) (code : BitVec 8) : Word :=
  (BitVec.ofBool async ++ BitVec.ofBool double ++ 0#50 ++ BitVec.ofBool vec ++ 0#1 ++ acc ++ code : BitVec 64)

/-- The handler's address (R122). -/
def entryAddress (vec : Word) (code : BitVec 8) (async : Bool) : Word :=
  let base : Word := vec.extractLsb' 8 56 ++ 0#8
  if vec.getLsbD 0 then
    base + (if async then 0x800 else 0) + (code.setWidth 64 <<< 6)
  else base

/-- Whether SY.TDELEG sends a cause to SUPER (R123). -/
def delegated (tdeleg : Word) (code : BitVec 8) (async : Bool) : Bool :=
  tdeleg.getLsbD (if async then 32 + code.toNat else code.toNat)

/-- The level a trap is delivered to, before a busy bit is looked at (R128). -/
def trapLevel (h : Hart) (code : BitVec 8) (async : Bool) : Priv :=
  if h.status.priv = .firm ∨ (async = false ∧ code = 0x0F ∧ h.status.priv = .super) then .firm
  else if delegated h.tdeleg code async then .super
  else .firm

/-- Close the convoy that is still open, if any (R413). -/
def closeLast : List Convoy → List Convoy
  | [] => []
  | [c] => [{ c with closed := true }]
  | c :: t => c :: closeLast t

/-- The hart's open convoy closes: it waits, parks, traps or is pre-empted (R413). -/
def Hart.closeConvoy (h : Hart) : Hart := { h with vec := { h.vec with queue := closeLast h.vec.queue } }

/-- A FENCE.VV passes: the open convoy closes, and the next one starts behind it (R164). -/
def Vec.fence (v : Vec) : Vec := { v with queue := closeLast v.queue, vv := true }

/-- Taking a trap (R128): which bank saves the pc, the status and the mode that follow, and where the pc
goes; a trap to FIRM that finds FBUSY set locks the hart up (R129). -/
def Hart.takeTrap (h : Hart) (code : BitVec 8) (value : Word) (async : Bool) (acc : BitVec 2) (vec : Bool)
    (tpc : Word) : Hart :=
  let h := h.closeConvoy
  let want := trapLevel h code async
  let double := want = .super && h.status.sbusy
  let lv := if double then Priv.firm else want
  let cause := causeWord async double vec acc code
  match lv with
  | .super =>
    { h with
      bankS := { pc := tpc, cause := cause, val := value }
      status := { h.status with spp := h.status.priv, spaie := h.status.saie, saie := false, sbusy := true, priv := .super }
      pc := entryAddress h.tvec code async
      wait := .running }
  | _ =>
    if h.status.fbusy then { h with wait := .lockup }
    else
      { h with
        bankF := { pc := tpc, cause := cause, val := value }
        status := { h.status with fpp := h.status.priv, fpaie := h.status.faie, faie := false, fbusy := true, priv := .firm }
        pc := entryAddress h.ftvec code async
        wait := .running }

/-- Record a lockup of the current hart in MEM.RASLOG (R129, R464). -/
def State.noteLockup (s : State) : State :=
  if s.hart.wait = .lockup then s.logRas 3 0 ((hidOf s.member s.here s.hart.compute).toNat % 2 ^ 20) else s

/-- No access of a hart on the paths that `f` names is held any more (R149, R209). -/
def State.unheldOn (s : State) (p : Place) (f : Path → Bool) : State :=
  { s with
    cxlHeld := s.cxlHeld.filter fun x => x.place != p || !f x.path
    updHeld := s.updHeld.filter fun x => x.1 != p || !f x.2.1 }

/-- No access of a hart is held any more. -/
def State.unheld (s : State) (p : Place) : State := s.unheldOn p fun _ => true

/-- The fetch and the scalar access of a hart have ended; what its vector and matrix queues have under way goes on. -/
def State.unheldFront (s : State) (p : Place) : State := s.unheldOn p fun y => y == .fetch || y == .scalar

/-- The access of the current hart has ended in a trap: nothing of it is held, and one to a peer that had no response has
had its end (R454). -/
def State.answered (s : State) (code : BitVec 8) : State :=
  { (s.unheldFront s.here) with timeout := if code = 0x0D ∧ s.timeout = some (.hart s.here) then none else s.timeout }

/-- A synchronous trap of the instruction at the pc (R126). -/
def State.trap (s : State) (code : BitVec 8) (value : Word) (acc : BitVec 2 := 0) : State :=
  ({ s.answered code with hart := s.hart.takeTrap code value false acc false s.hart.pc } : State).noteLockup

/-- A MOOTWAIT leaves its park, for a trap or for pre-emption, and issues afresh (R362). -/
def Hart.unpark (h : Hart) : Hart := { h with handles := h.handles.map fun o => o.map fun x => { x with parked := none } }

/-- A fault of the vector or matrix queue, reported before the instruction at the pc (R135). -/
def State.trapVec (s : State) (code : BitVec 8) (value : Word) (acc : BitVec 2 := 0) : State :=
  ({ s.answered code with hart := s.hart.unpark.takeTrap code value false acc true s.hart.pc } : State).noteLockup

/-- Whether an asynchronous cause may be taken now (R128). -/
def Hart.asyncReady (h : Hart) (code : BitVec 8) : Bool :=
  if delegated h.tdeleg code true then
    match h.status.priv with
    | .task => !h.status.sbusy
    | .super => !h.status.sbusy && h.status.saie
    | .firm => false
  else
    match h.status.priv with
    | .firm => !h.status.fbusy && h.status.faie
    | _ => !h.status.fbusy

/-- The pending asynchronous cause to be taken now: 0x02 before 0x01 (R128). -/
def Hart.asyncDue (h : Hart) : Option (BitVec 8) :=
  if h.pend2 && h.asyncReady 2 then some 2
  else if h.pend1 && h.asyncReady 1 then some 1
  else none

/-- Take a pending asynchronous trap (R127, R128). -/
def Hart.takeAsync (h : Hart) (code : BitVec 8) : Hart :=
  let h := if code = 2 then { h with pend2 := false } else { h with pend1 := false }
  h.takeTrap code 0 true 0 false h.pc

/-- The return from a trap at SUPER or FIRM (R130); TASK is turned away before. -/
def Hart.eret (h : Hart) : Hart :=
  match h.status.priv with
  | .super =>
    { h with
      pc := h.bankS.pc
      status := { h.status with priv := h.status.spp, saie := h.status.spaie, sbusy := false } }
  | _ =>
    { h with
      pc := h.bankF.pc
      status := { h.status with priv := h.status.fpp, faie := h.status.fpaie, fbusy := false } }

/-! ### Stalls and parks -/

/-- The instruction at the pc has not issued: it has changed nothing, its convoy closes (R413), and it
issues afresh (R93, R95). -/
def State.stall (s : State) : State := { s with hart := { s.hart.closeConvoy with wait := .parked } }

/-! ### Distances and free contexts (R21, R23, R141) -/

/-- The compute die that owns a W-die (R20). -/
def ownerOf (w : Nat) : Nat := (w - 6) / 2

/-- Two compute dies adjacent in the ring (R20). -/
def neighbours (d e : Nat) : Bool := decide ((d - 1 + 1) % 4 = e - 1 ∨ (e - 1 + 1) % 4 = d - 1)

/-- The lower-numbered of the two compute dies other than a diagonal pair, or the other one when that die
is lost (R21, R465). -/
def viaDie (lost : List Nat) (d e : Nat) : Nat :=
  let mids := [1, 2, 3, 4].filter fun x => x != d && x != e
  match mids.filter fun x => !lost.contains x with
  | x :: _ => x
  | [] => mids.headD 0

/-- The dies after the source on the path between two dies with cores or memory, by R21. -/
def pathOf (lost : List Nat) (src dst : Nat) : List Nat :=
  let fromCompute (d t : Nat) : List Nat :=
    if t = d then []
    else if t = 0 then [0]
    else if t ≤ 4 then (if neighbours d t then [t] else [viaDie lost d t, t])
    else
      let e := ownerOf t
      if e = d then [t]
      else if neighbours d e then [e, t]
      else [viaDie lost d e, e, t]
  if src = dst then []
  else if src = 0 then
    (if dst ≤ 4 then [dst] else [ownerOf dst, dst])
  else if src ≤ 4 then fromCompute src dst
  else ownerOf src :: fromCompute (ownerOf src) dst

/-- Number of Commons links between two dies (R141). -/
def linksBetween (src dst : Nat) : Nat := (pathOf [] src dst).length

/-- Whether a core is a reeve of its parish (R203). -/
def State.isReeve (s : State) (c : CoreId) : Bool := (s.pdata (s.ppOf c)).reevemap.getLsbD c.core

/-- Contexts of a core that a task may take: the highest-numbered of a reeve core is kept for fault
messages (R212). -/
def State.taskContexts (s : State) (c : CoreId) : List Nat :=
  let n := Config.hartsOf (Config.classOf s.member c)
  List.range (if s.isReeve c then n - 1 else n)

/-- Whether the context holds no hart. -/
def State.isFree (s : State) (p : Place) : Bool := (s.hartAt p).wait = .vacant

/-- Whether the context is reserved for a group (R400). -/
def State.isReserved (s : State) (p : Place) : Bool := (s.held p.core).any fun r => r.place == p

/-- The lowest free context of a core for a hart of the kind given (R23). -/
def State.freeContext (s : State) (c : CoreId) (compute : Bool) : Option Place :=
  let k := Config.classOf s.member c
  if compute && decide (s.computeOn c ≥ Config.computeLimit k) then none
  else
    ((s.taskContexts c).map fun i => ({ core := c, hart := i } : Place)).find? fun p => s.isFree p && !s.isReserved p

/-- Cores of a parish, ascending. -/
def coresIn (m : Member) (d p : Nat) : List CoreId :=
  match Config.dieClass m d with
  | some k => (List.range (Config.coresOf k)).map fun c => { die := d, parish := p, core := c }
  | none => []

/-- The other dies with cores, by number of links and then by package parish number (R141). -/
def otherDies (m : Member) (d : Nat) : List Nat :=
  let ds := (Config.dieOrder m).filter fun x => x != d
  (ds.filter fun x => linksBetween d x == 1) ++ (ds.filter fun x => linksBetween d x == 2) ++
    (ds.filter fun x => linksBetween d x > 2)

/-- Cores of a die, parish by parish. -/
def coresOn (m : Member) (d : Nat) : List CoreId :=
  (List.range (Config.parishesOf m d)).flatMap fun p => coresIn m d p

/-- The parishes of the package, as die and parish within it, nearest to a core first: its own, those of
its die, then those of other dies (R141). -/
def nearParishes (m : Member) (c : CoreId) : List (Nat × Nat) :=
  (c.die, c.parish) ::
    (((List.range (Config.parishesOf m c.die)).filter fun p => p != c.parish).map fun p => (c.die, p)) ++
    (otherDies m c.die).flatMap fun d => (List.range (Config.parishesOf m d)).map fun p => (d, p)

/-- The cores of a parish in the order in which the Carter tries them for a hart of core `c`: the core itself (R31),
then those of its croft or hamlet (R141). -/
def nearCores (m : Member) (c : CoreId) (d p : Nat) : List CoreId :=
  let own := (coresIn m d p).filter fun x => x == c
  let all := (coresIn m d p).filter fun x => x != c
  own ++ if d = c.die ∧ p = c.parish ∧ d ≠ 0 then
    (all.filter fun x => x.core / 4 == c.core / 4) ++ all.filter fun x => x.core / 4 != c.core / 4
  else all

/-- Classes that need a compute context (R31). -/
def needsCompute : Cls → Bool
  | .V => true
  | .E => true
  | .M => true
  | _ => false

/-- Whether a core class can take a frame with these needs (R142). -/
def canTake (k : CoreClass) (needs : List Cls) (compute : Bool) : Bool :=
  needs.all (Config.carries k) && (!compute || decide (0 < Config.computeLimit k))

/-- The nearest free context that can take a frame (R141). A parish that is not in RUN takes none (R471). -/
def State.findContext (s : State) (c : CoreId) (needs : List Cls) (compute : Bool) : Option Place :=
  (nearParishes s.member c).findSome? fun q =>
    match Config.dieClass s.member q.1 with
    | some k =>
      if canTake k needs compute && !s.lostDies.contains q.1 && s.runs (Config.packageParish s.member q.1 q.2) then
        (nearCores s.member c q.1 q.2).findSome? fun x => s.freeContext x compute
      else none
    | none => none

/-! ### The mix window (R138, R143) -/

/-- The heavy set of R143 for V, M and F, by the thresholds and the counts of the window. -/
def Hart.heavy (h : Hart) : Bool × Bool × Bool :=
  let at' (i : Nat) (n : BitVec 16) : Bool :=
    let t := (h.mixctl.extractLsb' i 8).toNat
    decide (t ≠ 0) && decide (t * 256 ≤ n.toNat)
  (at' 16 h.nv, at' 8 h.nm, at' 0 h.nf)

/-- ORIGIN (R138). -/
def originOf (m : Word) : CoreClass :=
  match (m.extractLsb' 24 2).toNat with
  | 1 => .V
  | 2 => .T
  | _ => .C

/-- The preferred class (R143). -/
def Hart.preferred (h : Hart) (here : CoreClass) : CoreClass :=
  match h.heavy with
  | (false, false, false) => originOf h.mixctl
  | (false, false, true) => if Config.carries here .F then here else .V
  | (true, false, _) => .V
  | (false, true, false) => .T
  | _ => here

/-- The end of a window on a core of class `k` (R138, R143): the counts return to zero, and four consecutive windows
with one preferred class other than the current one ask for a move. A window that ends with MIXEN = 0 has none. -/
def Hart.windowEnd (h : Hart) (k : CoreClass) : Hart :=
  let want := h.preferred k
  let w := if h.mixctl.getLsbD 62 then (want :: h.windows).take 4 else []
  let go := w.length == 4 && w.all (fun x => x == want) && want != k && !(want == .C && h.compute)
  { h with nv := 0, nm := 0, nf := 0, winCount := 0, windows := w, moveTo := if go then some want else none }

/-- A window whose last instruction has retired is evaluated before the hart leaves its core (R138). -/
def Hart.settleWindow (h : Hart) (k : CoreClass) : Hart := if 65536 ≤ h.winCount then h.windowEnd k else h

/-! ### Moves (R139 to R142) -/

/-- The stream registers without the translations that a stream engine keeps for them: they do not travel (R140,
R299). -/
def Hart.noPages (h : Hart) : Hart := { h with vec := { h.vec with w := h.vec.w.map fun x => { x with pages := [], due := false } } }

/-- A hart as it stands after a move to another core: the window counts return to zero (R138), its unread words no longer
stand in that core's arrival queue (R140), where they take no room of the new core's (log 88), and a move that its mix asked
for is off until a window ends again (R143; log 76). -/
def Hart.moved (h : Hart) (compute : Bool) : Hart :=
  { h.noPages with nv := 0, nm := 0, nf := 0, winCount := 0, wordsHere := 0, compute := h.compute || compute, moveTo := none }

/-- The instruction caches of the cores that `p` names give up the lines that `q` names. -/
def State.dropCode (s : State) (p : CoreId → Bool) (q : Nat → Bool) : State :=
  let f (e : CoreId × Core) : CoreId × Core := if p e.1 then (e.1, { e.2 with l1i := e.2.l1i.filter fun x => !q x.1 }) else e
  { s with cores := s.cores.map f }

/-- A core's fetches see memory as it is from here on (R165). -/
def State.freshFetch (s : State) (c : CoreId) : State := s.dropCode (fun x => x == c) fun _ => true

/-- Put a hart into a context that is free. One that comes from another core carries no stale instructions (R165). -/
def State.occupy (s : State) (p : Place) (h : Hart) (elsewhere : Bool) : State :=
  (if elsewhere then s.freshFetch p.core else s).setHart p h

/-- Put the hart of the current context at another place, which becomes the current one (R139). -/
def State.moveTo (s : State) (p : Place) (compute : Bool) : State :=
  let h0 := s.hart.settleWindow s.cclass
  let h := if p.core = s.here.core then { h0 with compute := h0.compute || compute, moveTo := none } else h0.moved compute
  let s1 := (if p.core = s.here.core then s else s.freshFetch p.core).unheld s.here
  { s1 with hart := { h with wait := .running }, here := p, others := alDel p s.others }

/-- The hart of the current context waits in the Carter queue, and its context is free (R141); its frame holds no stream
translation (R140, R211). Those that are scheduled with it run on (R400; log 75). -/
def State.toCarter (s : State) (needs : List Cls) (compute : Bool) (exact : Option CoreId)
    (cls : Option CoreClass := none) : State :=
  let s1 := s.unheld s.here
  { s1 with
    carter := s.carter ++
      [{ hart := (s.hart.settleWindow s.cclass).noPages, needs := needs, compute := compute, origin := s.here.core
         exact := exact, cls := cls }]
    hart := Hart.vacant }

end Sys2Proof.Machine
end

