-- ==== Sys2Proof/Machine/Map.lean ====
section
/-! DEFINITION. The physical map (spec 01 R41, R42; 14 R450, R454), the lines of memory and their homes
(01 R37; 06 R187, R204; 14 R451), where memory holds a byte, and the links between dies (01 R20, R21; 06 R199,
R200). -/

namespace Sys2Proof.Machine

/-! ### The physical map -/

/-- What a physical address reaches (R41). -/
inductive Region where
  | hbm
  | croft (c : CoreId)
  | dev (off : Nat)
  | cxl (entry : Nat)
  | peer (p : Nat)
  | none
  deriving DecidableEq, Repr

/-- First physical address of the device register space (R41). -/
def devBase : Nat := 0x020000000000
/-- First physical address of the croft store alias (R42). -/
def croftBase : Nat := 0x010000000000
/-- First physical address of the CXL range (R41). -/
def cxlBase : Nat := 0x1000000000000
/-- First physical address of the peer windows (R41). -/
def peerBase : Nat := 0x8000000000000

/-- Whether an address lies in the CXL range (R41). -/
def inCxl (pa : Nat) : Bool := decide (cxlBase ≤ pa ∧ pa < cxlBase + 2 ^ 44)

/-- Where a croft store stands in the alias (R42). -/
def croftAlias (c : CoreId) : Nat := croftBase + (((c.die - 1) * 32 + c.parish) * 32 + c.core) * 0x40000

/-- Whether a range table entry that is VALID covers an address (R450). -/
def RangeEntry.covers (e : RangeEntry) (pa : Nat) : Bool :=
  e.valid && decide (e.base.toNat ≤ pa) && decide (pa < e.base.toNat + e.size.toNat)

/-- The one valid entry that covers a CXL address; an overlap populates nothing (R450). -/
def State.coveredBy (s : State) (pa : Nat) : Option (Nat × RangeEntry) :=
  match s.ranges.filter fun e => e.2.covers pa with
  | [e] => some e
  | _ => none

/-- The entry that populates a CXL address: an extent that is being removed is absent (R452). -/
def State.rangeOf (s : State) (pa : Nat) : Option Nat :=
  match s.coveredBy pa with
  | some e => if e.2.remove then none else some e.1
  | none => none

/-- What a physical address reaches; `none` when the range is reserved or not populated (R41, R42, R450,
R454). -/
def State.region (s : State) (pa : Nat) : Region :=
  if pa < 2 ^ 39 then .hbm
  else if croftBase ≤ pa ∧ pa < croftBase + 2 ^ 30 then
    let slot := (pa - croftBase) / 0x40000
    let c : CoreId := { die := slot / 1024 + 1, parish := slot / 32 % 32, core := slot % 32 }
    if Config.dieClass s.member c.die = some .T then .croft c else .none
  else if devBase ≤ pa ∧ pa < devBase + 2 ^ 32 then .dev (pa - devBase)
  else if inCxl pa then
    (match s.rangeOf pa with | some i => .cxl i | none => .none)
  else if peerBase ≤ pa ∧ pa < 2 ^ 52 then
    let p := (pa - peerBase) / 2 ^ 42
    if s.present.getLsbD p && p != s.self.toNat % 512 && decide ((pa - peerBase) % 2 ^ 42 < 2 ^ 39) then .peer p else .none
  else .none

/-- Whether memory of the region may be held in caches (R145, R146). -/
def Region.cacheable : Region → Bool
  | .hbm => true
  | .cxl _ => true
  | .peer _ => true
  | _ => false

/-- Where memory holds the byte of a physical address. A byte of CXL memory lies at the host or memory-device address
that TARGET gives it, beyond the physical address space, so that it stays where it is when a range is mapped anew
(R450). -/
def State.cell (s : State) (pa : Nat) : Nat :=
  if inCxl pa then
    match s.coveredBy pa with
    | some e => 2 ^ 64 * (1 + e.2.type.toNat) + (e.2.target.toNat + (pa - e.2.base.toNat)) % 2 ^ 64
    | none => pa
  else pa

/-- The bytes of memory at a physical address; they lie in one page. -/
def State.memBytes (s : State) (pa n : Nat) : List Byte := readBytes s.mem (s.cell pa) n

/-- A little-endian number in memory at a physical address. -/
def State.memNum (s : State) (pa n : Nat) : Nat := numOf (s.memBytes pa n)

/-! ### Homes and lines (R37, R187, R204, R451) -/

/-- The W-die that is home to a byte of HBM (R187). -/
def homeOf (pa : Nat) : Nat :=
  8 + ((pa / 2 ^ 7 % 8) ^^^ (pa / 2 ^ 16 % 8) ^^^ (pa / 2 ^ 25 % 8))

/-- The sub-slice of a line of a W-die (R204). -/
def subSlice (hashsel : Word) (pa : Nat) : Nat :=
  let b := (hashsel >>> (8 * (homeOf pa - 8))).toNat % 256
  let h := (pa / 2 ^ 10 % 8) ^^^ (pa / 2 ^ 19 % 8) ^^^ (pa / 2 ^ 28 % 8)
  match b / 64 with
  | 1 => (((List.range 8).filter fun i => i != b % 8).getD (pa / 2 ^ 10 % 7) 0)
  | 2 => (((List.range 8).filter fun i => i != b % 8 && i != b / 8 % 8).getD (pa / 2 ^ 10 % 6) 0)
  | _ => h

/-- The number from which the halves of lines of CXL memory are numbered. -/
def halfBase : Nat := 2 ^ 52

/-- The line of an address (R37). A line of CXL memory is held as two independent halves, each of which counts as a
line of its own here (R451). -/
def lineOf (pa : Nat) : Nat := if inCxl pa then halfBase + pa / 64 else pa / 128

/-- The first address of a line. -/
def lineAddr (line : Nat) : Nat := if halfBase ≤ line then (line - halfBase) * 64 else line * 128

/-- Bytes of a line. -/
def lineSize (line : Nat) : Nat := if halfBase ≤ line then 64 else 128

/-- Every line that `n` bytes at an address touch. -/
def linesOf (pa n : Nat) : List Nat :=
  let size := if inCxl pa then 64 else 128
  (List.range ((pa % size + n + (size - 1)) / size)).map fun i => lineOf pa + i

/-- Whether a line is of HBM (R41). -/
def lineInHbm (line : Nat) : Bool := decide (line < 2 ^ 32)

/-- The die at which the home of a line stands: a W-die for HBM, and the G-die for CXL memory and for what its
scale-up links reach (R187). -/
def lineHome (line : Nat) : Nat := if lineInHbm line then homeOf (line * 128) else 0

/-- Sectors of `n` bytes at `pa` (R37). -/
def sectorsOf (pa n : Nat) : List Nat := (List.range ((pa % 32 + n + 31) / 32)).map fun i => pa / 32 + i

/-- The sectors of a line that `n` bytes at `pa` touch, as valid bits (R194). -/
def sectorBits (line pa n : Nat) : BitVec 4 :=
  (sectorsOf pa n).foldl (fun v x => if lineAddr line ≤ x * 32 ∧ x * 32 < lineAddr line + lineSize line
    then v ||| (1#4 <<< (x - lineAddr line / 32)) else v) 0

/-- The valid bits of a line held whole. -/
def wholeLine (line : Nat) : BitVec 4 := if halfBase ≤ line then 0b0011 else 0b1111

/-- The parish of an L2's way, by its unit number: 16 ways of a set, 8,192 sets of a parish (R463; log 26). -/
def wayParish (n : Nat) : Nat := n / 131072

/-- The bytes of a line as memory holds them. -/
def State.lineBytes (s : State) (line : Nat) : List Byte := s.memBytes (lineAddr line) (lineSize line)

/-! ### Dies and links (R20, R21, R199, R200) -/

/-- The die that serves an address, when it can be lost (R149, R465). -/
def State.homeDie (pa : Nat) : Region → Nat
  | .hbm => homeOf pa
  | .croft c => c.die
  | _ => 0

/-- The Commons link between two dies that share one (R20). -/
def linkOf (a b : Nat) : LinkId :=
  if 8 ≤ a then .well a
  else if 8 ≤ b then .well b
  else if a = 0 then .green b
  else if b = 0 then .green a
  else .compute (Nat.min a b) (Nat.max a b)

/-- The state of a link; a link that nothing changed is ACTIVE (R199). -/
def State.linkState (s : State) (l : LinkId) : LinkSt := alGet .active l s.links

/-- Whether every link on the path from die `src` through the dies given is ACTIVE (R21, R200). -/
def State.linksActive (s : State) : Nat → List Nat → Bool
  | _, [] => true
  | src, d :: t => s.linkState (linkOf src d) == .active && s.linksActive d t

/-- Whether a request of an agent on die `src` to die `dst` proceeds now, or is held with DIE_WAKING (R200). -/
def State.reaches (s : State) (src dst : Nat) : Bool := s.linksActive src (pathOf s.lostDies src dst)

/-- The links that a held request is waking: each that is not ACTIVE, with the die behind it (R200). -/
def State.wakeLinks (s : State) : Nat → List Nat → State
  | _, [] => s
  | src, d :: t =>
    let l := linkOf src d
    let s := if s.linkState l == .active || s.waking.contains (l, d) then s else { s with waking := s.waking ++ [(l, d)] }
    s.wakeLinks d t

/-- A request of an agent on die `src` to die `dst` is held with DIE_WAKING, and starts the wake of every link on its
path that is not ACTIVE (R200). -/
def State.wake (s : State) (src dst : Nat) : State := s.wakeLinks src (pathOf s.lostDies src dst)

/-- The nearest context for the hart of the current one, which is free itself once the frame is packed (R139, R141). -/
def State.carryPlace (s : State) (needs : List Cls) (compute : Bool) : Option Place :=
  ({ s with hart := Hart.vacant } : State).findContext s.here.core needs compute

/-- Steps 3 to 5 of R139 for a hart whose queues are empty: to the nearest context, once the links to it are ACTIVE (R200),
or to the Carter queue. A context that is free goes to it although frames wait in the queue for others (log 61). -/
def State.carry (s : State) (needs : List Cls) (compute : Bool) : State :=
  match s.carryPlace needs compute with
  | some p => if s.reaches s.here.core.die p.core.die then s.moveTo p compute else (s.wake s.here.core.die p.core.die).stall
  | none => s.toCarter needs compute none

end Sys2Proof.Machine
end

