-- ==== Sys2Proof/Machine/Coherence.lean ====
section
/-! DEFINITION. The caches, the homes and their directory (spec 01 R19, R22, R24; 05 R159, R170, R171; 06 R187 to R195,
R481, R482, R488; 14 R463). Memory itself holds what a load returns; this layer holds which cache holds a line, and
what each level below holds where a dirty copy hides it. An access of a hart runs its transaction at the home in one
step, but for the invalidations of a write, which stay outstanding (R182, R192); the message rows run every
transaction message by message. -/

namespace Sys2Proof.Machine

/-- What an access finds at the caches, the homes and the links: `ok` when it is performed, and `error` when it is held,
with the state in which it waits (R191, R195, R200). -/
abbrev Held := Except State State

/-- Of an attempt that waits, what counts as issued stays: the links that it wakes, the misses that they hold, and the
accesses and updates that are on their way (R149, R200, R209). -/
def State.waitedBy (s t : State) : State :=
  { s with waking := t.waking, reqHeld := t.reqHeld, cxlHeld := t.cxlHeld, updHeld := t.updHeld }

/-- A state in which more waits than before, or nothing. -/
def State.ifWoken (s t : State) : Option State :=
  if t.waking = s.waking ∧ t.reqHeld = s.reqHeld ∧ t.cxlHeld = s.cxlHeld ∧ t.updHeld = s.updHeld then none else some t

/-- A request of an agent that is no hart cannot go on now: it starts the wake of the links that it needs (R200), or there
is no such step. -/
def State.heldRow (s : State) (name : String) (t : State) : Out State :=
  if t.waking = s.waking then .refused (.notEnabled name) else .next { s with waking := t.waking }

def Coh.dirOf (c : Coh) (line : Nat) : Dir := alGet Dir.reset line c.dir
def Coh.setDir (c : Coh) (line : Nat) (d : Dir) : Coh := { c with dir := alSet line d c.dir }
def Coh.l2Of (c : Coh) (pp line : Nat) : Option L2 := alGet none (pp, line) (c.l2.map fun e => (e.1, some e.2))
def Coh.setL2 (c : Coh) (pp line : Nat) (x : L2) : Coh := { c with l2 := alSet (pp, line) x c.l2 }
def Coh.delL2 (c : Coh) (pp line : Nat) : Coh := { c with l2 := alDel (pp, line) c.l2 }

/-- The pointer code of a parish (R190). -/
def ptrCode (pp : Nat) : Nat := pp % 128

/-- The coarse bit of a parish (R190). -/
def coarseBit (pp : Nat) : Nat := pp / 4 % 32

/-- The parishes of the member that a pointer code names (R190). -/
def codeParishes (m : Member) (q : Nat) : List Nat :=
  (List.range (Config.parishCount m)).filter fun p => p == q || p == q + 128

/-- Whether an entry records a parish as holding the line (R189, R191, R482). -/
def Dir.records (d : Dir) (pp : Nat) : Bool :=
  if d.ovf then d.cvec.getLsbD (coarseBit pp) else d.ptrs.contains (ptrCode pp)

/-- The parishes that an entry names (R190). -/
def Dir.named (m : Member) (d : Dir) : List Nat :=
  (List.range (Config.parishCount m)).filter fun p => d.records p

/-- A directory entry that records one owner (R189). -/
def Dir.owned (pp : Nat) : Dir := { Dir.reset with st := .O, ptrs := [ptrCode pp] }

/-- The entry after an eviction notice of a shared copy: a recorded parish loses its pointer (R191). -/
def Dir.puts (d : Dir) (pp : Nat) : Dir :=
  if d.st != .S || d.ovf || !d.records pp then d
  else
    let ps := dropFirst (fun q => q == ptrCode pp) d.ptrs
    if ps.isEmpty then Dir.reset else { d with ptrs := ps }

/-- Add a sharer (R191). -/
def Dir.addSharer (d : Dir) (pp : Nat) : Dir :=
  if d.ovf then { d with cvec := d.cvec ||| (1#32 <<< coarseBit pp) }
  else if d.ptrs.contains (ptrCode pp) then d
  else if d.ptrs.length < 4 then { d with ptrs := d.ptrs ++ [ptrCode pp] }
  else
    { d with
      ovf := true
      ptrs := []
      cvec := d.ptrs.foldl (fun v q => v ||| (1#32 <<< coarseBit q)) (1#32 <<< coarseBit pp) }

/-- The directory entry as W.DIRDATA returns it (R189). -/
def Dir.word (d : Dir) : Word :=
  let st : BitVec 2 := match d.st with | .I => 0 | .S => 1 | .O => 2
  let p (i : Nat) : BitVec 7 := BitVec.ofNat 7 (d.ptrs.getD i 0)
  let low : BitVec 32 := if d.ovf then d.cvec else 0#4 ++ p 3 ++ p 2 ++ p 1 ++ p 0
  (st ++ BitVec.ofBool d.ovf ++ BitVec.ofBool d.busy ++ BitVec.ofNat 8 d.ackcnt ++ BitVec.ofNat 7 d.reqp ++ 0#10 ++
    BitVec.ofNat 3 (if d.ovf then 0 else d.ptrs.length) ++ low : BitVec 64)

def State.setDir (s : State) (line : Nat) (d : Dir) : State := { s with coh := s.coh.setDir line d }

/-! ### What a level keeps below a dirty copy (R170, R171; log 9) -/

/-- A line as it stands above: its bytes, and which of its sectors are poisoned. -/
def State.lineKept (s : State) (line : Nat) : Kept :=
  { bytes := s.lineBytes line
    poison := (List.range (lineSize line / 32)).filter fun i => s.poison.contains (lineAddr line / 32 + i) }

/-- The line reads as a level below kept it. -/
def State.putKept (s : State) (line : Nat) (k : Kept) : State :=
  let first := lineAddr line / 32
  { s with
    mem := writeBytes s.mem (s.cell (lineAddr line)) k.bytes
    poison := k.poison.map (first + ·) ++ s.poison.filter fun x => x < first || first + lineSize line / 32 ≤ x }

/-! ### The L1 caches (R22, R188; log 9) -/

/-- Lines that an L1 data cache of a core class holds (R22). -/
def dataLines : CoreClass → Nat
  | .C => 512
  | .V => 512
  | .T => 128

/-- Lines that an L1 instruction cache of a core class holds (R22). -/
def codeLines : CoreClass → Nat
  | .C => 512
  | .V => 256
  | .T => 128

/-- The L2 recalls a line from the L1 that holds it dirty (R188). -/
def State.recallL1 (s : State) (line : Nat) : State :=
  { s with
    coh := { s.coh with inner := alDel line s.coh.inner }
    cores := s.cores.map fun (e : CoreId × Core) =>
      (e.1, { e.2 with l1d := e.2.l1d.map fun x => if x.1 = line then (line, false) else x }) }

/-- The data caches of the cores that `p` names give up a line (R192). -/
def State.dropL1 (s : State) (p : CoreId → Bool) (line : Nat) : State :=
  let f (e : CoreId × Core) : CoreId × Core := if p e.1 then (e.1, { e.2 with l1d := alDel line e.2.l1d }) else e
  { s with cores := s.cores.map f }

/-- A core's data cache takes a line; the oldest lines beyond its size go, dirty data to the L2 (log 9). -/
def State.fillL1 (s : State) (c : CoreId) (line : Nat) : State :=
  let l := (s.core c).l1d
  if alHas line l then s
  else
    let n := dataLines (Config.classOf s.member c)
    let all := (line, false) :: l
    (all.drop n).foldl (fun s x => if x.2 then s.recallL1 x.1 else s) (s.setCore c { s.core c with l1d := all.take n })

/-- Whether a core of a parish holds a line dirty. -/
def State.dirtyIn (s : State) (pp line : Nat) : Bool :=
  s.cores.any fun e => s.ppOf e.1 == pp && alGet false line e.2.l1d

/-- A store of a core to a line that its L2 owns: a C-core's L1 holds it dirty, and the parish's other L1s lose it; a V- or
T-core writes through, and no L1 of its parish keeps the line (R188, R484). -/
def State.storeL1 (s : State) (c : CoreId) (line : Nat) : State :=
  if Config.classOf s.member c = .C then
    let s := if alGet false line (s.core c).l1d then s else s.recallL1 line
    let s := (s.dropL1 (fun x => x != c && s.ppOf x == s.ppOf c) line).fillL1 c line
    { (s.setCore c { s.core c with l1d := alSet line true (s.core c).l1d }) with
      coh := { s.coh with inner := if alHas line s.coh.inner then s.coh.inner else (line, s.lineKept line) :: s.coh.inner } }
  else s.dropL1 (fun x => s.ppOf x == s.ppOf c) line

/-! ### The well caches (R19, R191, R204, R463) -/

/-- Lines of a sub-slice: an eighth of 48 MiB (R19). -/
def sliceLines : Nat := 49152

/-- Whether a third sub-slice of a W-die has retired: every access goes past its well cache (R463). -/
def State.pastWell (s : State) (w : Nat) : Bool :=
  decide (3 ≤ (s.retired.filter fun x => x.1 == .well && 8 + x.2 / 8 % 8 == w).length)

/-- The sub-slice of a line of HBM. -/
def State.sliceOf (s : State) (line : Nat) : Nat × Nat := (homeOf (line * 128), subSlice s.hashsel (line * 128))

/-- Lines leave the well caches, their dirty data written back to the memory array (R170, R204). -/
def State.wellKeep (s : State) (stays : Nat → Bool) : State :=
  { s with coh := { s.coh with
      well := s.coh.well.filter fun e => stays e.1
      dram := s.coh.dram.filter fun e => stays e.1 } }

/-- W.HASHSEL takes a value: a line that it places in another sub-slice is written back and leaves the well cache, so
that no sub-slice passes its size (R19, R204; log 83). -/
def State.setHash (s : State) (v : Word) : State :=
  { s.wellKeep (fun l => subSlice v (l * 128) == subSlice s.hashsel (l * 128)) with hashsel := v }

/-- The well cache of a line's home holds sectors of it; the oldest line of a full sub-slice goes to DRAM (R194;
log 7). -/
def State.wellPut (s : State) (line : Nat) (v : BitVec 4) : State :=
  if !lineInHbm line || s.pastWell (homeOf (line * 128)) then s
  else if alHas line s.coh.well then
    { s with coh := { s.coh with well := alSet line (alGet 0 line s.coh.well ||| v) s.coh.well } }
  else
    let mine := s.coh.well.filter fun e => s.sliceOf e.1 == s.sliceOf line
    let out := if mine.length < sliceLines then [] else (mine.take 1).map fun e => e.1
    { s with coh := { s.coh with
        well := (s.coh.well.filter fun e => !out.contains e.1) ++ [(line, v)]
        dram := s.coh.dram.filter fun e => !out.contains e.1 } }

/-- The well cache takes data of some sectors that differs from the memory array, which keeps what stood there (R170,
R194). -/
def State.noteWellDirty (s : State) (line : Nat) (v : BitVec 4) (old : Kept) : State :=
  if !lineInHbm line || s.pastWell (homeOf (line * 128)) then s
  else
    let s := s.wellPut line v
    if alHas line s.coh.dram then s
    else { s with coh := { s.coh with dram := (line, old) :: s.coh.dram } }

/-- A level-2 copy is about to become dirty: the home keeps what stood there. -/
def State.noteDirty (s : State) (line : Nat) : State :=
  if alHas line s.coh.below then s
  else { s with coh := { s.coh with below := (line, s.lineKept line) :: s.coh.below } }

/-- Dirty data above the home returns to it (R191, R171). -/
def State.writeBack (s : State) (line : Nat) : State :=
  let s := s.recallL1 line
  let s := if alHas line s.coh.below then s.noteWellDirty line 0b1111 (alGet Kept.none line s.coh.below) else s
  { s with
    coh := { s.coh with
      below := alDel line s.coh.below
      l2 := s.coh.l2.map fun (e : (Nat × Nat) × L2) => if e.1.2 = line then (e.1, { e.2 with dirty := false }) else e } }

/-- Drop every cached copy of a line, leaving the entry in state I. -/
def State.dropCopies (s : State) (line : Nat) : State :=
  { (s.dropL1 (fun _ => true) line) with coh := { s.coh with
      l2 := s.coh.l2.filter (fun e => e.1.2 != line)
      dir := if alHas line s.coh.dir then alSet line Dir.reset s.coh.dir else s.coh.dir } }

/-! ### Messages (R191, R192) -/

/-- The line that a protocol message is about. -/
def CohMsg.line : CohMsg → Nat
  | .inv _ l => l
  | .invAck _ l => l
  | .fwd _ l => l
  | .fwdData _ l => l
  | .data _ l _ _ => l
  | .complete _ l _ => l
  | .putAck _ l => l

/-- The parish end of a message. -/
def CohMsg.pp : CohMsg → Nat
  | .inv p _ => p
  | .invAck p _ => p
  | .fwd p _ => p
  | .fwdData p _ => p
  | .data p _ _ _ => p
  | .complete p _ _ => p
  | .putAck p _ => p

/-- Whether a parish stood on a die that is lost. -/
def State.partyLost (s : State) (pp : Nat) : Bool := s.lostDies.contains (s.dieOf pp)

/-- A message leaves; a link on its way that is not ACTIVE begins to wake, and holds it (R200). None goes to a lost die
(R465). -/
def State.send (s : State) (m : CohMsg) : State :=
  if s.partyLost m.pp then s
  else ({ s with coh := { s.coh with inflight := s.coh.inflight ++ [m] } } : State).wake (lineHome m.line) (s.dieOf m.pp)

/-- Whether the host holds a granule of a line (R449). -/
def State.snooped (s : State) (line : Nat) : Bool :=
  lineInHbm line && (s.coh.snoop.contains (2 * line) || s.coh.snoop.contains (2 * line + 1))

/-- Whether the HBM channel of a line changes its rate, and serves nothing: a line that the well cache holds does not ask
it (R467; log 69). -/
def State.switchingOn (s : State) (line : Nat) : Bool :=
  !s.switching.isEmpty && lineInHbm line && !alHas line s.coh.well &&
    s.switching.contains (homeOf (line * 128), Config.channelOf line % 64)

/-- Whether the home cannot begin a transaction on a line: one is in progress (R191), the host holds a granule of it and
must first answer BISnp (R449), or its channel serves nothing (R467). -/
def State.homeBusy (s : State) (line : Nat) : Bool := (s.coh.dirOf line).busy || s.snooped line || s.switchingOn line

/-- Whether a new request for the line waits: its home cannot begin, a message about it is on its way, or an eviction of
it is unanswered (R193). -/
def State.lineBusy (s : State) (line : Nat) : Bool :=
  s.homeBusy line ||
    (s.coh.inflight.any fun m => m.line == line) || s.coh.evict.any fun e => e.1.2 == line

/-- A transaction begins: the line is BUSY, and REQP names the requester (R189). -/
def State.begin (s : State) (t : Tx) (acks : Nat) : State :=
  { s with coh := { (s.coh.setDir t.line { s.coh.dirOf t.line with busy := true, ackcnt := acks, reqp := ptrCode t.pp }) with
      active := s.coh.active ++ [t] } }

/-- The parish that owns a line, of those that P0 names: the one that holds it, or still keeps it in its eviction
buffer (R190, R193). -/
def State.lineOwner (s : State) (line : Nat) : Option Nat :=
  (codeParishes s.member ((s.coh.dirOf line).ptrs.headD 0)).find? fun p =>
    alHas (p, line) s.coh.l2 || alHas (p, line) s.coh.evict

/-- The parish other than one that owns a line. -/
def State.otherOwner (s : State) (pp line : Nat) : Option Nat := (s.lineOwner line).filter fun q => q != pp

/-- The parishes that receive INV: those that the entry names, but for those that `skip` names and those of a lost die,
which count as having answered (R191, R465). -/
def State.invited (s : State) (line : Nat) (skip : Nat → Bool) : List Nat :=
  ((s.coh.dirOf line).named s.member).filter fun p => !skip p && !s.lostDies.contains (s.dieOf p)

/-! ### Room and limits (R24, R191, R195) -/

/-- Lines of a parish L2 (R24). -/
def l2Lines : CoreClass → Nat
  | .C => 131072
  | .V => 65536
  | .T => 32768

/-- Entries of a parish's miss-coalescing table (R195). -/
def missEntries : CoreClass → Nat
  | .C => 8192
  | .V => 65536
  | .T => 16384

/-- The class of the cores of a package parish. -/
def State.parishClass (s : State) (pp : Nat) : CoreClass := (Config.dieClass s.member (s.dieOf pp)).getD .C

/-- Misses that a core may have outstanding (R195). -/
def coreMisses : CoreClass → Nat
  | .C => 256
  | .V => 4096
  | .T => 1024

/-- Whether a parish has a miss outstanding at a home (R195). -/
def Tx.missOf (t : Tx) (pp : Nat) : Bool := t.pp == pp && match t.req with | .far _ _ => false | _ => true

/-- The core for which a parish makes a miss: the current one, in its own parish. -/
def State.missCore (s : State) (pp : Nat) : Option CoreId := if pp = s.pp then some s.here.core else none

/-- Whether the miss-coalescing table of a parish has no free entry, or the current core, of that parish, has all its
misses outstanding: at homes, or held by links (R195, R200). -/
def State.missesFull (s : State) (pp : Nat) : Bool :=
  let ts := (s.coh.active ++ s.coh.waiting).filter fun t => t.missOf pp
  let hs := s.reqHeld.filter fun x => x.1 == pp
  let own := (ts.filter fun t => t.core == some s.here.core).length + (hs.filter fun x => x.2.1 == some s.here.core).length
  decide (missEntries (s.parishClass pp) ≤ ts.length + (hs.map fun x => x.2.2).eraseDups.length) ||
    (pp == s.pp && decide (coreMisses (s.parishClass pp) ≤ own))

/-- A sleeping link holds a miss of a parish, which counts as outstanding, and wakes (R200). -/
def State.holdMiss (s : State) (pp line : Nat) : State :=
  let x := (pp, s.missCore pp, line)
  ({ s with reqHeld := if s.reqHeld.contains x then s.reqHeld else s.reqHeld ++ [x] } : State).wake (s.dieOf pp) (lineHome line)

/-- Held misses go on, or fail, once no sleeping link lies before them (R200). -/
def State.freeHeld (s : State) : State :=
  { s with reqHeld := s.reqHeld.filter fun x =>
      !s.reaches (s.dieOf x.1) (lineHome x.2.2) && !s.lostDies.contains (s.dieOf x.1) && !s.lostDies.contains (lineHome x.2.2) }

/-- A line leaves an L2 and the L1s above it, and the home handles the notice (R188, R191). -/
def State.evictWhole (s : State) (pp line : Nat) : State :=
  let owned := ((s.coh.l2Of pp line).map fun x => x.owned).getD false
  let s := (s.recallL1 line).dropL1 (fun c => s.ppOf c == pp) line
  let s := if owned then s.writeBack line else s
  let d := s.coh.dirOf line
  let d' := if owned then (if d.st == .O && d.records pp then Dir.reset else d) else d.puts pp
  { s with coh := (if alHas line s.coh.dir then s.coh.setDir line d' else s.coh).delL2 pp line }

/-- The line that a full L2 gives up: the oldest that it may evict now (R192, R193; log 7). -/
def State.victimLine (s : State) (pp : Nat) : Option Nat :=
  (s.coh.l2.find? fun e => e.1.1 == pp && !e.2.pendingOwn && !s.lineBusy e.1.2 &&
    s.reaches (s.dieOf pp) (lineHome e.1.2)).map fun e => e.1.2

/-- Lines that a parish L2 can hold now: a way that is disabled in a set holds none (R463; log 26). -/
def State.l2Room (s : State) (pp : Nat) : Nat :=
  l2Lines (s.parishClass pp) - (s.retired.filter fun x => x.1 == .l2 && wayParish x.2 == pp).length

/-- Lines of a parish L2. -/
def State.l2Count (s : State) (pp : Nat) : Nat := (s.coh.l2.filter fun e => e.1.1 == pp).length

/-- A parish L2 gives up lines, `n` at most, while it holds `limit` or more. -/
def State.shrink (s : State) (pp limit : Nat) : Nat → State
  | 0 => s
  | n + 1 =>
    if s.l2Count pp < limit then s
    else match s.victimLine pp with
      | some l => (s.evictWhole pp l).shrink pp limit n
      | none => s

/-- Room in a parish L2 for a line; none while nothing in it may go. -/
def State.makeRoom (s : State) (pp line : Nat) : Option State :=
  if alHas (pp, line) s.coh.l2 || decide (s.l2Count pp < s.l2Room pp) then some s
  else
    let t := s.shrink pp (s.l2Room pp) (s.l2Count pp - s.l2Room pp + 1)
    if t.l2Count pp < s.l2Room pp then some t else none

/-- A parish asks the home of a line: it waits for the links, for a transaction in progress, and for an entry in its
table; its L2 has room (R191, R195, R200). -/
def State.ask (s : State) (pp line : Nat) : Held :=
  if !s.reaches (s.dieOf pp) (lineHome line) then
    .error (if s.reqHeld.contains (pp, s.missCore pp, line) || !s.missesFull pp then s.holdMiss pp line else s)
  else if s.lineBusy line || s.missesFull pp then .error s
  else match s.makeRoom pp line with
    | some t => .ok t
    | none => .error s

/-- The home reaches parishes, or its messages to them wait for the links (R200). -/
def State.homeReaches (s : State) (line : Nat) (ps : List Nat) : Held :=
  match ps.find? fun p => !s.reaches (lineHome line) (s.dieOf p) with
  | some p => .error (s.wake (lineHome line) (s.dieOf p))
  | none => .ok s

/-! ### Whole transactions, as an access of a hart runs them -/

/-- Whether an L2 holds the sectors of a line. -/
def State.l2Holds (s : State) (pp line : Nat) (v : BitVec 4) : Bool :=
  match s.coh.l2Of pp line with
  | some x => x.valid &&& v == v
  | none => false

/-- The owner returns a line to the home and keeps a shared copy: state S, P0 the owner and P1 the requester (R191). -/
def State.shareOwned (s : State) (q pp line : Nat) : State :=
  let s := (s.writeBack line).wellPut line 0b1111
  let d : Dir := { Dir.reset with st := .S, ptrs := [ptrCode q, ptrCode pp] }
  { s with coh := (s.coh.setDir line d).setL2 q line { L2.reset with valid := wholeLine line } }

/-- A read by a parish: GETS run to its end (R191). -/
def State.cohRead (s : State) (pp line : Nat) : Held :=
  if s.l2Holds pp line (wholeLine line) then .ok s
  else
    (s.ask pp line).bind fun s =>
      let d := s.coh.dirOf line
      let hold (owned : Bool) : L2 := { L2.reset with owned := owned, valid := wholeLine line }
      match d.st, s.otherOwner pp line with
      | .S, _ =>
        let s := s.wellPut line 0b1111
        .ok { s with coh := (s.coh.setDir line (d.addSharer pp)).setL2 pp line (hold false) }
      | .O, some q =>
        (s.homeReaches line [q]).bind fun s =>
          let s := s.shareOwned q pp line
          .ok { s with coh := s.coh.setL2 pp line (hold false) }
      | _, _ =>
        let s := s.wellPut line 0b1111
        .ok { s with coh := (s.coh.setDir line (Dir.owned pp)).setL2 pp line (hold true) }

/-- The invalidations of a write leave for the other copies, and the line is BUSY until all are acknowledged (R182,
R191, R192). -/
def State.sendInvs (s : State) (pp line : Nat) (ps : List Nat) : State :=
  ps.foldl (fun s p => s.send (.inv p line)) (s.begin { line := line, pp := pp, req := .upg, core := some s.here.core } ps.length)

/-- An L2 holds a line in an owned state, dirty from a write on, and pending-own while invalidations are outstanding
(R182, R192). -/
def State.ownLine (s : State) (pp line : Nat) (write pend : Bool) : State :=
  let s := if write then s.noteDirty line else s
  let x : L2 :=
    { L2.reset with owned := true, dirty := write || alHas line s.coh.below, pendingOwn := pend, valid := wholeLine line }
  { s with coh := s.coh.setL2 pp line x }

/-- GETX, or UPG of a sharer (R191, R482). -/
def State.cohGain (s : State) (pp line : Nat) (write : Bool) : Held :=
  (s.ask pp line).bind fun s =>
    match (s.coh.dirOf line).st, s.otherOwner pp line with
    | .S, _ =>
      let ps := s.invited line fun p => p == pp
      (s.homeReaches line ps).bind fun s =>
        let s := s.wellPut line 0b1111
        if ps.isEmpty then .ok ((s.setDir line (Dir.owned pp)).ownLine pp line write false)
        else .ok ((s.sendInvs pp line ps).ownLine pp line write true)
    | .O, some q =>
      (s.homeReaches line [q]).bind fun s =>
        let s := (s.recallL1 line).dropL1 (fun c => s.ppOf c == q) line
        .ok (({ s with coh := (s.coh.setDir line (Dir.owned pp)).delL2 q line } : State).ownLine pp line write false)
    | _, _ => .ok (((s.wellPut line 0b1111).setDir line (Dir.owned pp)).ownLine pp line write false)

/-- The line is obtained by a parish in an owned state, for a write or a near atomic, which makes it dirty
when it writes (R191, R158). -/
def State.cohObtain (s : State) (pp line : Nat) (write : Bool) : Held :=
  match s.coh.l2Of pp line with
  | some x => if x.owned then .ok (s.ownLine pp line write x.pendingOwn) else s.cohGain pp line write
  | none => s.cohGain pp line write

/-- A store by a core (R182, R188, R191). -/
def State.cohWrite (s : State) (c : CoreId) (line : Nat) : Held :=
  (s.cohObtain (s.ppOf c) line true).bind fun s => .ok (s.storeL1 c line)

/-- A load by a core, through its L1 (R188). -/
def State.cohLoad (s : State) (c : CoreId) (line : Nat) : Held :=
  if alHas line (s.core c).l1d then .ok s
  else (s.cohRead (s.ppOf c) line).bind fun s => .ok ((s.recallL1 line).fillL1 c line)

/-- A near atomic performs at the parish L2, which recalls the line from its L1s (R158, R188). -/
def State.cohAtomic (s : State) (pp line : Nat) (write : Bool) : Held :=
  (s.cohObtain pp line write).bind fun s => .ok ((s.recallL1 line).dropL1 (fun c => s.ppOf c == pp) line)

/-- A vector access performs at the parish L2, which first takes the line from every L1 of its parish (R284). -/
def State.bypassL1 (s : State) (line : Nat) : State := (s.recallL1 line).dropL1 (fun c => s.ppOf c == s.pp) line

/-- A write or an atomic at the home, as a far atomic acts on the directory: every copy goes, the sectors `v` come to
the well cache, which becomes dirty when bytes are written, and the entry is left in state I (R159, R194, R488). -/
def State.cohFar (s : State) (line : Nat) (v : BitVec 4) (write : Bool) : Held :=
  if s.lineBusy line then .error s
  else
    (s.homeReaches line (s.invited line fun _ => false)).bind fun s =>
      let s := s.writeBack line
      let s := if write then s.noteWellDirty line v (s.lineKept line) else s.wellPut line v
      .ok (s.dropCopies line)

/-- A write at the home (R488). -/
def State.cohHome (s : State) (line : Nat) : Held := s.cohFar line 0b1111 true

/-- A load of sectors of a sectored line registers the parish as a sharer of the whole line, and moves those sectors
alone (R194; log 53). -/
def State.cohSectorRead (s : State) (pp line : Nat) (v : BitVec 4) : Held :=
  if s.l2Holds pp line v then .ok s
  else
    (s.ask pp line).bind fun s =>
      let old := ((s.coh.l2Of pp line).map fun x => x.valid).getD 0
      let hold : L2 := { L2.reset with valid := old ||| v }
      match (s.coh.dirOf line).st, s.otherOwner pp line with
      | .O, some q =>
        (s.homeReaches line [q]).bind fun s =>
          let s := s.shareOwned q pp line
          .ok { s with coh := s.coh.setL2 pp line hold }
      | _, _ =>
        let s := s.wellPut line v
        let d := s.coh.dirOf line
        .ok { s with coh := (s.coh.setDir line { (d.addSharer pp) with st := .S }).setL2 pp line hold }

/-- A store to a sectored page: the home sends every recorded parish but the writer's away, takes the bytes, and is
left in state S with P0 the writer, whose L2 keeps the sectors that it holds (R191, R194). -/
def State.cohSectorWrite (s : State) (pp line : Nat) (v : BitVec 4) : Held :=
  if !s.reaches (s.dieOf pp) (lineHome line) then .error (s.wake (s.dieOf pp) (lineHome line))
  else if s.lineBusy line then .error s
  else
    (s.homeReaches line (s.invited line fun p => p == pp)).bind fun s =>
      let own := s.coh.l2Of pp line
      let s := s.writeBack line
      let s := (s.noteWellDirty line v (s.lineKept line)).dropCopies line
      let c := s.coh.setDir line { Dir.reset with st := .S, ptrs := [ptrCode pp] }
      .ok { s with coh := match own with
              | some x => c.setL2 pp line { L2.reset with valid := x.valid }
              | none => c }

/-! ### Maintenance (R170, R171) -/

/-- The point of a maintenance operation: the parish L2, the home, or the memory array (R170). -/
inductive Point where
  | parish | home | array
  deriving DecidableEq, Repr

/-- The point that a scope chooses (R170). -/
def scopePoint : Scope → Point
  | .hart => .parish
  | .core => .parish
  | .croft => .parish
  | .parish => .parish
  | .die => .home
  | .device => .home
  | .system => .array

/-- CLEAN of a hart of parish `pp` (R171). A home of CXL memory or of a peer window has no cache of its own, so that
its data goes on to the device or the peer. -/
def State.cleanLine (s : State) (pp line : Nat) : Point → State
  | .parish => if s.dirtyIn pp line then s.recallL1 line else s
  | .home => s.writeBack line
  | .array =>
    let s := s.writeBack line
    { s with coh := { s.coh with dram := alDel line s.coh.dram } }

/-- The copies above a point go. -/
def State.dropAbove (s : State) (pp line : Nat) : Point → State
  | .parish => (s.dropL1 (fun c => s.ppOf c == pp) line).dropCode (fun c => s.ppOf c == pp) fun l => l == line
  | .home => (s.dropCopies line).dropCode (fun _ => true) fun l => l == line
  | .array =>
    let s := (s.dropCopies line).dropCode (fun _ => true) fun l => l == line
    { s with coh := { s.coh with well := alDel line s.coh.well } }

/-- FLUSH (R171). -/
def State.flushLine (s : State) (pp line : Nat) (p : Point) : State := (s.cleanLine pp line p).dropAbove pp line p

/-- What a point holds of a line where a copy above it is dirty. -/
def State.heldAt (s : State) (pp line : Nat) : Point → Option Kept
  | .parish => if s.dirtyIn pp line then some (alGet Kept.none line s.coh.inner) else none
  | .home => if alHas line s.coh.below then some (alGet Kept.none line s.coh.below) else none
  | .array =>
    if alHas line s.coh.dram then some (alGet Kept.none line s.coh.dram)
    else if alHas line s.coh.below then some (alGet Kept.none line s.coh.below) else none

/-- The dirty data above a point is forgotten. -/
def State.forget (s : State) (pp line : Nat) : Point → State
  | .parish => if s.dirtyIn pp line then { s with coh := { s.coh with inner := alDel line s.coh.inner } } else s
  | .home => { s with coh := { s.coh with inner := alDel line s.coh.inner, below := alDel line s.coh.below } }
  | .array =>
    { s with coh := { s.coh with
        inner := alDel line s.coh.inner, below := alDel line s.coh.below, dram := alDel line s.coh.dram } }

/-- Memory reads as a point holds the line, and the copies above it are gone without being written back (R171). -/
def State.invalLine (s : State) (pp line : Nat) (p : Point) : State :=
  let s1 : State := match s.heldAt pp line p with
    | some k => s.putKept line k
    | none => s
  (s1.forget pp line p).dropAbove pp line p

end Sys2Proof.Machine
end

