-- ==== Sys2Proof/Machine/Access.lean ====
section
/-! DEFINITION. Addresses and access: the device register space's rights (R445, R489), translation (R206 to
R210), the checks of R147 in order, and reading and writing bytes with what poison, page migration, the caches and the
homes ask (R149, R214, R194). -/

namespace Sys2Proof.Machine

/-! ### Kinds of access -/

/-- What an access needs of its page (R208). -/
inductive Need where
  | exec | read | write | rmw
  deriving DecidableEq, Repr

/-- How an access behaves where kinds differ (R145, R285). -/
inductive Style where
  /-- LOAD, STORE and their like -/
  | plain
  /-- LOAD.ACQ and STORE.REL: natural alignment first -/
  | sync
  /-- WAITM: as `sync`, and device kind takes cause 0x06 -/
  | watch
  /-- atomics: as `watch` -/
  | atomic
  /-- vector and matrix elements: no alignment, device kind takes cause 0x06 -/
  | element
  /-- engine records and elements: no near window, device kind takes cause 0x06 (R425) -/
  | engine
  /-- QGATHER's elements: HBM or CXL memory, whose kind is looked at last (R438) -/
  | gather
  /-- the skip entry of MMAS: croft store alone (R340) -/
  | skip
  /-- instruction fetch -/
  | fetch
  /-- CLEAN, FLUSH, INVAL, PREFETCH: device kind has no effect -/
  | maint
  /-- KICK's store: a kick register alone (R421) -/
  | kick
  deriving DecidableEq, Repr

/-- An access as the checks of R147 see it: ACC of SY.TRAPCAUSE, the rights it needs, its style. -/
structure How where
  acc : BitVec 2
  need : Need
  style : Style
  deriving DecidableEq, Repr

def How.load : How := { acc := 1, need := .read, style := .plain }
def How.store : How := { acc := 2, need := .write, style := .plain }
def How.fetch : How := { acc := 0, need := .exec, style := .fetch }

/-- For whom an address is translated: a hart, or an engine with a captured context. -/
structure Who where
  level : Priv
  asid : BitVec 16
  ptroot : Word
  /-- what the page's CCID must be (R147 step 6, R435, R436) -/
  ccid : BitVec 8
  /-- SY.CCID of the hart, or as captured, for host memory (R448) -/
  host : BitVec 8
  agent : Agent
  /-- translations of the stream register that the access goes through (R210, R299) -/
  pages : List TlbEntry
  path : Path := .scalar
  deriving DecidableEq, Repr

/-- The current hart as the one who accesses. -/
def State.who (s : State) : Who :=
  { level := s.hart.status.priv, asid := s.hart.asid, ptroot := s.hart.ptroot, ccid := s.hart.ccid,
    host := s.hart.ccid, agent := .hart s.here, pages := [] }

/-- The die from which an agent's requests leave. -/
def Who.die (w : Who) : Nat :=
  match w.agent with
  | .hart p => p.core.die
  | .engine e => e.die

/-- A failed check: cause, the address reported, and PERM of the reeve's message (R147, R209, R212). -/
structure Bad where
  cause : BitVec 8
  addr : Word
  perm : Bool
  deriving DecidableEq, Repr

/-- Memory kinds (R145). -/
inductive Kind where
  | cached | sectored | device
  deriving DecidableEq, Repr

/-- The answer of an access. -/
inductive Got (α : Type) where
  /-- performed -/
  | done (x : α) (s : State)
  /-- a check failed -/
  | bad (b : Bad)
  /-- the access waits, in the state given: a line is BUSY (R191), or a link wakes (R200) -/
  | busy (s : State)
  deriving Repr

/-- A checked part of an access that lies in one page. -/
structure Piece where
  va : Nat
  n : Nat
  pa : Nat
  region : Region
  kind : Kind
  leaf : Option TlbEntry
  deriving DecidableEq, Repr

/-! ### The device register space (R445, R489) -/

/-- The engine hart of a kick register slot, when the member has it (R416, R418, R456). -/
def kickSlot (off : Nat) : Option EngineId :=
  let i := (off - 0x20000) / 8
  let e : EngineId := { die := i / 128, parish := i / 32 % 4, core := i % 32 }
  if off < 0x20000 ∨ 0x24000 ≤ off ∨ off % 8 ≠ 0 then none
  else
    let ok : Bool :=
      match e.parish with
      | 0 => (e.die == 0 && decide (e.core < 8)) || (decide (1 ≤ e.die ∧ e.die ≤ 4) && decide (e.core < 4))
      | 1 => decide (8 ≤ e.die ∧ e.die ≤ 15) && decide (e.core < 16)
      | 2 => e.die == 0 && decide (e.core < 4)
      | _ => e.die == 0 && decide (e.core < 8)
    if ok then some e else none

/-- Whether a device-space address is populated and reached by this level and need (R445). -/
def devAllows (off : Nat) (level : Priv) (need : Need) : Bool :=
  let firm := level == .firm
  let rw := need == .read || need == .write
  if off < 0x1080 then firm && rw
  else if 0x20000 ≤ off ∧ off < 0x24000 then (kickSlot (off / 8 * 8)).isSome && need == .read
  else if 0x30000 ≤ off ∧ off < 0x31000 then firm && rw
  else if 0x40000 ≤ off ∧ off < 0x40800 then firm && rw
  else if 0x50000 ≤ off ∧ off < 0x50200 then firm && rw
  else if 0x60000 ≤ off ∧ off < 0x60080 then (firm && rw) || (level == .super && need == .read)
  else if 0x70000 ≤ off ∧ off < 0x90000 then firm && rw
  else if 0x100000 ≤ off ∧ off < 0x110000 then firm && (need == .read || need == .exec)
  else false

/-- Whether an access of `n` bytes at a device-space offset is made as R489 asks; the boot ROM's words are
no registers, and a fetch reads them whatever its size (log 18). -/
def devShape (off n : Nat) : Bool := (decide (0x100000 ≤ off ∧ off < 0x110000)) || (n == 8 && off % 8 == 0)

/-! ### What an access reaches -/

/-- Whether the die behind an address is lost (R465). -/
def State.dieGone (s : State) (pa : Nat) (r : Region) : Bool := s.lostDies.contains (State.homeDie pa r)

/-- What a physical address reaches for one agent: an extent that is being removed is there for a request that was
issued before (R149, R452). -/
def State.regionFor (s : State) (w : Who) (pa : Nat) : Region :=
  match s.region pa, s.coveredBy pa, w.agent with
  | .none, some e, .hart p =>
    if inCxl pa && e.2.remove && s.cxlHeld.contains { place := p, path := w.path, ext := e.1, line := lineOf pa } then .cxl e.1
    else .none
  | r, _, _ => r

/-- Whether a request to an address is lost: its die is (R465), its extent is being removed (R452), or a peer does not
respond (R454). -/
def State.isLost (s : State) (w : Who) (pa : Nat) (r : Region) : Bool :=
  s.dieGone pa r ||
    (match r with
     | .cxl i => (alGet RangeEntry.reset i s.ranges).remove
     | .peer _ => s.timeout == some w.agent
     | _ => false)

/-- The parish to which the home forwards a read by an agent that holds no copy (R488). -/
def State.forwardTo (s : State) (line : Nat) : List Nat := if (s.coh.dirOf line).st = .O then (s.lineOwner line).toList else []

/-- A read at the home by an agent that holds no copy: an owner returns its data and keeps its copy and its state
(R488). -/
def State.homeRead (s : State) (die line : Nat) : Held :=
  if !s.reaches die (lineHome line) then .error (s.wake die (lineHome line))
  else if s.lineBusy line then .error s
  else s.homeReaches line (s.forwardTo line)

/-- The migration entry of the page that holds an address (R214). -/
def State.migOf (s : State) (pa : Nat) : Option Migration := s.migs.find? fun m => m.old == pa / 65536 * 65536

/-- Where a store to a line that a migration has copied is performed too: in the new page (R214). -/
def State.mirrorOf (s : State) (pa : Nat) : Option Nat :=
  match s.migOf pa with
  | some g => if g.bits.getLsbD (pa % 65536 / 128) then some (g.new + pa % 65536) else none
  | none => none

/-- The lines of the new page that take what is stored to a line of the old one (R214); none whose home is lost can (log
44). -/
def State.mirrorLines (s : State) (line : Nat) : List Nat :=
  match s.mirrorOf (lineAddr line) with
  | some a => (linesOf a (lineSize line)).filter fun l => !s.lostDies.contains (lineHome l)
  | none => []

/-- The home of the old page passes a store on to that of the new one, and the store is performed once both have it
(R214): it waits for the second as for the first. -/
def State.touchMirror (s : State) (line : Nat) : Held :=
  (s.mirrorLines line).foldl (fun (o : Held) l => o.bind fun s =>
    if !s.reaches (lineHome line) (lineHome l) then .error (s.wake (lineHome line) (lineHome l)) else s.cohHome l) (.ok s)

/-- A write or an atomic that goes from a die to the home, and brings the sectors `v` to the well cache (R158, R159, R194,
R488). -/
def State.farFrom (s : State) (die line : Nat) (v : BitVec 4) (write : Bool) : Held :=
  if !s.reaches die (lineHome line) then .error (s.wake die (lineHome line))
  else (if write then s.touchMirror line else .ok s).bind fun s => s.cohFar line v write

/-! ### Translation (R206, R207, R210) -/

/-- Whether a table may stand at a physical address (R207). -/
def Region.holdsTable : Region → Bool
  | .hbm => true
  | .cxl _ => true
  | _ => false

/-- A walk that fails (R207). -/
def walkBad (va : Nat) : Bad := { cause := 0x05, addr := BitVec.ofNat 64 va, perm := false }

/-- A copy in an L2 that holds a store which is not yet performed at DEVICE (R182, R194). -/
def L2.pending (x : L2) : Bool := x.pendingOwn || !x.ahead.isEmpty

/-- Whether a line holds a store, of whatever parish, that is not yet performed at DEVICE (R182, R194). -/
def State.storePending (s : State) (line : Nat) : Bool := s.coh.l2.any fun e => e.1.2 == line && e.2.pending

/-- Whether the walker's update of the PTE at an address was on its way for a hart, and is held (R200, R209). -/
def State.updateHeld (s : State) (w : Who) (a : Nat) : Bool :=
  match w.agent with
  | .hart p => s.updHeld.contains (p, w.path, a)
  | .engine _ => false

/-- A PTE read (R207): a load at DEVICE scope, by a hart through its parish L2 (R215), by an engine at the home (R488).
A poisoned sector fails it, in the L2 as at the home (R149). Where an update of the PTE was on its way, it is the update
that fails (R209). The state after a walk that fails is the state before it (log 54). -/
def State.readPte (s : State) (w : Who) (va a : Nat) : Got Word :=
  let walkBad (va : Nat) : Bad := { walkBad va with perm := s.updateHeld w a }
  let r := s.region a
  let line := lineOf a
  let answer (h : Held) : Got Word :=
    match h with
    | .ok s => .done (BitVec.ofNat 64 (s.memNum a 8)) s
    | .error s => .busy s
  if !r.holdsTable then .bad (walkBad va)
  else
    match w.agent with
    | .hart p =>
      if s.poison.contains (a / 32) then .bad (walkBad va)
      else if s.storePending line then .busy s
      else if s.l2Holds (s.ppOf p.core) line (wholeLine line) then answer (.ok s)
      else if s.dieGone a r then .bad (walkBad va)
      else answer (s.cohRead (s.ppOf p.core) line)
    | .engine e =>
      if s.dieGone a r || s.poison.contains (a / 32) then .bad (walkBad va)
      else if s.storePending line then .busy s
      else answer (s.homeRead e.die line)

/-- What a PTE says at level `level`: a fault, the next table, or a leaf (R206, R207). -/
def pteLeaf (asid : BitVec 16) (va level a : Nat) (pte : Word) : Except Nat (Option TlbEntry) :=
  if pte.getLsbD 0 == false || pte.extractLsb' 60 4 != 0 then .ok none
  else if pte.extractLsb' 1 3 == 0 then
    if level = 4 || pte.extractLsb' 52 8 != 0 || pte.extractLsb' 1 12 != 0 then .ok none
    else .error ((pte.extractLsb' 13 39).toNat * 8192)
  else
    let span := 16 + 10 * (4 - level)
    if level = 1 || pte.extractLsb' 1 2 == 0b10 || pte.extractLsb' 8 2 == 0b11 || pte.extractLsb' 10 6 != 0 then .ok none
    else if pte.toNat / 2 ^ 16 % 2 ^ (span - 16) != 0 then .ok none
    else .ok (some { page := va / 2 ^ span, span := span, asid := asid, global := pte.getLsbD 5, pte := pte, pteAddr := a })

/-- The walk from level `level` down, with `fuel` levels left (R207). -/
def State.walkFrom (s : State) (w : Who) (va : Nat) : Nat → Nat → Nat → Got TlbEntry
  | 0, _, _ => .bad (walkBad va)
  | fuel + 1, level, table =>
    let a := table + (va / 2 ^ (56 - 10 * level)) % 1024 * 8
    match s.readPte w va a with
    | .bad b => .bad b
    | .busy t => .busy t
    | .done pte t =>
      match pteLeaf w.asid va level a pte with
      | .ok none => .bad (walkBad va)
      | .ok (some e) => .done e t
      | .error next => t.walkFrom w va fuel (level + 1) next

/-- The page-table walk of a virtual address (R207). -/
def State.walk (s : State) (w : Who) (va : Nat) : Got TlbEntry :=
  s.walkFrom w va 4 1 ((w.ptroot.extractLsb' 13 39).toNat * 8192)

/-- Whether a TLB entry matches (R210). -/
def TlbEntry.hits (e : TlbEntry) (asid : BitVec 16) (va : Nat) : Bool :=
  e.page == va / 2 ^ e.span && (e.global || e.asid == asid)

/-- The TLBs that an agent looks into: its core's, its parish's and its stream register's, or an engine's own (R210,
R424). -/
def State.tlbOf (s : State) (w : Who) : List TlbEntry :=
  match w.agent with
  | .hart p => (s.core p.core).tlb ++ (s.parish (s.ppOf p.core)).tlb ++ w.pages
  | .engine e => alGet [] e s.engTlb

/-- The bits of a leaf that the walker sets for an access: A, and D for a store or atomic (R209). -/
def How.marks (h : How) : Word :=
  if (h.need = .write ∨ h.need = .rmw) ∧ h.style ≠ .maint then 0xC0 else 0x40

/-- The leaf for an address: a TLB entry that has the bits that the access needs, or a walk (R209, R210). -/
def State.lookup (s : State) (w : Who) (h : How) (va : Nat) : Got TlbEntry :=
  match (s.tlbOf w).find? fun e => e.hits w.asid va with
  | some e => if e.pte &&& h.marks = h.marks then .done e s else s.walk w va
  | none => s.walk w va

/-- Put an entry in front of a TLB, dropping older entries of the page and the oldest beyond its size (log 7). -/
def fillTlb (n : Nat) (t : List TlbEntry) (e : TlbEntry) : List TlbEntry :=
  (e :: t.filter fun x => !(x.page == e.page && x.span == e.span && x.asid == e.asid)).take n

/-- The TLBs take a leaf: a core's and its parish's, or an engine's (R210, R424). -/
def State.fill (s : State) (w : Who) (e : TlbEntry) : State :=
  match w.agent with
  | .engine g => { s with engTlb := alSet g (fillTlb 128 (alGet [] g s.engTlb) e) s.engTlb }
  | .hart p =>
    let s := s.setCore p.core { s.core p.core with tlb := fillTlb 128 (s.core p.core).tlb e }
    let pp := s.ppOf p.core
    s.setParish pp { s.parish pp with tlb := fillTlb 8192 (s.parish pp).tlb e }

/-- The physical address that a leaf gives (R207). -/
def TlbEntry.pa (e : TlbEntry) (va : Nat) : Nat :=
  (e.pte.extractLsb' 0 52).toNat / 2 ^ e.span * 2 ^ e.span + va % 2 ^ e.span

/-- KIND of a leaf (R206). -/
def leafKind (pte : Word) : Kind :=
  match (pte.extractLsb' 8 2).toNat with
  | 0 => .cached
  | 1 => .sectored
  | _ => .device

/-- Whether a leaf permits an access (R208). -/
def leafPermits (pte : Word) (level : Priv) (need : Need) : Bool :=
  let ta := pte.getLsbD 4
  let taOk := level != .task || ta
  match need with
  | .exec => pte.getLsbD 3 && (match level with | .task => ta | _ => !ta)
  | .read => pte.getLsbD 1 && taOk
  | .write => pte.getLsbD 2 && taOk
  | .rmw => pte.getLsbD 1 && pte.getLsbD 2 && taOk

/-- First address of the near window (R43). -/
def nearBase : Nat := 0xFFFFFFFFFC0000

/-- Cut `n` bytes at `va` into the parts of the 64 KiB pages they touch. -/
def pagesOf (va n : Nat) : List (Nat × Nat) :=
  let first := Nat.min n (65536 - va % 65536)
  if first = n then [(va, n)] else [(va, first), ((va + first) % 2 ^ 64, n - first)]

/-- The memory kind of an access: the device register space is of device kind, croft store follows its own rules
whatever maps it, and elsewhere the leaf governs, or at FIRM the range (R145). -/
def kindOf (r : Region) (leaf : Option Word) : Kind :=
  match r with
  | .dev _ => .device
  | .croft _ => .cached
  | _ => match leaf with | some pte => leafKind pte | none => .cached

/-- A part of an access whose physical address is known. -/
def State.pieceAt (s : State) (w : Who) (p : Nat × Nat) (pa : Nat) (leaf : Option TlbEntry) : Piece :=
  let r := if pa < 2 ^ 52 then s.regionFor w pa else .none
  { va := p.1, n := p.2, pa := pa, region := r, kind := kindOf r (leaf.map fun e => e.pte), leaf := leaf }

/-- The near window: the croft store of a T-core's own (R43). -/
def State.nearPiece (s : State) (w : Who) (p : Nat × Nat) : Piece :=
  let nowhere : Piece := { va := p.1, n := p.2, pa := 0, region := .none, kind := .cached, leaf := none }
  match w.agent with
  | .hart q =>
    if Config.classOf s.member q.core = .T then
      { nowhere with pa := croftAlias q.core + (p.1 - nearBase), region := .croft q.core }
    else nowhere
  | .engine _ => nowhere

/-- Step 3 of R147 for one page: where it lies, or cause 0x05. A part beyond 56 bits has no translation (R39; log
55). -/
def State.locate (s : State) (w : Who) (h : How) (p : Nat × Nat) : Got Piece :=
  if w.level = .firm then .done (s.pieceAt w p p.1 none) s
  else if 2 ^ 56 ≤ p.1 then .bad (walkBad p.1)
  else if nearBase ≤ p.1 then .done (s.nearPiece w p) s
  else
    match s.lookup w h p.1 with
    | .bad b => .bad b
    | .busy t => .busy t
    | .done e t => .done (t.pieceAt w p (e.pa p.1) (some e)) t

/-- Whether a part lies in the near window. -/
def Piece.isNear (p : Piece) (w : Who) : Bool := p.leaf.isNone && w.level != .firm

/-- Whether a style of access may go to device-kind memory outside the device register space (R145, R285, R425). -/
def Style.takesDevice : Style → Bool
  | .watch => false
  | .atomic => false
  | .element => false
  | .engine => false
  | _ => true

/-- Whether a part's place is one that the style of access reaches (R145, R285, R340, R421, R425, R438, R445, R489). -/
def Piece.reachable (p : Piece) (w : Who) (h : How) : Bool :=
  match p.region, h.style with
  | .none, _ => false
  | .dev off, .plain => devAllows off w.level h.need && devShape off p.n
  | .dev off, .sync => devAllows off w.level h.need && devShape off p.n
  | .dev off, .fetch => devAllows off w.level .exec
  | .dev off, .maint => devAllows off w.level h.need
  -- a populated kick register, on a page that is of device kind whatever its leaf says (R145)
  | .dev off, .kick => (kickSlot off).isSome
  | .dev _, _ => false
  | _, .kick => false
  | .croft _, .engine => !p.isNear w
  | .croft _, _ => true
  | _, .skip => false
  | _, st => p.kind != .device || st.takesDevice

/-- Step 4 of R147 for one part: permission, reserved ranges, the device space, and the kinds that name
cause 0x06. No leaf governs FIRM's physical addresses or the near window (R43, R117). -/
def Piece.allowed (p : Piece) (w : Who) (h : How) : Bool :=
  (match p.leaf with
   | some e => leafPermits e.pte w.level h.need
   | none => true) && p.reachable w h

/-- Step 6 of R147 for one part: the page's CCID, and host memory behind a function (R448). -/
def State.ccidOk (s : State) (w : Who) (p : Piece) : Bool :=
  (match p.leaf with
   | some e => e.pte.extractLsb' 52 8 == w.ccid
   | none => true) &&
  (match p.region with
   | .cxl i =>
     let e := alGet RangeEntry.reset i s.ranges
     if w.host = 0 ∨ e.type ≠ 0 then true
     else
       let f := alGet Func.reset e.func.toNat s.funcs
       f.state == .run && f.ide && f.ccid == w.host
   | _ => true)

/-- Whether an access needs a request beyond its parish for a line: not for one that its L2 holds as it asks, nor for a
fetch that its instruction cache serves. -/
def State.asks (s : State) (w : Who) (h : How) (p : Piece) (l : Nat) : Bool :=
  match w.agent with
  | .engine _ => true
  | .hart q =>
    if !p.region.cacheable || p.kind == .device then true
    else
      !((h.style == .fetch && alHas l (s.core q.core).l1i) ||
        match s.coh.l2Of (s.ppOf q.core) l with
        | some x => if h.need = .write ∨ h.need = .rmw then x.owned && p.kind == .cached
                    else x.valid &&& sectorBits l p.pa p.n == sectorBits l p.pa p.n
        | none => false)

/-- Whether a request for some line of a part is lost (R148, R149). -/
def State.pieceLost (s : State) (w : Who) (h : How) (p : Piece) : Bool :=
  (linesOf p.pa p.n).any fun l => s.isLost w (Nat.max p.pa (lineAddr l)) p.region && s.asks w h p l

/-- Whether a fetch is served by the core's instruction cache (R165). -/
def State.fetchHit (s : State) (w : Who) (h : How) (p : Piece) : Bool :=
  match h.style, w.agent with
  | .fetch, .hart q =>
    p.region.cacheable && p.kind == .cached && (linesOf p.pa p.n).all fun l => alHas l (s.core q.core).l1i
  | _, _ => false

/-- Step 7 of R147 for one part: poison that a read meets, and a request that is lost. Maintenance returns no data
(R171). -/
def State.dataOk (s : State) (w : Who) (h : How) (p : Piece) : Bool :=
  !s.pieceLost w h p &&
  (match h.need, h.style with
   | .write, _ => true
   | _, .maint => true
   | _, _ => s.fetchHit w h p || !((sectorsOf p.pa p.n).any fun x => s.poison.contains x))

/-- Whether the address has natural alignment for `n` bytes (R145). -/
def natural (va n : Nat) : Bool := n ≤ 1 || va % n == 0

/-- First part that fails a check, with the cause given. -/
def firstBad (ok : Piece → Bool) (cause : BitVec 8) : List Piece → Option Bad
  | [] => none
  | p :: t => if ok p then firstBad ok cause t else some { cause := cause, addr := BitVec.ofNat 64 p.va, perm := false }

/-- Locate every page, in ascending order (R147 step 3). -/
def State.locateAll (s : State) (w : Who) (h : How) : List (Nat × Nat) → Got (List Piece)
  | [] => .done [] s
  | p :: t =>
    match s.locate w h p with
    | .bad b => .bad b
    | .busy u => .busy u
    | .done x u =>
      match u.locateAll w h t with
      | .bad b => .bad b
      | .busy v => .busy v
      | .done xs v => .done (x :: xs) v

/-- The second write of bytes of lines that a page migration has copied already: they reach the new page too (R214). -/
def mirrorBytes (cell : Nat → Nat) (migs : List Migration) (m : List Host.Cell) (pa : Nat) : List Byte → List Host.Cell
  | [] => m
  | x :: xs =>
    let m1 := match migs.find? fun g => g.old == pa / 65536 * 65536 with
      | some g => if g.bits.getLsbD (pa % 65536 / 128) then writeByte m (cell (g.new + pa % 65536)) x else m
      | none => m
    mirrorBytes cell migs m1 (pa + 1) xs

/-- Memory after a store of bytes at a physical address, in the old page and, where a migration has copied their line,
in the new one (R214). `cell` says where memory holds a byte. -/
def storeMem (cell : Nat → Nat) (migs : List Migration) (m : List Host.Cell) (pa : Nat) (bs : List Byte) : List Host.Cell :=
  if migs.isEmpty then writeBytes m (cell pa) bs else mirrorBytes cell migs (writeBytes m (cell pa) bs) pa bs

/-- Clear the poison of the sectors that a write covers whole (R149). -/
def State.unpoison (s : State) (pa n : Nat) : State :=
  if s.poison.isEmpty then s
  else { s with poison := s.poison.filter fun x => !(decide (pa ≤ x * 32) && decide (x * 32 + 32 ≤ pa + n)) }

/-- The whole sectors of a mirrored store lose their poison in the new page too (R149, R214). -/
def State.unpoisonMirror (s : State) (pa n : Nat) : State :=
  if s.migs.isEmpty then s
  else
    (linesOf pa n).foldl (fun s l =>
      let a := Nat.max pa (lineAddr l)
      match s.mirrorOf a with
      | some a' => s.unpoison a' (Nat.min (pa + n) (lineAddr l + lineSize l) - a)
      | none => s) s

/-- Write bytes at a physical address (R214). -/
def State.putBytes (s : State) (pa : Nat) (bs : List Byte) : State :=
  (({ s with mem := storeMem s.cell s.migs s.mem pa bs } : State).unpoison pa bs.length).unpoisonMirror pa bs.length

/-- A walker's update of a PTE for a hart is on its way, and is held (R200, R209). -/
def State.holdUpdate (s : State) (w : Who) (a : Nat) : State :=
  match w.agent with
  | .hart p => if s.updHeld.contains (p, w.path, a) then s else { s with updHeld := s.updHeld ++ [(p, w.path, a)] }
  | .engine _ => s

/-- The walker's update of A, and of D for a store or atomic (R209): an atomic OR at the home of the leaf's PTE, of
which the TLBs take the bits. It fails when it cannot be performed. -/
def State.markPte (s : State) (w : Who) (h : How) (p : Piece) : Got Unit :=
  match p.leaf with
  | none => .done () s
  | some e =>
    let r := s.region e.pteAddr
    let pte := e.pte ||| h.marks
    if e.pte &&& h.marks = h.marks then .done () (s.fill w e)
    else if !r.holdsTable || s.dieGone e.pteAddr r || s.poison.contains (e.pteAddr / 32) then
      .bad { cause := 0x05, addr := BitVec.ofNat 64 p.va, perm := true }
    else
      match s.farFrom w.die (lineOf e.pteAddr) 0b1111 true with
      | .error t => .busy (t.holdUpdate w e.pteAddr)
      | .ok t => .done () ((t.putBytes e.pteAddr (bytesOf 8 pte.toNat)).fill w { e with pte := pte })

def State.markAll (s : State) (w : Who) (h : How) : List Piece → Got Unit
  | [] => .done () s
  | p :: t =>
    match s.markPte w h p with
    | .bad b => .bad b
    | .busy u => .busy u
    | .done _ u => u.markAll w h t

/-- Steps 1 to 6 of R147, in order, for `n` bytes at `va`; the state that follows holds the A and D updates, the TLB
entries and what the walks moved (R207, R209, R210). The updates come last: one that fails is reported where no numbered
check fails before the data is looked at (log 70). -/
def State.checkMap (s : State) (w : Who) (h : How) (va : Word) (n : Nat) : Got (List Piece) :=
  let bad (c : BitVec 8) : Bad := { cause := c, addr := va, perm := false }
  if va.extractLsb' 56 8 ≠ 0 then .bad (bad 0x05)
  else if (h.style = .sync ∨ h.style = .watch ∨ h.style = .atomic) ∧ natural va.toNat n = false then .bad (bad 0x04)
  else
    match s.locateAll w h (pagesOf va.toNat n) with
    | .bad b => .bad b
    | .busy t => .busy t
    | .done ps t =>
      match firstBad (fun p => p.allowed w h) 0x06 ps with
      | some b => .bad b
      | none =>
        if (h.style = .plain ∨ h.style = .sync) ∧ ps.any (fun p => p.kind == .device) ∧ natural va.toNat n = false then
          .bad (bad 0x04)
        else
          match firstBad (t.ccidOk w) 0x10 ps with
          | some b => .bad b
          | none =>
            match t.markAll w h ps with
            | .bad b => .bad b
            | .busy u => .busy u
            | .done _ u => .done ps u

/-- Where a failure of step 7 is reported: at the access, or, for elements of vectors, matrices and engines, at the
lowest address in the failing page (R147, R286, R337, R426). -/
def Style.perPage : Style → Bool
  | .element => true
  | .engine => true
  | .gather => true
  | .skip => true
  | _ => false

/-- The checks of R147, in order: steps 1 to 6, and then poison and lost requests. -/
def State.check (s : State) (w : Who) (h : How) (va : Word) (n : Nat) : Got (List Piece) :=
  match s.checkMap w h va n with
  | .bad b => .bad b
  | .busy t => .busy t
  | .done ps t =>
    match firstBad (t.dataOk w h) 0x0D ps with
    | some b => .bad (if h.style.perPage then b else { b with addr := va })
    | none => .done ps t

/-! ### Performing -/

/-- A request from one die reaches another, or its links wake (R200). -/
def State.reachDie (s : State) (src dst : Nat) : Held := if s.reaches src dst then .ok s else .error (s.wake src dst)

/-- The current hart's access to a part is held: one to a CXL extent counts as issued (R149, R452). A fetch, the access of
the instruction that it fetches, and those of the two queues stand apart. -/
def State.heldOn (s : State) (p : Piece) (y : Path := .scalar) : State :=
  match p.region with
  | .cxl i =>
    let rs := (linesOf p.pa p.n).map fun l => ({ place := s.here, path := y, ext := i, line := l } : CxlReq)
    { s with cxlHeld := s.cxlHeld ++ rs.filter fun r => !s.cxlHeld.contains r }
  | _ => s

/-- A fetch of a hart that was held has ended (R149). -/
def State.fetchEnded (s : State) (p : Place) : State := s.unheldOn p (· == .fetch)

/-- What an access from a die to one part asks of caches and homes: `f` line by line for memory, and the links for the
rest. -/
def State.visit (s : State) (die : Nat) (p : Piece) (f : State → Nat → Held) : Held :=
  match p.region with
  | .none => .ok s
  | .croft c => s.reachDie die c.die
  | .dev _ => s.reachDie die 0
  | _ => (linesOf p.pa p.n).foldl (fun (o : Held) l => o.bind fun s => f s l) (.ok s)

/-- What an access of the current hart to one part asks of caches and homes. -/
def State.touch (s : State) (p : Piece) (f : State → Nat → Held) (y : Path := .scalar) : Held :=
  match s.visit s.here.core.die p f with
  | .ok t => .ok t
  | .error t => .error (t.heldOn p y)

/-- The sectors of a line that an access to a part moves: those that it touches, of sectored memory, and otherwise the
line (R194). -/
def Piece.sectors (p : Piece) (line : Nat) : BitVec 4 := if p.kind = .sectored then sectorBits line p.pa p.n else 0b1111


/-- A read of one line by the current hart (R188, R194, R284). -/
def State.readLine (s : State) (y : Path) (p : Piece) (l : Nat) : Held :=
  match p.kind, y with
  | .cached, .scalar => s.cohLoad s.here.core l
  | .cached, _ => (s.cohRead s.pp l).bind fun s => .ok (s.bypassL1 l)
  | .sectored, _ => s.cohSectorRead s.pp l (sectorBits l p.pa p.n)
  | .device, _ => s.homeRead s.here.core.die l

/-- A write of one line by the current hart (R188, R194, R284), and of its copy in a page under migration (R214). -/
def State.writeLine (s : State) (y : Path) (p : Piece) (l : Nat) : Held :=
  match p.kind, y with
  | .cached, .scalar => (s.touchMirror l).bind fun s => s.cohWrite s.here.core l
  | .cached, _ => (s.touchMirror l).bind fun s => (s.cohObtain s.pp l true).bind fun s => .ok (s.bypassL1 l)
  | .sectored, _ => (s.touchMirror l).bind fun s => s.cohSectorWrite s.pp l (p.sectors l)
  | .device, _ => s.farFrom s.here.core.die l 0b1111 true

/-- What the caches and homes do for a read of one part by the current hart. -/
def State.touchRead (s : State) (p : Piece) (y : Path := .scalar) : Held := s.touch p (fun s l => s.readLine y p l) y

/-- What the caches and homes do for a write of one part by the current hart. -/
def State.touchWrite (s : State) (p : Piece) (y : Path := .scalar) : Held := s.touch p (fun s l => s.writeLine y p l) y

/-- An access has gone all the way: a scalar one is held no more. Those of the queues end with their convoy or their
instruction. -/
def State.accessed (s : State) (y : Path) : State := if y = .scalar then s.unheldOn s.here (· == .scalar) else s

def State.touchReads (s : State) (ps : List Piece) (y : Path := .scalar) : Held :=
  match ps with
  | [] => .ok (s.accessed y)
  | p :: t => (s.touchRead p y).bind fun s => s.touchReads t y

def State.touchWrites (s : State) (ps : List Piece) (y : Path := .scalar) : Held :=
  match ps with
  | [] => .ok (s.accessed y)
  | p :: t => (s.touchWrite p y).bind fun s => s.touchWrites t y

/-- Bytes at an address with what a sectored store has put into the parish L2 ahead of the home (R194). -/
def overlay (pa : Nat) (bs : List Byte) (x : Nat × List Byte) : List Byte :=
  bs.mapIdx fun i b => if x.1 ≤ pa + i ∧ pa + i < x.1 + x.2.length then x.2.getD (pa + i - x.1) b else b

/-- The bytes at a physical address as the current hart's parish sees them. -/
def State.seenBytes (s : State) (pa n : Nat) : List Byte :=
  (s.coh.l2.flatMap fun e => if e.1.1 = s.pp then e.2.ahead else []).foldl (overlay pa) (s.memBytes pa n)

/-- The bytes of a checked access of an agent that holds no copy. -/
def State.getPieces (s : State) : List Piece → List Byte
  | [] => []
  | p :: t => s.memBytes p.pa p.n ++ s.getPieces t

/-- Write the bytes of a checked access. -/
def State.putPieces (s : State) : List Piece → List Byte → State
  | [], _ => s
  | p :: t, bs => (s.putBytes p.pa (bs.take p.n)).putPieces t (bs.drop p.n)

end Sys2Proof.Machine
end

