-- ==== Sys2Proof/Machine/Operands.lean ====
section
/-! DEFINITION. Operands of the scalar pipeline: general registers and mq as sources and destinations
(R51, R92 to R96, R136), the words of an open message (R403), and the check that the hart's core carries
an instruction's class (R85, R139, R142). -/

namespace Sys2Proof.Machine

/-! ### Results that a queue still owes (R96, R136) -/

/-- The general register that a queued vector instruction writes. -/
def VWork.writesG : VWork → Option GReg
  | .extract (.reg g) _ _ => some g
  | .mpopc (.reg g) _ => some g
  | .mfirst (.reg g) _ => some g
  | _ => none

/-- The general register that a queued matrix instruction writes. -/
def MWork.writesG : MWork → Option GReg
  | .attach (.reg g) _ => some g
  | _ => none

/-- The level at which a convoy was dispatched: that of its first member. -/
def Convoy.level (c : Convoy) : Priv :=
  match c.members with
  | m :: _ => m.level
  | [] => .task

/-- The convoys that instructions wait for: held work holds nothing younger than the stop, because it restarts
only after ERET (R267, R268, R271). -/
def Hart.liveConvoys (h : Hart) : List Convoy := h.vec.queue.filter fun c => !c.held

/-- The matrix instructions that instructions wait for, likewise (R327, R330). -/
def Hart.liveMats (h : Hart) : List MMember := h.mat.queue.filter fun m => !m.held

/-- The classes that the queued work of a hart needs on the core where it resumes (R142, R270). -/
def Hart.needs (h : Hart) : List Cls :=
  (if h.vec.queue.any fun c => c.members.any fun m => m.needsV then [.V]
   else if h.vec.queue.isEmpty then [] else [.E]) ++
  (if h.mat.queue.isEmpty then [] else [.M])

/-- Whether an older queued instruction writes the register: an instruction that reads it, or writes it,
waits (R96, R136). -/
def Hart.owed (h : Hart) (r : GReg) : Bool :=
  (h.liveConvoys.any fun c => c.members.any fun m => m.work.writesG == some r) ||
    h.liveMats.any fun m => m.work.writesG == some r

/-! ### Sources (R51, R93) -/

/-- How many fields name mq. -/
def mqCount (rs : List GReg) : Nat := (rs.filter fun r => r == 31).length

/-- The value of a source field whose instruction read the fields `before` it (R51): the next arriving word
when it names mq. -/
def Hart.src (h : Hart) (before : List GReg) (r : GReg) : Word :=
  if r = 31 then h.words.getD (mqCount before) 0 else h.readG r

/-- The words that an instruction's sources popped leave the arrival queue (R93, R404). -/
def Hart.pop (h : Hart) (n : Nat) : Hart :=
  if n = 0 then h
  else { h with words := h.words.drop n, wordsHere := Nat.min h.wordsHere (h.words.length - n) }

def State.pop (s : State) (srcs : List GReg) : State := { s with hart := s.hart.pop (mqCount srcs) }

/-! ### The open message (R94, R403) -/

/-- Words in the departure buffer of a core: the messages that departed, and the positions taken in the
open messages of its harts (R402, R403). -/
def State.departUsed (s : State) (c : CoreId) : Nat :=
  (s.core c).depart.foldl (fun n m => n + m.words.length) 0 +
    ((s.places.filter fun p => p.core == c).foldl (fun n p =>
      n + (match (s.hartAt p).open' with | some m => m.taken | none => 0)) 0)

/-- SY.HID of the current hart. -/
def State.hid (s : State) : Word := hidOf s.member s.here s.hart.compute

/-- Set one position of a message's words. -/
def setWord : List (Option Word) → Nat → Word → List (Option Word)
  | [], _, _ => []
  | _ :: t, 0, v => some v :: t
  | x :: t, n + 1, v => x :: setWord t n v

/-- Fill a position of the open message; the message departs when every position holds its word (R403). -/
def State.fillWord (s : State) (pos : Nat) (v : Word) : State :=
  match s.hart.open' with
  | none => s
  | some m =>
    let ws := setWord m.words pos v
    if ws.all Option.isSome then
      let c := s.core s.here.core
      let msg : Msg := { dest := m.dest, hart := m.hart, words := ws.filterMap id, sender := s.hid, slot := none, reeve := false }
      { (s.setCore s.here.core { c with depart := c.depart ++ [msg] }) with hart := { s.hart with open' := none } }
    else { s with hart := { s.hart with open' := some { m with words := ws } } }

/-- Take the next position of the open message (R94). -/
def State.takePos (s : State) : Nat × State :=
  match s.hart.open' with
  | none => (0, s)
  | some m => (m.taken, { s with hart := { s.hart with open' := some { m with taken := m.taken + 1 } } })

/-- A push of one departing word (R94). -/
def State.push (s : State) (v : Word) : State := let p := s.takePos; p.2.fillWord p.1 v

/-- Why a push cannot be made now (R94, R403): no message is open (cause 0x0B), every position of the open
message is taken and it has not departed, or the departure buffer is full. -/
def State.pushBlocked (s : State) : Option State :=
  match s.hart.open' with
  | none => some (s.trap 0x0B 0)
  | some m => if m.words.length ≤ m.taken ∨ 64 ≤ s.departUsed s.here.core then some s.stall else none

/-! ### Issue -/

/-- What keeps an instruction of the scalar pipeline from issuing with these source and destination
registers: a register that a queue still owes, words that have not arrived, or a push that cannot be
made (R93, R94, R96, R403). `none` when it issues. -/
def State.blocked (s : State) (srcs : List GReg) (dst : GReg) : Option State :=
  if (dst :: srcs).any s.hart.owed then some s.stall
  else if s.hart.words.length < mqCount srcs then some s.stall
  else if dst = 31 then s.pushBlocked
  else none

/-- Write a result: a general register, or a departing word; LDS follows (R92, R94, R96). -/
def State.setDest (s : State) (r : GReg) (v : Word) : State :=
  if r = 31 then s.push v else { s with hart := (s.hart.writeG r v).noteDest r }

/-- Pop, write and retire. -/
def State.finish (s : State) (srcs : List GReg) (dst : GReg) (v : Word) (len : Nat) (k : Mix := .plain) : State :=
  ((s.pop srcs).setDest dst v).retire len k

/-- Pop and retire, for an instruction that names no general destination. -/
def State.finishNone (s : State) (srcs : List GReg) (len : Nat) (k : Mix := .plain) : State :=
  (s.pop srcs).retire len k

/-- An instruction with one source. -/
def State.op1 (s : State) (len : Nat) (a b : GReg) (f : Word → Word) : Out State :=
  match s.blocked [b] a with
  | some t => .next t
  | none => .next (s.finish [b] a (f (s.hart.src [] b)) len)

/-- An instruction with two sources, read in the order B, C (R51). -/
def State.op2 (s : State) (len : Nat) (a b c : GReg) (f : Word → Word → Word) : Out State :=
  match s.blocked [b, c] a with
  | some t => .next t
  | none => .next (s.finish [b, c] a (f (s.hart.src [] b) (s.hart.src [b] c)) len)

/-- An instruction with three sources, read in the order B, C, A (R51). -/
def State.op3 (s : State) (len : Nat) (a b c : GReg) (f : Word → Word → Word → Word) : Out State :=
  match s.blocked [b, c, a] a with
  | some t => .next t
  | none =>
    .next (s.finish [b, c, a] a (f (s.hart.src [] b) (s.hart.src [b] c) (s.hart.src [b, c] a)) len)

/-! ### The feature class (R85 step 3) -/

/-- Whether some core class of the member can take a frame with these needs (R142). -/
def State.someCoreTakes (s : State) (needs : List Cls) (compute : Bool) : Bool :=
  [CoreClass.C, .V, .T].any fun k => Config.hasCore s.member k && canTake k needs compute

/-- Whether every instruction of the hart's queues has completed, held work included (R139 step 3, R270). -/
def Hart.queuesEmpty (h : Hart) : Bool := h.vec.queue.isEmpty && h.mat.queue.isEmpty

/-- Whether a message that the current hart sent has not reached its receiving core (R139 step 4). -/
def State.unsent (s : State) : Bool := (s.core s.here.core).depart.any fun m => m.sender == s.hid

/-- Whether the hart may leave now: R139 steps 3 and 4. -/
def State.canLeave (s : State) : Bool := s.hart.queuesEmpty && !s.unsent

/-- The migration trap of an instruction of class `c` with the encoding given (R4, R139, R142). One step is
the whole move; while older work is in the hart's queues, or a message of its has not arrived, it waits. -/
def State.migrationTrap (s : State) (c : Cls) (enc : Word) : State :=
  let compute := s.hart.compute || needsCompute c
  if !Config.memberHas s.member c then s.trap 0x01 enc
  else if s.hart.mixctl.getLsbD 63 then s.trap 0x02 enc
  else if s.hart.mat.grantRows ≠ 0 then s.trap 0x0A enc
  else if !s.canLeave then s.stall
  else if !s.someCoreTakes (c :: s.hart.needs) compute then s.trap 0x02 enc
  else s.carry (c :: s.hart.needs) compute

/-- Whether the current hart's core carries the class, in a context of the kind the class needs (R30, R31). -/
def State.carriesHere (s : State) (c : Cls) : Bool :=
  Config.carries s.cclass c && (!needsCompute c || s.hart.compute)

/-- Step 3 of R85: what happens to an instruction of class `c` that this hart cannot execute here. -/
def State.gate (s : State) (c : Cls) (enc : Word) : Option State :=
  if s.carriesHere c then none else some (s.migrationTrap c enc)

end Sys2Proof.Machine
end

