-- ==== Sys2Proof/Machine/Device.lean ====
section
/-! DEFINITION. The device register space (spec 14 R445, R489, R447, R450, R454; 12 R410, R411; 13 R418,
R433): what a load returns and what a store does, and the fault message to the reeve (06 R212). -/

namespace Sys2Proof.Machine

/-! ### Tables behind the registers -/

def State.rangeEntry (s : State) (i : Nat) : RangeEntry := alGet RangeEntry.reset i s.ranges
def State.setRange (s : State) (i : Nat) (e : RangeEntry) : State := { s with ranges := alSet i e s.ranges }
def State.func (s : State) (f : Nat) : Func := alGet Func.reset f s.funcs
def State.setFunc (s : State) (f : Nat) (x : Func) : State := { s with funcs := alSet f x s.funcs }
def State.keySlot (s : State) (k : Nat) : KeySlot := alGet KeySlot.reset k s.keys
def State.setKey (s : State) (k : Nat) (x : KeySlot) : State := { s with keys := alSet k x s.keys }
def State.kicks (s : State) (e : EngineId) : List EngReq := alGet [] e s.kickQ

/-- The words of a message-window slot and its POST register (R410). -/
def State.windowWord (s : State) (i : Nat) : Word := alGet 0 i s.window
def State.postReg (s : State) (slot : Nat) : BitVec 13 := alGet 0 slot s.posts

/-- LEN of a POST register: not 0 while the slot is busy (R410). -/
def postLen (p : BitVec 13) : Nat := (p.extractLsb' 0 6).toNat

/-- Code of a function's interface state (R447). -/
def tdispCode : Tdisp → Word
  | .unlocked => 0
  | .locked => 1
  | .run => 2
  | .error => 3

/-! ### The launch window (R410, R411) -/

/-- The place under which a launch slot sends: the sender identity of R409. -/
def slotPlace (slot : Nat) : CoreId := { die := 0, parish := 31, core := slot }

/-- SY.HID of a launch slot as the sender (R409). -/
def slotHid (slot : Nat) : Word :=
  (0#44 ++ 3#2 ++ 0#1 ++ 0#4 ++ 31#5 ++ BitVec.ofNat 5 slot ++ 0#3 : BitVec 64)

/-- A write of a POST register: a launch message departs from the slot, or the write is ignored (R411;
recovery: R459). -/
def State.writePost (s : State) (slot : Nat) (v : Word) : State :=
  let n := (v.extractLsb' 0 6).toNat
  if s.recovery || postLen (s.postReg slot) ≠ 0 || n = 0 || decide (32 < n) then s
  else
    let c := (v.extractLsb' 8 5).toNat
    let k := slotPlace slot
    let msg : Msg :=
      { dest := { die := 0, parish := c / 16, core := c % 16 }, hart := none
        words := (List.range n).map fun i => s.windowWord (slot * 32 + i)
        sender := slotHid slot, slot := some (BitVec.ofNat 4 slot), reeve := false }
    let s := { s with posts := alSet slot (v.extractLsb' 8 5 ++ 0#2 ++ v.extractLsb' 0 6 : BitVec 13) s.posts }
    s.setCore k { s.core k with depart := (s.core k).depart ++ [msg] }

/-! ### The host range table (R450, R452) -/

/-- The lines of an extent that some cache holds. -/
def State.extentLines (s : State) (e : RangeEntry) : List Nat :=
  (((s.coh.l2.map fun x => x.1.2) ++ s.cores.flatMap fun c => c.2.l1i.map fun x => x.1).filter fun l =>
    decide (halfBase ≤ l) && e.covers (lineAddr l)).eraseDups

/-- No transaction on a line is in progress any more. -/
def State.abandon (s : State) (line : Nat) : State :=
  { s with coh := { s.coh with
      dir := alDel line s.coh.dir
      inflight := s.coh.inflight.filter fun m => m.line != line
      active := s.coh.active.filter fun t => t.line != line
      waiting := s.coh.waiting.filter fun t => t.line != line } }

/-- REMOVE is written: the range is absent from here on, and its copies go without being written back (R452). -/
def State.removeExtent (s : State) (i : Nat) : State :=
  let e := s.rangeEntry i
  if e.valid then
    let s := (s.extentLines e).foldl (fun s l => (s.invalLine 0 l .array).abandon l) s
    s.setRange i { e with remove := true }
  else s

/-- A word of a range table entry (R450). -/
def RangeEntry.word (e : RangeEntry) : Nat → Word
  | 0 => (0#40 ++ e.func ++ e.type ++ 0#5 ++ BitVec.ofBool e.remove ++ BitVec.ofBool e.shared ++ BitVec.ofBool e.valid : BitVec 64)
  | 1 => e.base
  | 2 => e.size
  | _ => e.target

/-- A write of a word of a range table entry (R450, R452). -/
def State.writeRange (s : State) (i j : Nat) (v : Word) : State :=
  let e := s.rangeEntry i
  match j with
  | 0 =>
    if e.valid && e.type != v.extractLsb' 8 8 then s
    else
      let e1 := { e with
        valid := if e.remove then e.valid else v.getLsbD 0
        shared := v.getLsbD 1
        type := v.extractLsb' 8 8
        func := v.extractLsb' 16 8 }
      let s1 :=
        if e.valid && !e1.valid && !v.getLsbD 2 then (s.extentLines e).foldl (fun s l => s.flushLine 0 l .array) s else s
      let s2 := s1.setRange i (if e.valid && v.getLsbD 2 then { e1 with valid := e.valid } else e1)
      if v.getLsbD 2 then s2.removeExtent i else s2
  | 1 => if e.valid then s else s.setRange i { e with base := v }
  | 2 => if e.valid then s else s.setRange i { e with size := v }
  | _ => if e.valid then s else s.setRange i { e with target := v }

/-! ### Key slots (R433) -/

/-- Replace 64 bits of a key. -/
def setKeyWord (k : BitVec 256) (j : Nat) (v : Word) : BitVec 256 :=
  (k &&& ~~~((0xFFFFFFFFFFFFFFFF#256) <<< (64 * j))) ||| ((v.setWidth 256) <<< (64 * j))

/-- A write of a word of KEY clears VALID (R433). -/
def State.writeKeyWord (s : State) (k j : Nat) (v : Word) : State :=
  let x := s.keySlot k
  s.setKey k { x with key := setKeyWord x.key j v, valid := false }

/-- A write of a word of a key slot (R433). -/
def State.writeKey (s : State) (k j : Nat) (v : Word) : State :=
  let x := s.keySlot k
  match j with
  | 4 => s.setKey k { x with salt := v.extractLsb' 0 32, owner := v.extractLsb' 32 8, valid := v.getLsbD 40 }
  | 5 => s.setKey k { x with next := v }
  | 6 => s
  | 7 => s
  | _ => s.writeKeyWord k j v

/-- A read of a word of a key slot; KEY is write-only (R433). -/
def KeySlot.word (x : KeySlot) : Nat → Word
  | 4 => (0#23 ++ BitVec.ofBool x.valid ++ x.owner ++ x.salt : BitVec 64)
  | 5 => x.next
  | _ => 0

/-! ### Loads and stores of registers (R445) -/

/-- What an 8-byte load of a device register returns (R445). -/
def State.devRead (s : State) (off : Nat) : Word :=
  if off < 0x1000 then s.windowWord (off / 8)
  else if off < 0x1080 then (s.postReg ((off - 0x1000) / 8)).setWidth 64
  else if 0x20000 ≤ off ∧ off < 0x24000 then
    (match kickSlot off with | some e => BitVec.ofNat 64 (s.kicks e).length | none => 0)
  else if 0x30000 ≤ off ∧ off < 0x31000 then (s.keySlot ((off - 0x30000) / 64)).word (off % 64 / 8)
  else if 0x40000 ≤ off ∧ off < 0x40800 then (s.rangeEntry ((off - 0x40000) / 32)).word (off % 32 / 8)
  else if 0x50000 ≤ off ∧ off < 0x50200 then
    let f := s.func ((off - 0x50000) / 32)
    (match off % 32 / 8 with
     | 0 => tdispCode f.state ||| (ofBool f.ide <<< 8)
     | 1 => f.ccid.setWidth 64
     | _ => 0)
  else if 0x60000 ≤ off ∧ off < 0x60040 then s.present.extractLsb' ((off - 0x60000) * 8) 64
  else if off = 0x60040 then s.self
  else if 0x70000 ≤ off ∧ off < 0x90000 then alGet 0 ((off - 0x70000) / 8) s.endpoints
  else 0

/-- What an 8-byte store to a device register does (R445). -/
def State.devWrite (s : State) (off : Nat) (v : Word) : State :=
  if off < 0x1000 then
    -- the words of a busy slot are not written (R411)
    (if postLen (s.postReg (off / 256)) ≠ 0 then s else { s with window := alSet (off / 8) v s.window })
  else if off < 0x1080 then s.writePost ((off - 0x1000) / 8) v
  else if 0x30000 ≤ off ∧ off < 0x31000 then s.writeKey ((off - 0x30000) / 64) (off % 64 / 8) v
  else if 0x40000 ≤ off ∧ off < 0x40800 then s.writeRange ((off - 0x40000) / 32) (off % 32 / 8) v
  else if 0x50000 ≤ off ∧ off < 0x50200 then
    let i := (off - 0x50000) / 32
    let f := s.func i
    (if off % 32 / 8 = 1 ∧ f.state = .unlocked then s.setFunc i { f with ccid := v.extractLsb' 0 8 } else s)
  else if 0x60000 ≤ off ∧ off < 0x60040 then
    let k := (off - 0x60000) * 8
    { s with present := (s.present &&& ~~~((0xFFFFFFFFFFFFFFFF#512) <<< k)) ||| ((v.setWidth 512) <<< k) }
  else if off = 0x60040 then { s with self := v &&& 0x1FF }
  else if 0x70000 ≤ off ∧ off < 0x90000 then { s with endpoints := alSet ((off - 0x70000) / 8) v s.endpoints }
  else s

/-- The bytes that a checked read of the current hart returns: memory, or a device register. -/
def State.readPieces (s : State) : List Piece → List Byte
  | [] => []
  | p :: t =>
    (match p.region with
     | .dev off => if 0x100000 ≤ off then s.memBytes p.pa p.n else bytesOf 8 (s.devRead off).toNat
     | _ => s.seenBytes p.pa p.n) ++ s.readPieces t

/-- Write the bytes of a checked store: memory, or a device register. -/
def State.writePieces (s : State) : List Piece → List Byte → State
  | [], _ => s
  | p :: t, bs =>
    (match p.region with
     | .dev off => s.devWrite off (BitVec.ofNat 64 (numOf (bs.take p.n)))
     | _ => s.putBytes p.pa (bs.take p.n)).writePieces t (bs.drop p.n)

/-! ### A failed access (R126, R147, R212) -/

/-- Set bits of MAP below 32, ascending. -/
def mapBits (map : Word) : List Nat := (List.range 32).filter fun i => map.getLsbD i

/-- The core that serves the faults of core `c`: the (c mod n)-th set bit of MAP (R212). -/
def State.reeveOf (s : State) (c : CoreId) : CoreId :=
  let bs := mapBits (s.pdata (s.ppOf c)).reevemap
  { c with core := bs.getD (c.core % bs.length) 0 }

/-- The fault message departs to the reeve, and the hart sleeps on its reply register (R212). -/
def State.askReeve (s : State) (b : Bad) (acc : BitVec 2) (vec mat : Bool) : State :=
  let h := s.hart
  let c := s.here.core
  let w2 : Word := (h.taskId ++ h.asid ++ 0#3 ++ BitVec.ofBool b.perm ++ BitVec.ofBool vec ++ 0#1 ++ acc ++ 0#8 : BitVec 64)
  let msg : Msg :=
    { dest := s.reeveOf c, hart := none, words := [(s.pdata s.pp).reevevec, b.addr, w2, s.hid], sender := s.hid
      slot := none, reeve := true }
  { (s.setCore c { s.core c with depart := (s.core c).depart ++ [msg] }) with
    hart := { h.closeConvoy with wait := .asleep { addr := b.addr, acc := acc, vec := vec, mat := mat } } }

/-- Whether a failure of an access of a level goes to the parish reeve: at TASK, a failed translation of an address of
56 bits, when the parish has a reeve (R39, R147, R212). -/
def State.offered (s : State) (b : Bad) (level : Priv) : Bool :=
  b.cause == 0x05 && b.addr.extractLsb' 56 8 == 0 && level == .task && (s.pdata s.pp).reevemap != 0

/-- A failed check of the scalar pipeline: the reeve's, or a trap (R126, R212). Nothing was popped, and nothing was
changed. -/
def State.fail (s : State) (b : Bad) (acc : BitVec 2) : State :=
  if s.offered b s.hart.status.priv then s.askReeve b acc false false else s.trap b.cause b.addr acc

/-- As `fail`, for a fault of work of the vector or matrix queue that was dispatched at a level (R135). -/
def State.failVec (s : State) (b : Bad) (acc : BitVec 2) (mat : Bool) (level : Priv) : State :=
  if s.offered b level then s.askReeve b acc true mat else s.trapVec b.cause b.addr acc

end Sys2Proof.Machine
end

