-- ==== Sys2Proof/Machine/Fetch.lean ====
section
/-! DEFINITION. Fetching and decoding the instruction at the program counter (spec 02 R47, R84, R85). -/

namespace Sys2Proof.Machine

/-- What a fetch finds. -/
inductive Fetched where
  /-- an instruction, and the state after the fetch -/
  | code (d : Decoded) (s : State)
  /-- an encoding that is no instruction (R84) -/
  | illegal (enc : Word) (s : State)
  /-- a trap of the fetch (R47) -/
  | bad (b : Bad)
  /-- a line it needs is busy, or a link wakes -/
  | busy (s : State)
  deriving Repr

/-- A part of a fetch through the core's instruction cache: a line that it holds is read from there, whatever memory
holds by now, and any other line of cached memory is brought into it (R22, R165; log 10). -/
def State.fetchPiece (s : State) (p : Piece) : Got (List Byte) :=
  let c := s.here.core
  let line := lineOf p.pa
  if !p.region.cacheable || p.kind != .cached then
    match s.touch p (fun s l => s.readLine .scalar p l) .fetch with
    | .ok t => .done (t.readPieces [p]) (t.fetchEnded t.here)
    | .error t => .busy t
  else if alHas line (s.core c).l1i then
    .done (((alGet [] line (s.core c).l1i).drop (p.pa - lineAddr line)).take p.n) s
  else
    match s.touch p (fun s l => s.cohRead s.pp l) .fetch with
    | .error t => .busy t
    | .ok t =>
      let bs := t.seenBytes (lineAddr line) (lineSize line)
      let x := t.core c
      .done ((bs.drop (p.pa - lineAddr line)).take p.n)
        ((t.fetchEnded t.here).setCore c { x with l1i := ((line, bs) :: x.l1i).take (codeLines (Config.classOf t.member c)) })

/-- Fetch `n` halfwords from `va` up, each checked in turn, so that the lowest failing byte is reported (R47). -/
def State.fetchHalves (s : State) (va : Word) : Nat → Got (List Byte)
  | 0 => .done [] s
  | n + 1 =>
    match s.check { s.who with path := .fetch } How.fetch va 2 with
    | .bad b => .bad b
    | .busy t => .busy t
    | .done ps s1 =>
      match ps with
      | [p] =>
        (match s1.fetchPiece p with
         | .bad b => .bad b
         | .busy t => .busy t
         | .done b0 s2 =>
           match s2.fetchHalves (va + 2) n with
           | .done bs s3 => .done (b0 ++ bs) s3
           | .bad b => .bad b
           | .busy t => .busy t)
      -- a halfword at an even address lies in one page
      | _ => .busy s1

/-- The instruction at the pc (R47, R84). -/
def State.fetch (s : State) : Fetched :=
  let pc := s.hart.pc
  if pc.getLsbD 0 then .bad { cause := 0x04, addr := pc, perm := false }
  else
    match s.fetchHalves pc 1 with
    | .bad b => .bad b
    | .busy t => .busy t
    | .done b0 s1 =>
      let len := lengthOf (BitVec.ofNat 16 (numOf b0))
      match s1.fetchHalves (pc + 2) (len / 2 - 1) with
      | .bad b => .bad b
      | .busy t => .busy t
      | .done b1 s2 =>
        match decodeBytes (b0 ++ b1) with
        | .ok p => .code p.1 s2
        | .error (.illegal _ bits) => .illegal bits s2
        | .error .short => .illegal 0 s2

/-- The trap of a fetch (R47, R114, R212): at TASK a failed translation is offered to the reeve. -/
def State.fetchTrap (s : State) (b : Bad) : State := s.fail b 0

/-- FETCH_FAULT (R47): the fetch at the pc fails, and the hart takes its trap before anything is decoded. -/
def execFetchFault (s : State) : Out State :=
  match s.fetch with
  | .bad b => .next (s.fetchTrap b)
  | _ => .refused (.notEnabled "FETCH_FAULT")

/-- Store bytes where the fetch of the pc reads them, halfword by halfword. -/
def State.placeCode (s : State) (va : Word) : List Byte → State
  | a :: b :: t =>
    let s1 : State := match s.locate { s.who with path := .fetch } How.fetch (va.toNat, 2) with
      | .done p _ => { s with mem := writeBytes s.mem (s.cell p.pa) [a, b] }
      | _ => s
    s1.placeCode (va + 2) t
  | _ => s.freshFetch s.here.core

end Sys2Proof.Machine
end

