-- ==== Sys2Proof/Machine/Fp.lean ====
section
/-! DEFINITION. Floating-point arithmetic (spec 07 R216 to R225, R231 to R238): formats, exact values, one
rounding, and the operations on codes. A code and a value of a code are natural numbers here; registers
hold them as R219 says. -/

namespace Sys2Proof.Machine

/-! ### Formats (R216) -/

/-- How a format uses its top codes. -/
inductive FpKind where
  /-- infinities and NaNs at the largest exponent -/
  | ieee
  /-- NaN at the one code of all ones, no infinity -/
  | e4m3
  /-- neither -/
  | e2m1
  deriving DecidableEq, Repr

/-- A format with a sign: width of F, width of E, bias. -/
structure Fmt where
  fb : Nat
  eb : Nat
  bias : Nat
  kind : FpKind
  deriving DecidableEq, Repr

def Fmt.fp64 : Fmt := { fb := 52, eb := 11, bias := 1023, kind := .ieee }
def Fmt.fp32 : Fmt := { fb := 23, eb := 8, bias := 127, kind := .ieee }
def Fmt.fp16 : Fmt := { fb := 10, eb := 5, bias := 15, kind := .ieee }
def Fmt.bf16 : Fmt := { fb := 7, eb := 8, bias := 127, kind := .ieee }
def Fmt.e5m2 : Fmt := { fb := 2, eb := 5, bias := 15, kind := .ieee }
def Fmt.e4m3 : Fmt := { fb := 3, eb := 4, bias := 7, kind := .e4m3 }
def Fmt.e2m1 : Fmt := { fb := 1, eb := 2, bias := 1, kind := .e2m1 }

/-- Width in bits. -/
def Fmt.width (f : Fmt) : Nat := 1 + f.eb + f.fb
/-- The sign bit's weight. -/
def Fmt.signW (f : Fmt) : Nat := 2 ^ (f.eb + f.fb)
/-- The code of a magnitude with a sign. -/
def Fmt.signed (f : Fmt) (neg : Bool) (c : Nat) : Nat := if neg then f.signW + c else c
/-- The largest finite magnitude's code (R216). -/
def Fmt.maxCode (f : Fmt) : Nat :=
  match f.kind with
  | .ieee => (2 ^ f.eb - 1) * 2 ^ f.fb - 1
  | .e4m3 => 2 ^ (f.eb + f.fb) - 2
  | .e2m1 => 2 ^ (f.eb + f.fb) - 1
/-- The code of +∞ where the format has one. -/
def Fmt.infCode (f : Fmt) : Nat := (2 ^ f.eb - 1) * 2 ^ f.fb
/-- The canonical NaN (R218). e2m1 has none. -/
def Fmt.nanCode (f : Fmt) : Nat :=
  match f.kind with
  | .ieee => f.infCode + 2 ^ (f.fb - 1)
  | _ => 2 ^ (f.eb + f.fb) - 1
/-- The exponent of the smallest normal value. -/
def Fmt.emin (f : Fmt) : Int := 1 - (f.bias : Int)

/-! ### Values (R217, R218) -/

/-- (−1)^neg × (m + δ) × 2^e, where δ is 0, or lies strictly between 0 and 1 when `sticky`. -/
structure Ex where
  neg : Bool
  m : Nat
  e : Int
  sticky : Bool
  deriving DecidableEq, Repr

/-- The value of a code, or an exact result. -/
inductive FpNum where
  | nan (signalling : Bool)
  | inf (neg : Bool)
  | fin (x : Ex)
  deriving DecidableEq, Repr

def Ex.zero (neg : Bool) : Ex := { neg := neg, m := 0, e := 0, sticky := false }
def Ex.isZero (x : Ex) : Bool := x.m == 0 && !x.sticky
/-- An integer as a value. -/
def Ex.ofInt (i : Int) : Ex := { neg := decide (i < 0), m := i.natAbs, e := 0, sticky := false }

/-- `fp_value`: the value of a code (R217, R218). -/
def fpValue (f : Fmt) (c : Nat) : FpNum :=
  let neg := c / f.signW % 2 == 1
  let ex := c / 2 ^ f.fb % 2 ^ f.eb
  let fr := c % 2 ^ f.fb
  let top := ex == 2 ^ f.eb - 1
  if f.kind = .ieee ∧ top then (if fr = 0 then .inf neg else .nan (decide (fr < 2 ^ (f.fb - 1))))
  else if f.kind = .e4m3 ∧ top ∧ fr = 2 ^ f.fb - 1 then .nan false
  else if ex = 0 then .fin { neg := neg, m := fr, e := f.emin - (f.fb : Int), sticky := false }
  else .fin { neg := neg, m := 2 ^ f.fb + fr, e := (ex : Int) - (f.bias : Int) - (f.fb : Int), sticky := false }

def FpNum.isNan : FpNum → Bool
  | .nan _ => true
  | _ => false
def FpNum.isSnan : FpNum → Bool
  | .nan q => q
  | _ => false
/-- The value with its sign turned. -/
def FpNum.negate : FpNum → FpNum
  | .nan q => .nan q
  | .inf n => .inf (!n)
  | .fin x => .fin { x with neg := !x.neg }

/-! ### Flags (R224) -/

abbrev FFlags := BitVec 5
def fNV : FFlags := 16
def fDZ : FFlags := 8
def fOF : FFlags := 4
def fUF : FFlags := 2
def fNX : FFlags := 1

/-- A code with the flags that making it raised. -/
structure FRes where
  code : Nat
  flags : FFlags
  deriving DecidableEq, Repr

/-! ### Rounding (R220 to R223) -/

/-- The rounding modes, once SY.FRM has been read (R61). -/
inductive Mode where
  | rne | rtz | rup | rdn | rna | sr
  deriving DecidableEq, Repr

/-- A magnitude on a grid of multiples of 2^q: the multiple below or equal, whether the magnitude lies above
it, how its fraction compares with one half, and floor(2^32 × fraction). -/
structure Cut where
  lo : Nat
  inexact : Bool
  half : Ordering
  frac32 : Nat
  deriving DecidableEq, Repr

/-- Cut a magnitude at the grid of 2^q. -/
def Ex.cut (x : Ex) (q : Int) : Cut :=
  if q ≤ x.e then
    { lo := x.m * 2 ^ (x.e - q).toNat, inexact := x.sticky, half := .lt, frac32 := 0 }
  else
    let d := (q - x.e).toNat
    let r := x.m % 2 ^ d
    let h := 2 ^ (d - 1)
    { lo := x.m / 2 ^ d
      inexact := x.sticky || r != 0
      half := if r < h then .lt else if r = h ∧ x.sticky = false then .eq else .gt
      frac32 := r * 2 ^ 32 / 2 ^ d }

/-- Whether hi is chosen (R220). Where the two candidates are integers, for FRND and for integer destinations (R231, R237),
a tie under RNE goes to the even integer: R220 tells codes apart by their least significant bit (log 86). -/
def Cut.hi (c : Cut) (mode : Mode) (neg : Bool) (draw : Nat) : Bool :=
  c.inexact &&
  match mode with
  | .rne => c.half == .gt || (c.half == .eq && c.lo % 2 == 1)
  | .rna => c.half != .lt
  | .rtz => false
  | .rup => !neg
  | .rdn => neg
  | .sr => decide (draw < c.frac32)

/-- The multiple chosen. -/
def Cut.pick (c : Cut) (mode : Mode) (neg : Bool) (draw : Nat) : Nat := if c.hi mode neg draw then c.lo + 1 else c.lo

/-- floor(log2) of a magnitude that is not zero. -/
def Ex.top (x : Ex) : Int := (Nat.log2 x.m : Int) + x.e

/-- The code that R221 writes on overflow: infinity or the largest finite value. `true` stands for
infinity. -/
def overflowInf (mode : Mode) (neg choseHi exact : Bool) : Bool :=
  match mode with
  | .rne => true
  | .rna => true
  | .rtz => false
  | .rup => !neg
  | .rdn => neg
  | .sr => choseHi || exact

/-- What stands for an infinity that a finite value overflows to (R221, R238). -/
def Fmt.overflowCode (f : Fmt) (neg toInf sat : Bool) : Nat :=
  match f.kind with
  | .ieee => f.signed neg (if toInf && !sat then f.infCode else f.maxCode)
  | .e4m3 => f.signed neg (if toInf && !sat then f.nanCode else f.maxCode)
  | .e2m1 => f.signed neg f.maxCode

/-- `fp_round` of an exact finite value (R220 to R223, R238). -/
def fpRound (f : Fmt) (mode : Mode) (sat : Bool) (draw : Nat) (x : Ex) : FRes :=
  if x.isZero then { code := f.signed x.neg 0, flags := 0 }
  else
    let t := x.top
    let qmin := f.emin - (f.fb : Int)
    let q := max t f.emin - (f.fb : Int)
    let c := x.cut q
    let k := c.pick mode x.neg draw
    let mag := k + (q - qmin).toNat * 2 ^ f.fb
    if f.maxCode < mag then
      { code := f.overflowCode x.neg (overflowInf mode x.neg (c.hi mode x.neg draw) (!c.inexact)) sat
        flags := fOF ||| fNX }
    else
      let full := (x.cut (t - (f.fb : Int))).pick mode x.neg draw
      let tiny := decide (t < f.emin) && !(t == f.emin - 1 && full == 2 ^ (f.fb + 1))
      { code := f.signed x.neg mag
        flags := if c.inexact then (if tiny then fUF ||| fNX else fNX) else 0 }

/-- `fp_round` of a result: infinities and NaNs are not rounded (R220, R225). An infinity has no code in e4m3,
and its row of R238 gives the NaN of its sign with NV. DEDUCED, `notes/assumptions/33.md`. -/
def fpRoundNum (f : Fmt) (mode : Mode) (draw : Nat) : FpNum → FRes
  | .nan _ => { code := f.nanCode, flags := 0 }
  | .inf n => { code := f.overflowCode n true false, flags := if f.kind = .e4m3 then fNV else 0 }
  | .fin x => fpRound f mode false draw x

/-! ### Exact arithmetic (R225) -/

/-- The value as a signed multiple of 2^e, for an exponent not above its own. -/
def Ex.scaled (x : Ex) (e : Int) : Int :=
  let m : Int := (x.m * 2 ^ (x.e - e).toNat : Nat)
  if x.neg then -m else m

/-- The exact sum of two values without sticky parts. An exact zero takes its sign from R225. -/
def Ex.add (mode : Mode) (x y : Ex) : Ex :=
  let e := min x.e y.e
  let s := x.scaled e + y.scaled e
  if s = 0 then Ex.zero (if x.neg == y.neg then x.neg else mode == .rdn)
  else { neg := decide (s < 0), m := s.natAbs, e := e, sticky := false }

/-- The exact product. -/
def Ex.mul (x y : Ex) : Ex := { neg := x.neg != y.neg, m := x.m * y.m, e := x.e + y.e, sticky := false }

/-- The quotient to 192 bits beyond the divisor, with what remains as the sticky part. -/
def Ex.div (x y : Ex) : Ex :=
  let n := x.m * 2 ^ 192
  { neg := x.neg != y.neg, m := n / y.m, e := x.e - y.e - 192, sticky := n % y.m != 0 }

/-- The integer square root, by `k` bits from the top. -/
def isqrt : Nat → Nat → Nat → Nat
  | 0, _, r => r
  | k + 1, n, r => let r' := r + 2 ^ k; isqrt k n (if r' * r' ≤ n then r' else r)

/-- The square root to more than 100 bits, with what remains as the sticky part. -/
def Ex.sqrt (x : Ex) : Ex :=
  let odd := x.e % 2
  let n := x.m * 2 ^ odd.toNat * 2 ^ 256
  let r := isqrt (Nat.log2 n / 2 + 1) n 0
  { neg := false, m := r, e := (x.e - odd) / 2 - 128, sticky := r * r != n }

/-- A result before rounding, with the flags of its operands (R224). -/
structure Raw where
  num : FpNum
  flags : FFlags
  deriving DecidableEq, Repr

/-- NV for a signalling operand. -/
def snanFlag (b : Bool) : FFlags := if b then fNV else 0

/-- b + c (R224, R225). -/
def fpAddRaw (mode : Mode) (b c : FpNum) : Raw :=
  let nv := snanFlag (b.isSnan || c.isSnan)
  match b, c with
  | .nan _, _ => { num := .nan false, flags := nv }
  | _, .nan _ => { num := .nan false, flags := nv }
  | .inf x, .inf y => if x == y then { num := .inf x, flags := 0 } else { num := .nan false, flags := fNV }
  | .inf x, .fin _ => { num := .inf x, flags := 0 }
  | .fin _, .inf y => { num := .inf y, flags := 0 }
  | .fin x, .fin y => { num := .fin (Ex.add mode x y), flags := 0 }

/-- b × c (R224, R225). -/
def fpMulRaw (b c : FpNum) : Raw :=
  let nv := snanFlag (b.isSnan || c.isSnan)
  match b, c with
  | .nan _, _ => { num := .nan false, flags := nv }
  | _, .nan _ => { num := .nan false, flags := nv }
  | .inf x, .inf y => { num := .inf (x != y), flags := 0 }
  | .inf x, .fin y => if y.isZero then { num := .nan false, flags := fNV } else { num := .inf (x != y.neg), flags := 0 }
  | .fin x, .inf y => if x.isZero then { num := .nan false, flags := fNV } else { num := .inf (x.neg != y), flags := 0 }
  | .fin x, .fin y => { num := .fin (Ex.mul x y), flags := 0 }

/-- b / c (R224, R225). -/
def fpDivRaw (b c : FpNum) : Raw :=
  let nv := snanFlag (b.isSnan || c.isSnan)
  match b, c with
  | .nan _, _ => { num := .nan false, flags := nv }
  | _, .nan _ => { num := .nan false, flags := nv }
  | .inf _, .inf _ => { num := .nan false, flags := fNV }
  | .inf x, .fin y => { num := .inf (x != y.neg), flags := 0 }
  | .fin x, .inf y => { num := .fin (Ex.zero (x.neg != y)), flags := 0 }
  | .fin x, .fin y =>
    if y.isZero then
      (if x.isZero then { num := .nan false, flags := fNV } else { num := .inf (x.neg != y.neg), flags := fDZ })
    else if x.isZero then { num := .fin (Ex.zero (x.neg != y.neg)), flags := 0 }
    else { num := .fin (Ex.div x y), flags := 0 }

/-- √b (R224, R225). -/
def fpSqrtRaw (b : FpNum) : Raw :=
  match b with
  | .nan q => { num := .nan false, flags := snanFlag q }
  | .inf true => { num := .nan false, flags := fNV }
  | .inf false => { num := .inf false, flags := 0 }
  | .fin x =>
    if x.isZero then { num := .fin x, flags := 0 }
    else if x.neg then { num := .nan false, flags := fNV }
    else { num := .fin (Ex.sqrt x), flags := 0 }

/-- p + a with one product exact: the sum of b × c, its sign turned when `np`, and a, its sign turned when
`na` (R234). 0 × ∞ raises NV even beside a quiet NaN. -/
def fpFmaRaw (mode : Mode) (np na : Bool) (b c a : FpNum) : Raw :=
  let nv := snanFlag (b.isSnan || c.isSnan || a.isSnan)
  let p := fpMulRaw b c
  let pn := if np then p.num.negate else p.num
  let an := if na then a.negate else a
  let s := fpAddRaw mode pn an
  { num := s.num, flags := s.flags ||| p.flags ||| nv }

/-- Round a raw result. -/
def Raw.round (r : Raw) (f : Fmt) (mode : Mode) (draw : Nat) : FRes :=
  let x := fpRoundNum f mode draw r.num
  { x with flags := x.flags ||| r.flags }

def fpAdd (f : Fmt) (mode : Mode) (draw : Nat) (b c : Nat) : FRes :=
  (fpAddRaw mode (fpValue f b) (fpValue f c)).round f mode draw
def fpSub (f : Fmt) (mode : Mode) (draw : Nat) (b c : Nat) : FRes :=
  (fpAddRaw mode (fpValue f b) (fpValue f c).negate).round f mode draw
def fpMul (f : Fmt) (mode : Mode) (draw : Nat) (b c : Nat) : FRes :=
  (fpMulRaw (fpValue f b) (fpValue f c)).round f mode draw
def fpDiv (f : Fmt) (mode : Mode) (draw : Nat) (b c : Nat) : FRes :=
  (fpDivRaw (fpValue f b) (fpValue f c)).round f mode draw
def fpSqrt (f : Fmt) (mode : Mode) (draw : Nat) (b : Nat) : FRes := (fpSqrtRaw (fpValue f b)).round f mode draw
def fpFma (f : Fmt) (mode : Mode) (draw : Nat) (np na : Bool) (b c a : Nat) : FRes :=
  (fpFmaRaw mode np na (fpValue f b) (fpValue f c) (fpValue f a)).round f mode draw

/-! ### Comparison (R232, R233) -/

/-- Whether a finite value is below another. -/
def Ex.lt (x y : Ex) : Bool := let e := min x.e y.e; decide (x.scaled e < y.scaled e)
/-- Whether two finite values are equal; −0 equals +0. -/
def Ex.eqv (x y : Ex) : Bool := let e := min x.e y.e; decide (x.scaled e = y.scaled e)

/-- Order of two numbers that are not NaN. -/
def FpNum.lt : FpNum → FpNum → Bool
  | .inf x, .inf y => x && !y
  | .inf x, .fin _ => x
  | .fin _, .inf y => !y
  | .fin x, .fin y => x.lt y
  | _, _ => false

/-- Equality of two numbers that are not NaN. -/
def FpNum.eqv : FpNum → FpNum → Bool
  | .inf x, .inf y => x == y
  | .fin x, .fin y => x.eqv y
  | _, _ => false

/-- Relations that floating-point comparisons use. -/
inductive FpRel where
  | eq | ne | lt | le
  deriving DecidableEq, Repr

/-- Whether the relation holds, and the flags (R233). `ne` holds with a NaN and raises as `eq`. -/
def fpCompare (f : Fmt) (r : FpRel) (b c : Nat) : Bool × FFlags :=
  let x := fpValue f b
  let y := fpValue f c
  let nan := x.isNan || y.isNan
  let snan := x.isSnan || y.isSnan
  match r with
  | .eq => (!nan && x.eqv y, snanFlag snan)
  | .ne => (nan || !x.eqv y, snanFlag snan)
  | .lt => (!nan && x.lt y, snanFlag nan)
  | .le => (!nan && (x.lt y || x.eqv y), snanFlag nan)

/-- The sign bit of a code. -/
def Fmt.sign (f : Fmt) (c : Nat) : Bool := c / f.signW % 2 == 1

/-- FMIN and FMAX, −0 below +0 (R232). -/
def fpMinMax (f : Fmt) (isMax : Bool) (b c : Nat) : FRes :=
  let x := fpValue f b
  let y := fpValue f c
  let fl := snanFlag (x.isSnan || y.isSnan)
  match x.isNan, y.isNan with
  | true, true => { code := f.nanCode, flags := fl }
  | true, false => { code := c, flags := fl }
  | false, true => { code := b, flags := fl }
  | false, false =>
    let below := x.lt y || (x.eqv y && f.sign b && !f.sign c)
    { code := if below != isMax then b else c, flags := fl }

/-- FCLASS's word (R233). -/
def fpClass (f : Fmt) (c : Nat) : Nat :=
  let kind :=
    match fpValue f c with
    | .nan true => 5
    | .nan false => 4
    | .inf _ => 3
    | .fin x => if x.isZero then 0 else if c / 2 ^ f.fb % 2 ^ f.eb = 0 then 1 else 2
  kind + (if f.sign c then 8 else 0)

/-- FSGN: the bits of `b` with another sign (R231). -/
def fpSign (f : Fmt) (neg : Bool) (b : Nat) : Nat := f.signed neg (b % f.signW)

/-- FRND: rounded to an integral value (R231); a tie under RNE takes the even integer (log 86). -/
def fpIntegral (f : Fmt) (mode : Mode) (draw : Nat) (b : Nat) : FRes :=
  match fpValue f b with
  | .nan q => { code := f.nanCode, flags := snanFlag q }
  | .inf _ => { code := b, flags := 0 }
  | .fin x =>
    let c := x.cut 0
    if x.isZero || !c.inexact then { code := b, flags := 0 }
    else
      let k := c.pick mode x.neg draw
      { code := (fpRound f .rtz false 0 { neg := x.neg, m := k, e := 0, sticky := false }).code, flags := fNX }

/-! ### Conversions (R236 to R238) -/

/-- The signed formats of FCVT. -/
def cvtFp : CvtFmt → Option Fmt
  | .fp64 => some .fp64
  | .fp32 => some .fp32
  | .fp16 => some .fp16
  | .bf16 => some .bf16
  | .e4m3 => some .e4m3
  | .e5m2 => some .e5m2
  | .e2m1 => some .e2m1
  | _ => none

/-- The integer formats of FCVT: signed, and width. -/
def cvtInt : CvtFmt → Option (Bool × Nat)
  | .sint8 => some (true, 8)
  | .sint16 => some (true, 16)
  | .sint32 => some (true, 32)
  | .sint64 => some (true, 64)
  | .uint8 => some (false, 8)
  | .uint16 => some (false, 16)
  | .uint32 => some (false, 32)
  | .uint64 => some (false, 64)
  | _ => none

/-- The value of a conversion source (R236). The bits are those of the format's width. -/
def cvtValue (src : CvtFmt) (c : Nat) : FpNum :=
  match cvtFp src, cvtInt src with
  | some f, _ => fpValue f (c % 2 ^ f.width)
  | none, some (sg, w) =>
    let u := c % 2 ^ w
    .fin (Ex.ofInt (if sg && decide (2 ^ (w - 1) ≤ u) then (u : Int) - 2 ^ w else u))
  | none, none =>
    let u := c % 256
    if u = 255 then .nan false else .fin { neg := false, m := 1, e := (u : Int) - 127, sticky := false }

/-- Into a signed format (R236, R238). -/
def toFp (f : Fmt) (mode : Mode) (sat : Bool) (draw : Nat) : FpNum → FRes
  | .nan q =>
    match f.kind with
    | .e2m1 => { code := 0, flags := fNV }
    | _ => { code := f.nanCode, flags := snanFlag q }
  | .inf n =>
    match f.kind, sat with
    | .ieee, false => { code := f.signed n f.infCode, flags := 0 }
    | .e4m3, false => { code := f.signed n f.nanCode, flags := fNV }
    | .e2m1, false => { code := f.signed n f.maxCode, flags := fNV }
    | _, true => { code := f.signed n f.maxCode, flags := 0 }
  | .fin x => fpRound f mode sat draw x

/-- Into e8m0 (R238). -/
def toE8m0 (mode : Mode) (sat : Bool) (draw : Nat) : FpNum → FRes
  | .nan q => { code := 0xFF, flags := snanFlag q }
  | .inf n =>
    match sat, n with
    | true, false => { code := 0xFE, flags := 0 }
    | _, _ => { code := 0xFF, flags := fNV }
  | .fin x =>
    if x.isZero || x.neg then { code := 0xFF, flags := fNV }
    else
      let k := x.top
      let c := x.cut k
      let up :=
        match mode with
        | .rne => c.half != .lt
        | _ => c.hi mode false draw
      let k' := if c.inexact && up then k + 1 else k
      if 127 < k' then { code := if sat then 0xFE else 0xFF, flags := fOF ||| fNX }
      else if k' < -127 then { code := 0, flags := fUF ||| fNX }
      else { code := (k' + 127).toNat, flags := if c.inexact then fNX else 0 }

/-- Into an integer (R237, R238); a tie under RNE takes the even integer (log 86). The code has `w` bits. -/
def toInt (sg : Bool) (w : Nat) (mode : Mode) (sat : Bool) (draw : Nat) : FpNum → FRes
  | .nan _ => { code := 0, flags := fNV }
  | .inf n =>
    let lim : Int := if n then (if sg then -(2 ^ (w - 1)) else 0) else (if sg then 2 ^ (w - 1) - 1 else 2 ^ w - 1)
    { code := (lim % 2 ^ w).toNat, flags := if sat then fNX else fNV }
  | .fin x =>
    let c := x.cut 0
    let k : Int := (c.pick mode x.neg draw : Nat)
    let i := if x.neg then -k else k
    let lo : Int := if sg then -(2 ^ (w - 1)) else 0
    let hi : Int := if sg then 2 ^ (w - 1) - 1 else 2 ^ w - 1
    if i < lo then { code := (lo % 2 ^ w).toNat, flags := if sat then fNX else fNV }
    else if hi < i then { code := (hi % 2 ^ w).toNat, flags := if sat then fNX else fNV }
    else { code := (i % 2 ^ w).toNat, flags := if c.inexact then fNX else 0 }

/-- FCVT of a value into any format (R236 to R238). -/
def cvtTo (dst : CvtFmt) (mode : Mode) (sat : Bool) (draw : Nat) (x : FpNum) : FRes :=
  match cvtFp dst, cvtInt dst with
  | some f, _ => toFp f mode sat draw x
  | none, some (sg, w) => toInt sg w mode sat draw x
  | none, none => toE8m0 mode sat draw x

/-! ### The stochastic generator and the rounding mode (R61, R223) -/

/-- The state after a draw, which is also what the draw returns (R223). -/
def srNext (x : BitVec 32) : BitVec 32 :=
  let a := x ^^^ (x <<< 13)
  let b := a ^^^ (a >>> 17)
  b ^^^ (b <<< 5)

/-- The mode of SY.FRM (R61, R227). -/
def modeOfFrm (f : BitVec 3) : Mode :=
  match f.toNat with
  | 1 => .rtz
  | 2 => .rup
  | 3 => .rdn
  | 4 => .rna
  | 5 => .sr
  | _ => .rne

/-- The mode of a rounding field (R61). -/
def modeOf (rm : Rm) (frm : BitVec 3) : Mode :=
  match rm with
  | .rne => .rne
  | .rtz => .rtz
  | .rup => .rup
  | .rdn => .rdn
  | .rna => .rna
  | .sr => .sr
  | .dyn => modeOfFrm frm

end Sys2Proof.Machine
end

