-- ==== Sys2Proof/Machine/Flags.lean ====
section
/-! DEFINITION. The sticky flags of a hart and what raising them does (spec 07 R223, R224, R228, R229). -/

namespace Sys2Proof.Machine

/-- SY.FFLAGS takes the flags raised; nothing clears one (R224). -/
def Hart.raise (h : Hart) (f : FFlags) : Hart := { h with fflags := h.fflags ||| f }

/-- The raised flags that SY.FENABLE enables (R229). -/
def Hart.enabled (h : Hart) (f : FFlags) : FFlags := f &&& h.fenable

/-- The generator after an instruction whose rounding mode is the one given: one draw when it is stochastic
(R223). -/
def Hart.drawFor (h : Hart) (m : Mode) : Hart := if m = .sr then { h with seed := srNext h.seed } else h

/-- What the next draw returns (R223). -/
def Hart.nextDraw (h : Hart) : Nat := (srNext h.seed).toNat

/-- Whether a queued vector instruction may draw (R282). -/
def VMember.mayDraw (m : VMember) : Bool :=
  let sr : Bool := modeOfFrm m.frm == .sr
  match m.work with
  | .bin _ _ _ _ => sr
  | .fma _ _ _ _ => sr
  | .un _ _ _ => sr
  | .red _ _ _ _ => sr
  | .scan _ _ _ => sr
  | .cvt _ _ _ _ rm _ => modeOf rm m.frm == .sr
  | _ => false

/-- Whether an older queued instruction draws before a younger one of the scalar pipeline may (R223, R282). -/
def Hart.drawsAhead (h : Hart) : Bool := h.liveConvoys.any fun c => c.members.any VMember.mayDraw

/-- An instruction of class F: its class, its operands, the trap of an enabled flag, and otherwise its flags,
its draw and its result (R229). `rm` is its rounding field, where it has one. -/
def State.fpOp (s : State) (enc : Word) (srcs : List GReg) (a : GReg) (rm : Option Rm)
    (f : Mode → Nat → Word × FFlags) : Out State :=
  match s.gate .F enc with
  | some t => .next t
  | none =>
    match s.blocked srcs a with
    | some t => .next t
    | none =>
      let mode := modeOf (rm.getD .rne) s.hart.frm
      let r := f mode s.hart.nextDraw
      if mode = .sr && s.hart.drawsAhead then .next s.stall
      else if s.hart.enabled r.2 ≠ 0 then .next (s.trap 0x0C ((s.hart.enabled r.2).setWidth 64))
      else .next ((({ s with hart := (s.hart.drawFor mode).raise r.2 } : State).finish srcs a r.1 4 .f))

end Sys2Proof.Machine
end

