-- ==== Sys2Proof/Machine/Integer.lean ====
section
/-! DEFINITION. The integer instructions (spec 03): what each computes, and its meaning. -/

namespace Sys2Proof.Machine

/-! ### Helpers (R99, R100) -/

/-- Shift amounts taken from a register use bits 5:0 (R99). -/
def shamt (x : Word) : Nat := (x.extractLsb' 0 6).toNat

/-- Number of 0 bits above the highest 1 bit among 64 (R102). -/
def clz64 (x : Word) : Nat := if x = 0 then 64 else 63 - Nat.log2 x.toNat

/-- Number of 0 bits below the lowest 1 bit, at most `n`. -/
def trailingZeros : Nat → Nat → Nat
  | 0, _ => 0
  | n + 1, x => if x % 2 = 1 then 0 else 1 + trailingZeros n (x / 2)

/-- Number of 1 bits among the low `n`. -/
def onesIn : Nat → Nat → Nat
  | 0, _ => 0
  | n + 1, x => x % 2 + onesIn n (x / 2)

/-- `popcount` of R100. -/
def popcount (x : Word) : Nat := onesIn 64 x.toNat

/-- Bytes reversed (BSWAP). -/
def byteSwap (x : Word) : Word :=
  (x.extractLsb' 0 8 ++ x.extractLsb' 8 8 ++ x.extractLsb' 16 8 ++ x.extractLsb' 24 8 ++ x.extractLsb' 32 8 ++
    x.extractLsb' 40 8 ++ x.extractLsb' 48 8 ++ x.extractLsb' 56 8 : BitVec 64)

/-- `sign_extend(x, w)` of a word's low bits. -/
def signExt (w : Nat) (x : Word) : Word := (x.setWidth w).signExtend 64

/-- `zero_extend(x, w)` of a word's low bits. -/
def zeroExt (w : Nat) (x : Word) : Word := (x.setWidth w).setWidth 64

/-- `x << s`. -/
def shlW (x : Word) (s : Nat) : Word := x <<< s
/-- `u64(x) >> s`. -/
def shrW (x : Word) (s : Nat) : Word := x >>> s
/-- `s64(x) >> s`. -/
def sraW (x : Word) (s : Nat) : Word := x.sshiftRight s
/-- ROR by `s`, 0 to 63 (R102). -/
def rorW (x : Word) (s : Nat) : Word := x >>> s ||| x <<< (64 - s)
/-- ROL by `s`, 0 to 63 (R102). -/
def rolW (x : Word) (s : Nat) : Word := x <<< s ||| x >>> (64 - s)

/-- DIV (R103). -/
def divW (a b : Word) : Word :=
  if b = 0 then (if 0 ≤ s64 a then 0x7FFFFFFFFFFFFFFF else 0x8000000000000000)
  else BitVec.ofInt 64 (Int.tdiv (s64 a) (s64 b))

/-- DIVU (R103). -/
def divuW (a b : Word) : Word := if b = 0 then 0xFFFFFFFFFFFFFFFF else BitVec.ofNat 64 (u64 a / u64 b)

/-- REM (R103). -/
def remW (a b : Word) : Word := if b = 0 then a else BitVec.ofInt 64 (Int.tmod (s64 a) (s64 b))

/-- REMU (R103). -/
def remuW (a b : Word) : Word := if b = 0 then a else BitVec.ofNat 64 (u64 a % u64 b)

/-- BFX (R104). -/
def bfxW (a c : Word) : Word :=
  let pos := (c.extractLsb' 0 6).toNat
  let wid := (c.extractLsb' 8 6).toNat + 1
  let f := BitVec.ofNat 64 (u64 a / 2 ^ pos % 2 ^ wid)
  if c.getLsbD 16 then signExt wid f else f

/-- BFI (R104). -/
def bfiW (a c d : Word) : Word :=
  let pos := (c.extractLsb' 0 6).toNat
  let wid := (c.extractLsb' 8 6).toNat + 1
  let mask : Word := BitVec.ofNat 64 ((2 ^ wid - 1) * 2 ^ pos)
  (d &&& ~~~mask) ||| (shlW a pos &&& mask)

/-- The width of SEXT and ZEXT (R63). -/
def extBits : ExtW → Nat
  | .b => 8
  | .h => 16
  | .w => 32

/-- An immediate of the I format, sign-extended (R53). -/
def imm14 (i : BitVec 14) : Word := i.signExtend 64
/-- A 32-bit immediate of the long form, sign-extended (R56). -/
def imm32 (i : BitVec 32) : Word := i.signExtend 64
/-- The U value (R53). -/
def immU (i : BitVec 19) : Word := (i ++ 0#13 : BitVec 32).signExtend 64

/-- 1 when sa < sb, else 0 (SLT). -/
def sltW (a b : Word) : Word := if s64 a < s64 b then 1 else 0
/-- 1 when a < b, else 0 (SLTU). -/
def sltuW (a b : Word) : Word := if u64 a < u64 b then 1 else 0

/-! ### INT.R (R101, R102) -/

/-- ADD (R102). -/
def execAdd (a b c : GReg) (s : State) : Out State := s.op2 4 a b c fun x y => x + y

/-- SUB (R102). -/
def execSub (a b c : GReg) (s : State) : Out State := s.op2 4 a b c fun x y => x - y

/-- AND (R102). -/
def execAnd (a b c : GReg) (s : State) : Out State := s.op2 4 a b c fun x y => x &&& y

/-- OR (R102). -/
def execOr (a b c : GReg) (s : State) : Out State := s.op2 4 a b c fun x y => x ||| y

/-- XOR (R102). -/
def execXor (a b c : GReg) (s : State) : Out State := s.op2 4 a b c fun x y => x ^^^ y

/-- ANDN (R102). -/
def execAndn (a b c : GReg) (s : State) : Out State := s.op2 4 a b c fun x y => x &&& ~~~y

/-- ORN (R102). -/
def execOrn (a b c : GReg) (s : State) : Out State := s.op2 4 a b c fun x y => x ||| ~~~y

/-- XNOR (R102). -/
def execXnor (a b c : GReg) (s : State) : Out State := s.op2 4 a b c fun x y => ~~~(x ^^^ y)

/-- SHL (R102). -/
def execShl (a b c : GReg) (s : State) : Out State := s.op2 4 a b c fun x y => shlW x (shamt y)

/-- SHR (R102). -/
def execShr (a b c : GReg) (s : State) : Out State := s.op2 4 a b c fun x y => shrW x (shamt y)

/-- SRA (R102). -/
def execSra (a b c : GReg) (s : State) : Out State := s.op2 4 a b c fun x y => sraW x (shamt y)

/-- ROL (R102). -/
def execRol (a b c : GReg) (s : State) : Out State := s.op2 4 a b c fun x y => rolW x (shamt y)

/-- ROR (R102). -/
def execRor (a b c : GReg) (s : State) : Out State := s.op2 4 a b c fun x y => rorW x (shamt y)

/-- SLT (R102). -/
def execSlt (a b c : GReg) (s : State) : Out State := s.op2 4 a b c fun x y => sltW x y

/-- SLTU (R102). -/
def execSltu (a b c : GReg) (s : State) : Out State := s.op2 4 a b c fun x y => sltuW x y

/-- MIN (R102). -/
def execMin (a b c : GReg) (s : State) : Out State := s.op2 4 a b c fun x y => if s64 x < s64 y then x else y

/-- MAX (R102). -/
def execMax (a b c : GReg) (s : State) : Out State := s.op2 4 a b c fun x y => if s64 x < s64 y then y else x

/-- MINU (R102). -/
def execMinu (a b c : GReg) (s : State) : Out State := s.op2 4 a b c fun x y => if u64 x < u64 y then x else y

/-- MAXU (R102). -/
def execMaxu (a b c : GReg) (s : State) : Out State := s.op2 4 a b c fun x y => if u64 x < u64 y then y else x

/-- MUL (R102). -/
def execMul (a b c : GReg) (s : State) : Out State := s.op2 4 a b c fun x y => x * y

/-- MULH (R102). -/
def execMulh (a b c : GReg) (s : State) : Out State := s.op2 4 a b c fun x y => BitVec.ofInt 64 (s64 x * s64 y / 2 ^ 64)

/-- MULHU (R102). -/
def execMulhu (a b c : GReg) (s : State) : Out State := s.op2 4 a b c fun x y => BitVec.ofNat 64 (u64 x * u64 y / 2 ^ 64)

/-- DIV (R103). -/
def execDiv (a b c : GReg) (s : State) : Out State := s.op2 4 a b c fun x y => divW x y

/-- DIVU (R103). -/
def execDivu (a b c : GReg) (s : State) : Out State := s.op2 4 a b c fun x y => divuW x y

/-- REM (R103). -/
def execRem (a b c : GReg) (s : State) : Out State := s.op2 4 a b c fun x y => remW x y

/-- REMU (R103). -/
def execRemu (a b c : GReg) (s : State) : Out State := s.op2 4 a b c fun x y => remuW x y

/-- CLZ (R102). -/
def execClz (a b : GReg) (s : State) : Out State := s.op1 4 a b fun x => BitVec.ofNat 64 (clz64 x)

/-- CTZ (R102). -/
def execCtz (a b : GReg) (s : State) : Out State := s.op1 4 a b fun x => BitVec.ofNat 64 (trailingZeros 64 x.toNat)

/-- POPC (R102). -/
def execPopc (a b : GReg) (s : State) : Out State := s.op1 4 a b fun x => BitVec.ofNat 64 (popcount x)

/-- BSWAP (R102). -/
def execBswap (a b : GReg) (s : State) : Out State := s.op1 4 a b fun x => byteSwap x

/-- SEXT (R102). -/
def execSext (a b : GReg) (wd : ExtW) (s : State) : Out State := s.op1 4 a b fun x => signExt (extBits wd) x

/-- ZEXT (R102). -/
def execZext (a b : GReg) (wd : ExtW) (s : State) : Out State := s.op1 4 a b fun x => zeroExt (extBits wd) x

/-- BFX (R104). -/
def execBfx (a b c : GReg) (s : State) : Out State := s.op2 4 a b c fun x y => bfxW x y

/-- BFI, which also reads gA (R104). -/
def execBfi (a b c : GReg) (s : State) : Out State := s.op3 4 a b c fun x y d => bfiW x y d

/-- SELECT, which also reads gA (R102). -/
def execSelect (a b c : GReg) (s : State) : Out State := s.op3 4 a b c fun x y d => if d ≠ 0 then x else y

/-- ADDSC1 (R102). -/
def execAddsc1 (a b c : GReg) (s : State) : Out State := s.op2 4 a b c fun x y => shlW x 1 + y

/-- ADDSC2 (R102). -/
def execAddsc2 (a b c : GReg) (s : State) : Out State := s.op2 4 a b c fun x y => shlW x 2 + y

/-- ADDSC3 (R102). -/
def execAddsc3 (a b c : GReg) (s : State) : Out State := s.op2 4 a b c fun x y => shlW x 3 + y

/-! ### Immediates (R105 to R107) -/

/-- ADDI (R105). -/
def execAddi (a b : GReg) (i : BitVec 14) (s : State) : Out State := s.op1 4 a b fun x => x + imm14 i

/-- ADDI, long form (R105). -/
def execAddiL (a b : GReg) (i : BitVec 32) (s : State) : Out State := s.op1 8 a b fun x => x + imm32 i

/-- ANDI (R105). -/
def execAndi (a b : GReg) (i : BitVec 14) (s : State) : Out State := s.op1 4 a b fun x => x &&& imm14 i

/-- ANDI, long form (R105). -/
def execAndiL (a b : GReg) (i : BitVec 32) (s : State) : Out State := s.op1 8 a b fun x => x &&& imm32 i

/-- ORI (R105). -/
def execOri (a b : GReg) (i : BitVec 14) (s : State) : Out State := s.op1 4 a b fun x => x ||| imm14 i

/-- ORI, long form (R105). -/
def execOriL (a b : GReg) (i : BitVec 32) (s : State) : Out State := s.op1 8 a b fun x => x ||| imm32 i

/-- XORI (R105). -/
def execXori (a b : GReg) (i : BitVec 14) (s : State) : Out State := s.op1 4 a b fun x => x ^^^ imm14 i

/-- XORI, long form (R105). -/
def execXoriL (a b : GReg) (i : BitVec 32) (s : State) : Out State := s.op1 8 a b fun x => x ^^^ imm32 i

/-- SLTI (R105). -/
def execSlti (a b : GReg) (i : BitVec 14) (s : State) : Out State := s.op1 4 a b fun x => sltW x (imm14 i)

/-- SLTI, long form (R105). -/
def execSltiL (a b : GReg) (i : BitVec 32) (s : State) : Out State := s.op1 8 a b fun x => sltW x (imm32 i)

/-- SLTIU (R105). -/
def execSltiu (a b : GReg) (i : BitVec 14) (s : State) : Out State := s.op1 4 a b fun x => sltuW x (imm14 i)

/-- SLTIU, long form (R105). -/
def execSltiuL (a b : GReg) (i : BitVec 32) (s : State) : Out State := s.op1 8 a b fun x => sltuW x (imm32 i)

/-- SHLI (R106). -/
def execShli (a b : GReg) (sh : BitVec 6) (s : State) : Out State := s.op1 4 a b fun x => shlW x sh.toNat

/-- SHRI (R106). -/
def execShri (a b : GReg) (sh : BitVec 6) (s : State) : Out State := s.op1 4 a b fun x => shrW x sh.toNat

/-- SRAI (R106). -/
def execSrai (a b : GReg) (sh : BitVec 6) (s : State) : Out State := s.op1 4 a b fun x => sraW x sh.toNat

/-- RORI (R106). -/
def execRori (a b : GReg) (sh : BitVec 6) (s : State) : Out State := s.op1 4 a b fun x => rorW x sh.toNat

/-- A result that reads no register. -/
def State.op0 (s : State) (len : Nat) (a : GReg) (v : Word) : Out State :=
  match s.blocked [] a with
  | some t => .next t
  | none => .next (s.finish [] a v len)

/-- LDHI (R107). -/
def execLdhi (a : GReg) (i : BitVec 19) (s : State) : Out State := s.op0 4 a (immU i)

/-- ADDPC (R107). -/
def execAddpc (a : GReg) (i : BitVec 19) (s : State) : Out State := s.op0 4 a (s.hart.pc + immU i)

/-- LADDPC (R107). -/
def execLaddpc (a : GReg) (off : BitVec 32) (s : State) : Out State := s.op0 8 a (s.hart.pc + imm32 off)

/-! ### Compact forms (R59, R108): `^` is the register that LDS names -/

/-- CNOP (R59). -/
def execCnop (s : State) : Out State := .next (s.finishNone [] 2)

/-- CMV (R108). -/
def execCmv (r g : GReg) (s : State) : Out State := s.op1 2 r g fun x => x

/-- CADDI (R108). -/
def execCaddi (r : GReg) (i : BitVec 5) (s : State) : Out State :=
  s.op1 2 r s.hart.lds fun x => x + i.signExtend 64

/-- CADD (R108). -/
def execCadd (r g : GReg) (s : State) : Out State := s.op2 2 r s.hart.lds g fun x y => x + y

/-- CSUB (R108). -/
def execCsub (r g : GReg) (s : State) : Out State := s.op2 2 r s.hart.lds g fun x y => x - y

/-- CAND (R108). -/
def execCand (r g : GReg) (s : State) : Out State := s.op2 2 r s.hart.lds g fun x y => x &&& y

/-- COR (R108). -/
def execCor (r g : GReg) (s : State) : Out State := s.op2 2 r s.hart.lds g fun x y => x ||| y

/-- CXOR (R108). -/
def execCxor (r g : GReg) (s : State) : Out State := s.op2 2 r s.hart.lds g fun x y => x ^^^ y

/-- CSHLI (R108). -/
def execCshli (r : GReg) (sh : BitVec 5) (s : State) : Out State := s.op1 2 r s.hart.lds fun x => shlW x sh.toNat

/-- CSHRI (R108). -/
def execCshri (r : GReg) (sh : BitVec 5) (s : State) : Out State := s.op1 2 r s.hart.lds fun x => shrW x sh.toNat

/-- CSRAI (R108). -/
def execCsrai (r : GReg) (sh : BitVec 5) (s : State) : Out State := s.op1 2 r s.hart.lds fun x => sraW x sh.toNat

end Sys2Proof.Machine
end

