-- ==== Sys2Proof/Machine/Memory.lean ====
section
/-! DEFINITION. The scalar memory instructions, atomics, fences, WAITM, PREFETCH and cache maintenance
(spec 05). One hart's operations are performed in program order at every scope (log 4), so a fence waits only for the
hart's own queues, and for the stores of any parish that are not yet performed with respect to every agent (log 71). -/

namespace Sys2Proof.Machine

/-! ### Sizes (R144) -/

/-- Width of an access in bytes. -/
def loadBytes : LoadSize → Nat
  | .b => 1
  | .h => 2
  | .w => 4
  | .d => 8
  | .bu => 1
  | .hu => 2
  | .wu => 4

def storeBytes : StoreSize → Nat
  | .b => 1
  | .h => 2
  | .w => 4
  | .d => 8

/-- What a load writes for the value read (R144). -/
def loadExtend (sz : LoadSize) (m : Nat) : Word :=
  match sz with
  | .b => signExt 8 (BitVec.ofNat 64 m)
  | .h => signExt 16 (BitVec.ofNat 64 m)
  | .w => signExt 32 (BitVec.ofNat 64 m)
  | _ => BitVec.ofNat 64 m

/-- A base with a signed offset, modulo 2^64 (R144). -/
def addr11 (base : Word) (off : BitVec 11) : Word := base + off.signExtend 64
def addr32 (base : Word) (off : BitVec 32) : Word := base + off.signExtend 64
def addr16 (base : Word) (off : BitVec 16) : Word := base + off.signExtend 64
/-- A base with a scaled index (R151). -/
def addrX (base index : Word) (sh : BitVec 2) : Word := base + shlW index sh.toNat

/-! ### Loads and stores (R147 to R155) -/

/-- A load of `n` bytes by the current hart: its checks, what the caches and homes do, and the bytes. -/
def State.readAs (s : State) (w : Who) (h : How) (va : Word) (n : Nat) : Got (List Byte) :=
  match s.check w h va n with
  | .bad b => .bad b
  | .busy t => .busy t
  | .done ps s1 =>
    match s1.touchReads ps w.path with
    | .error t => .busy t
    | .ok s2 => .done (s2.readPieces ps) s2

/-- A load of the current hart at its own level. -/
def State.readAt (s : State) (h : How) (va : Word) (n : Nat) : Got (List Byte) := s.readAs s.who h va n

/-- A store of bytes by the current hart: its checks, what the caches and homes do, and the write. -/
def State.writeAs (s : State) (w : Who) (h : How) (va : Word) (bs : List Byte) : Got Unit :=
  match s.check w h va bs.length with
  | .bad b => .bad b
  | .busy t => .busy t
  | .done ps s1 =>
    match s1.touchWrites ps w.path with
    | .error t => .busy t
    | .ok s2 => .done () (s2.writePieces ps bs)

/-- A store of the current hart at its own level. -/
def State.writeAt (s : State) (h : How) (va : Word) (bs : List Byte) : Got Unit := s.writeAs s.who h va bs

/-! ### What acquires and releases wait for (R163, R182) -/

/-- Whether a scope reaches beyond the parish. -/
def beyondParish : Scope → Bool
  | .hart => false
  | .core => false
  | .croft => false
  | .parish => false
  | _ => true

/-- Whether some store is performed only at PARISH: its invalidations are outstanding (R182, R192). A release at a wider
scope waits for those of every parish: the hart may have made one where it stood before, or have read another's (R181;
log 71). -/
def State.storesPending (s : State) (sc : Scope) : Bool := beyondParish sc && s.coh.l2.any fun e => e.2.pending

/-- Whether an acquire at a scope would read a line whose store, of whatever parish, is performed only at PARISH
(R182). -/
def State.readPending (s : State) (sc : Scope) (ps : List Piece) : Bool :=
  beyondParish sc && ps.any fun p => (linesOf p.pa p.n).any fun l => s.storePending l

/-- A load instruction with its address computed. -/
def State.loadOp (s : State) (h : How) (sz : LoadSize) (srcs : List GReg) (a : GReg) (va : Word) (len : Nat) : Out State :=
  match s.blocked srcs a with
  | some t => .next t
  | none =>
    match s.readAt h va (loadBytes sz) with
    | .bad b => .next (s.fail b h.acc)
    | .busy t => .next t.stall
    | .done bs s1 => .next (s1.finish srcs a (loadExtend sz (numOf bs)) len)

/-- A store instruction with its address and its data computed. -/
def State.storeOp (s : State) (h : How) (sz : StoreSize) (srcs : List GReg) (va data : Word) (len : Nat) : Out State :=
  match s.blocked srcs 0 with
  | some t => .next t
  | none =>
    match s.writeAt h va (bytesOf (storeBytes sz) data.toNat) with
    | .bad b => .next (s.fail b h.acc)
    | .busy t => .next t.stall
    | .done _ s1 => .next (s1.finishNone srcs len)

/-- LOAD (R150). -/
def execLoad (a b : GReg) (off : BitVec 11) (sz : LoadSize) (s : State) : Out State :=
  s.loadOp .load sz [b] a (addr11 (s.hart.src [] b) off) 4

/-- LOAD, long form (R150). -/
def execLoadL (a b : GReg) (off : BitVec 32) (sz : LoadSize) (s : State) : Out State :=
  s.loadOp .load sz [b] a (addr32 (s.hart.src [] b) off) 8

/-- STORE: the data word is popped after the base word (R150). -/
def execStore (a b : GReg) (off : BitVec 11) (sz : StoreSize) (s : State) : Out State :=
  s.storeOp .store sz [b, a] (addr11 (s.hart.src [] b) off) (s.hart.src [b] a) 4

/-- STORE, long form (R150). -/
def execStoreL (a b : GReg) (off : BitVec 32) (sz : StoreSize) (s : State) : Out State :=
  s.storeOp .store sz [b, a] (addr32 (s.hart.src [] b) off) (s.hart.src [b] a) 8

/-- LOADX (R151). -/
def execLoadx (a b c : GReg) (sh : BitVec 2) (sz : LoadSize) (s : State) : Out State :=
  s.loadOp .load sz [b, c] a (addrX (s.hart.src [] b) (s.hart.src [b] c) sh) 4

/-- STOREX (R151). -/
def execStorex (a b c : GReg) (sh : BitVec 2) (sz : StoreSize) (s : State) : Out State :=
  s.storeOp .store sz [b, c, a] (addrX (s.hart.src [] b) (s.hart.src [b] c) sh) (s.hart.src [b, c] a) 4

/-- LOAD.ACQ: a load with acquire, which waits for a store that is not performed at its scope (R152, R182). -/
def execLoadAcq (a b : GReg) (scope : Scope) (sz : LoadSize) (s : State) : Out State :=
  let va := s.hart.src [] b
  let h : How := { acc := 1, need := .read, style := .sync }
  match s.check s.who h va (loadBytes sz) with
  | .done ps s1 =>
    if (s.blocked [b] a).isNone && s1.readPending scope ps then .next s.stall else s.loadOp h sz [b] a va 4
  | _ => s.loadOp h sz [b] a va 4

/-- STORE.REL: a store with release, which waits until the older stores are performed at its scope (R152, R182). -/
def execStoreRel (a b : GReg) (scope : Scope) (sz : StoreSize) (s : State) : Out State :=
  if (s.blocked [b, a] 0).isNone && s.storesPending scope then .next s.stall
  else s.storeOp { acc := 2, need := .write, style := .sync } sz [b, a] (s.hart.src [] b) (s.hart.src [b] a) 4

/-- CLD (R153). -/
def execCld (r : GReg) (off : BitVec 5) (s : State) : Out State :=
  s.loadOp .load .d [s.hart.lds] r (s.hart.src [] s.hart.lds + shlW (off.setWidth 64) 3) 2

/-- CST (R153). -/
def execCst (r : GReg) (off : BitVec 5) (s : State) : Out State :=
  s.storeOp .store .d [s.hart.lds, r] (s.hart.src [] s.hart.lds + shlW (off.setWidth 64) 3)
    (s.hart.src [s.hart.lds] r) 2

/-! ### Atomics (R156 to R160) -/

/-- The operations of F[5:2] (R66). -/
inductive AmoKind where
  | add | and | or | xor | min | max | minu | maxu | swap | fadd | cas
  deriving DecidableEq, Repr

/-- Two's-complement reading of an N-bit value. -/
def toSigned (bits : Nat) (x : Nat) : Int := if 2 ^ (bits - 1) ≤ x then (x : Int) - 2 ^ bits else x

/-- What an atomic writes for the old value, or nothing, with the flags of AMOFADD (R157). -/
def amoNew (k : AmoKind) (dbl : Bool) (old src exp : Nat) : Option Nat × FFlags :=
  let bits := if dbl then 64 else 32
  match k with
  | .add => (some ((old + src) % 2 ^ bits), 0)
  | .and => (some (old &&& src), 0)
  | .or => (some (old ||| src), 0)
  | .xor => (some (old ^^^ src), 0)
  | .min => (some (if toSigned bits src < toSigned bits old then src else old), 0)
  | .max => (some (if toSigned bits old < toSigned bits src then src else old), 0)
  | .minu => (some (if src < old then src else old), 0)
  | .maxu => (some (if old < src then src else old), 0)
  | .swap => (some src, 0)
  | .fadd => let r := fpAdd (if dbl then .fp64 else .fp32) .rne 0 old src; (some r.code, r.flags)
  | .cas => (if old = exp then some src else none, 0)

/-- What an atomic writes to gA (R157). -/
def amoResult (k : AmoKind) (dbl : Bool) (old : Nat) : Word :=
  if dbl then BitVec.ofNat 64 old
  else if k = .fadd then BitVec.ofNat 64 old
  else signExt 32 (BitVec.ofNat 64 old)

/-- Where an atomic performs, and what that does to the copies of the line (R158, R159). One to a sectored page is a far
atomic, which leaves no copy and the entry in state I (R158, R159; log 72). -/
def State.touchAtomic (s : State) (p : Piece) (far write : Bool) : Held :=
  (s.touch p fun s l =>
    if p.region != .hbm || far || p.kind == .sectored || (s.migOf p.pa).isSome then
      s.farFrom s.here.core.die l (p.sectors l) write
    else s.cohAtomic s.pp l write).bind fun s => .ok (s.accessed .scalar)

/-- Whether an ordering field acquires, and whether it releases (R161). -/
def ordAcquires : AmoOrd → Bool
  | .acq => true
  | .ar => true
  | _ => false

def ordReleases : AmoOrd → Bool
  | .rel => true
  | .ar => true
  | _ => false

/-- Whether an atomic waits for stores that are performed only at PARISH: its own hart's parish's when it releases, the
line's when it acquires (R161, R182). -/
def State.atomicWaits (s : State) (o : AmoOps) (ps : List Piece) : Bool :=
  (ordReleases o.ord && s.storesPending o.scope) || (ordAcquires o.ord && s.readPending o.scope ps)

/-- An atomic: one indivisible read-modify-write (R157). B and C are read, and A by CAS. -/
def State.atomicOp (s : State) (k : AmoKind) (o : AmoOps) : Out State :=
  let srcs := if k = .cas then [o.b, o.c, o.a] else [o.b, o.c]
  match s.blocked srcs o.a with
  | some t => .next t
  | none =>
    let n := if o.dbl then 8 else 4
    let va := addr16 (s.hart.src [] o.b) o.off
    match s.check s.who { acc := 3, need := .rmw, style := .atomic } va n with
    | .bad b => .next (s.fail b 3)
    | .busy t => .next t.stall
    | .done ps s1 =>
      let old := numOf (s1.readPieces ps)
      let src := (s.hart.src [o.b] o.c).toNat % 2 ^ (8 * n)
      let exp := (s.hart.src [o.b, o.c] o.a).toNat % 2 ^ (8 * n)
      let r := amoNew k o.dbl old src exp
      match ps with
      | p :: _ =>
        if s1.atomicWaits o ps then .next s.stall
        else
          match s1.touchAtomic p o.far r.1.isSome with
          | .error t => .next t.stall
          | .ok s2 =>
            let s3 := match r.1 with
              | some v => s2.putBytes p.pa (bytesOf n v)
              | none => s2
            .next (({ s3 with hart := s3.hart.raise r.2 } : State).finish srcs o.a (amoResult k o.dbl old) 8)
      | [] => .next s.stall

/-- AMOADD (R157). -/
def execAmoadd (o : AmoOps) (s : State) : Out State := s.atomicOp .add o
/-- AMOAND (R157). -/
def execAmoand (o : AmoOps) (s : State) : Out State := s.atomicOp .and o
/-- AMOOR (R157). -/
def execAmoor (o : AmoOps) (s : State) : Out State := s.atomicOp .or o
/-- AMOXOR (R157). -/
def execAmoxor (o : AmoOps) (s : State) : Out State := s.atomicOp .xor o
/-- AMOMIN (R157). -/
def execAmomin (o : AmoOps) (s : State) : Out State := s.atomicOp .min o
/-- AMOMAX (R157). -/
def execAmomax (o : AmoOps) (s : State) : Out State := s.atomicOp .max o
/-- AMOMINU (R157). -/
def execAmominu (o : AmoOps) (s : State) : Out State := s.atomicOp .minu o
/-- AMOMAXU (R157). -/
def execAmomaxu (o : AmoOps) (s : State) : Out State := s.atomicOp .maxu o
/-- AMOSWAP (R157). -/
def execAmoswap (o : AmoOps) (s : State) : Out State := s.atomicOp .swap o
/-- AMOFADD (R157). -/
def execAmofadd (o : AmoOps) (s : State) : Out State := s.atomicOp .fadd o
/-- CAS (R157). -/
def execCas (o : AmoOps) (s : State) : Out State := s.atomicOp .cas o

/-! ### Fences (R163 to R165) -/

/-- FENCE.acq (R163). With the load before it, it is an acquire: what that load returned may be performed only at PARISH yet
(R180, R182; log 71). -/
def execFenceAcq (scope : Scope) (s : State) : Out State :=
  if s.storesPending scope then .next s.stall else .next (s.finishNone [] 4)
/-- FENCE.rel: it waits until the older stores are performed at its scope (R163, R182). -/
def execFenceRel (scope : Scope) (s : State) : Out State :=
  if s.storesPending scope then .next s.stall else .next (s.finishNone [] 4)
/-- FENCE.full (R163, R182). -/
def execFenceFull (scope : Scope) (s : State) : Out State :=
  if s.storesPending scope then .next s.stall else .next (s.finishNone [] 4)
/-- FENCE.SV: it waits until the older scalar operations are performed towards every agent (R164, R182). -/
def execFenceSv (s : State) : Out State :=
  if s.storesPending .system then .next s.stall else .next (s.finishNone [] 4)
/-- FENCE.VS waits for all older vector work, and until its stores are performed towards every agent (R136, R164; log
40). -/
def execFenceVs (s : State) : Out State :=
  if s.hart.liveConvoys.isEmpty && !s.storesPending .system then .next (s.finishNone [] 4) else .next s.stall
/-- FENCE.VV: the vector accesses that follow wait until those before are performed towards every agent (R164); the
scalar pipeline goes on. -/
def execFenceVv (s : State) : Out State :=
  .next (({ s with hart := { s.hart with vec := s.hart.vec.fence } } : State).finishNone [] 4)
/-- FENCE.I: the fetches that follow see every store performed before it (R165; log 10). -/
def execFenceI (s : State) : Out State := .next ((s.freshFetch s.here.core).finishNone [] 4)

/-! ### WAITM (R166 to R168) -/

/-- Whether a hart holds a watch entry. -/
def Hart.watches (h : Hart) : Bool := match h.wait with | .watching _ e => e | _ => false

/-- Whether a watch entry is free for a location: 256 per parish, or 16 per croft store (R168). -/
def State.watchFree (s : State) (p : Piece) : Bool :=
  match p.region with
  | .croft c =>
    decide ((s.places.filter fun q =>
      match (s.hartAt q).wait with
      | .watching a true => decide (croftAlias c ≤ a ∧ a < croftAlias c + 0x40000)
      | _ => false).length < 16)
  | _ => decide ((s.places.filter fun q => s.ppOf q.core == s.pp && (s.hartAt q).watches).length < 256)

/-- WAITM: completes when the value read differs from gC, and otherwise parks (R166). -/
def execWaitm (a b c : GReg) (dbl : Bool) (scope : Scope) (s : State) : Out State :=
  match s.blocked [b, c] a with
  | some t => .next t
  | none =>
    let n := if dbl then 8 else 4
    let va := s.hart.src [] b
    match s.check s.who { acc := 3, need := .read, style := .watch } va n with
    | .bad e => .next (s.fail e 3)
    | .busy t => .next t.stall
    | .done ps s1 =>
      if s1.readPending scope ps then .next s.stall
      else
        match s1.touchReads ps with
        | .error t => .next t.stall
        | .ok s2 =>
          let v := numOf (s2.readPieces ps)
          let cmp := (s.hart.src [b] c).toNat % 2 ^ (8 * n)
          if v = cmp then
            match ps with
            | p :: _ =>
              .next { s2 with hart := { s2.hart.closeConvoy with wait := .watching p.pa (s.watchFree p) } }
            | [] => .next s.stall
          else .next (s2.finish [b, c] a (if dbl then BitVec.ofNat 64 v else signExt 32 (BitVec.ofNat 64 v)) 4)

/-! ### Prefetch and maintenance (R169 to R172) -/

/-- What PREFETCH brings towards the L1: nothing when a check of R147 fails, or a line or a link would make it wait
(R169). One that brings its line translates as a load does, so that it sets A and fills the TLBs (log 73). A sectored page
has no owned state: PREFETCH.w brings a sector of it shared, as PREFETCH.r does (R194; log 85). -/
def State.prefetched (s : State) (va : Word) (write : Bool) : State :=
  let h : How := { acc := 1, need := if write then .write else .read, style := .maint }
  match s.check s.who h va 1 with
  | .done (p :: _) t =>
    let l := lineOf p.pa
    let r : Held :=
      if !p.region.cacheable || !t.dataOk t.who .load p then .error s
      else
        match p.kind with
        | .cached => if write then t.cohObtain t.pp l false else t.cohLoad t.here.core l
        | .sectored => t.cohSectorRead t.pp l (sectorBits l p.pa 1)
        | .device => .error s
    (match r with | .ok u => u | .error _ => s)
  | _ => s

/-- PREFETCH (R169). -/
def execPrefetch (b : GReg) (write : Bool) (s : State) : Out State :=
  match s.blocked [b] 0 with
  | some t => .next t
  | none => .next ((s.prefetched (s.hart.src [] b) write).finishNone [b] 4)

/-- Whether a maintenance operation reaches its point and every copy above it: within the parish nothing but the parish
is asked (R170, R171). -/
def State.maintReaches (s : State) (p : Point) (line : Nat) : Held :=
  if p = .parish then .ok s
  else if !s.reaches s.here.core.die (lineHome line) then .error (s.wake s.here.core.die (lineHome line))
  else if s.lineBusy line then .error s
  else s.homeReaches line ((s.coh.l2.filter fun e => e.1.2 == line).map fun e => e.1.1)

/-- The 128-byte line that holds an address, as the caches hold it: one of CXL memory in two halves (R170, R451). -/
def maintLines (pa : Nat) : List Nat := linesOf (pa / 128 * 128) 128

/-- Maintenance of some lines for the current hart, once every one of them can be reached; an access to a CXL extent that
waits counts as issued (R149). -/
def State.maintAll (s : State) (p : Piece) (sc : Scope) (f : State → Nat → Point → State) : Held :=
  let ls := maintLines p.pa
  match ls.foldl (fun (o : Held) l => o.bind fun s => s.maintReaches (scopePoint sc) l) (.ok s) with
  | .error t => .error (t.heldOn p)
  | .ok t => .ok (ls.foldl (fun s l => f s l (scopePoint sc)) (t.accessed .scalar))

/-- A maintenance operation on the line that holds an address: none on device kind and croft store (R145, R170,
R171). -/
def State.maintain (s : State) (acc : BitVec 2) (need : Need) (b : GReg) (sc : Scope) (f : State → Nat → Point → State) :
    Out State :=
  match s.blocked [b] 0 with
  | some t => .next t
  | none =>
    match s.check s.who { acc := acc, need := need, style := .maint } (s.hart.src [] b) 1 with
    | .bad e => .next (s.fail e acc)
    | .busy t => .next t.stall
    | .done ps s1 =>
      match ps with
      | p :: _ =>
        if !p.region.cacheable || p.kind == .device then .next (s1.finishNone [b] 4)
        else
          match s1.maintAll p sc f with
          | .error t => .next t.stall
          | .ok s2 => .next (s2.finishNone [b] 4)
      | [] => .next s.stall

/-- CLEAN (R171). -/
def execClean (b : GReg) (sc : Scope) (s : State) : Out State := s.maintain 1 .read b sc fun t l => t.cleanLine t.pp l

/-- FLUSH (R171). -/
def execFlush (b : GReg) (sc : Scope) (s : State) : Out State := s.maintain 1 .read b sc fun t l => t.flushLine t.pp l

/-- INVAL, class S, of SUPER and FIRM (R162, R171). -/
def execInval (b : GReg) (sc : Scope) (s : State) : Out State :=
  match s.hart.status.priv with
  | .task => .next (s.trap 0x03 (encBits (.inval b sc)))
  | _ => s.maintain 2 .write b sc fun t l => t.invalLine t.pp l

end Sys2Proof.Machine
end

