-- ==== Sys2Proof/Machine/Reduce.lean ====
section
/-! DEFINITION. The pairwise tree over positions (spec 09 R303), as VRED, MOOTRED and the collectives use
it. A combination may change a state (flags, draws), in the order in which combinations take place. -/

namespace Sys2Proof.Machine

/-- `combine` of R303: an absent position passes the other one up. -/
def combineOpt {α σ : Type} (op : σ → α → α → α × σ) (st : σ) : Option α → Option α → Option α × σ
  | none, b => (b, st)
  | a, none => (a, st)
  | some a, some b => let r := op st a b; (some r.1, r.2)

/-- One level: adjacent positions combine, ascending; a position past the end is absent. -/
def treeLevel {α σ : Type} (op : σ → α → α → α × σ) : σ → List (Option α) → List (Option α) × σ
  | st, [] => ([], st)
  | st, [a] => ([a], st)
  | st, a :: b :: t =>
    let r := combineOpt op st a b
    let rest := treeLevel op r.2 t
    (r.1 :: rest.1, rest.2)

/-- The levels of the tree, with `fuel` levels left. A list that is not padded to a power of 2 gives the same
combinations, because the positions beyond it are absent. -/
def treeFold {α σ : Type} (op : σ → α → α → α × σ) : Nat → σ → List (Option α) → Option α × σ
  | 0, st, l => ((l.headD none), st)
  | fuel + 1, st, l =>
    match l with
    | [] => (none, st)
    | [a] => (a, st)
    | _ => let r := treeLevel op st l; treeFold op fuel r.2 r.1

/-- The pairwise tree of R303. -/
def tree {α σ : Type} (op : σ → α → α → α × σ) (st : σ) (l : List (Option α)) : Option α × σ :=
  treeFold op l.length st l

/-- ADD, MIN and MAX on a floating format (R302, R376). -/
def redFp (f : Fmt) (op : RedOp) (mode : Mode) (draw : Nat) (a b : Nat) : FRes :=
  match op with
  | .min => fpMinMax f false a b
  | .max => fpMinMax f true a b
  | _ => fpAdd f mode draw a b

/-- An operation on integers of `w` bits (R302). -/
def redInt (sg : Bool) (w : Nat) (op : RedOp) (a b : Nat) : Nat :=
  let sv (x : Nat) : Int := if sg && decide (2 ^ (w - 1) ≤ x) then (x : Int) - 2 ^ w else x
  match op with
  | .add => (a + b) % 2 ^ w
  | .min => if sv b < sv a then b else a
  | .max => if sv a < sv b then b else a
  | .and => a &&& b
  | .or => a ||| b
  | .xor => a ^^^ b

/-- The identity on integers of `w` bits (R302). -/
def redIntId (sg : Bool) (w : Nat) (op : RedOp) : Nat :=
  match op with
  | .min => if sg then 2 ^ (w - 1) - 1 else 2 ^ w - 1
  | .max => if sg then 2 ^ (w - 1) else 0
  | .and => 2 ^ w - 1
  | _ => 0

/-- The identity on a floating format (R302). -/
def redFpId (f : Fmt) (op : RedOp) : Nat :=
  match op with
  | .add => 0
  | _ => f.nanCode

end Sys2Proof.Machine
end

