-- ==== Sys2Proof/Machine/Moot.lean ====
section
/-! DEFINITION. Moots and the gang barrier (spec 11): the record's operations at its table, and the meanings of
the instructions of major 0x19. A waiting hart parks, and its instruction issues afresh (R362). -/

namespace Sys2Proof.Machine

/-! ### Tables (R346, R347) -/

/-- `moot_home`: the W-die that holds a DIE or DEVICE moot (R347). -/
def mootHome (name : Word) : Nat :=
  8 + ((name.extractLsb' 0 3 ^^^ name.extractLsb' 8 3 ^^^ name.extractLsb' 16 3 ^^^ name.extractLsb' 24 3 ^^^
    name.extractLsb' 32 3 ^^^ name.extractLsb' 40 3 ^^^ name.extractLsb' 48 3 ^^^ name.extractLsb' 56 3)).toNat

/-- The moots of a table. -/
def State.mootsOf (s : State) : MootTable → List Moot
  | .parish pp => (s.pdata pp).moots
  | .device => s.moots

def State.setMoots (s : State) (t : MootTable) (l : List Moot) : State :=
  match t with
  | .parish pp => s.setPdata pp { s.pdata pp with moots := l }
  | .device => { s with moots := l }

/-- The moot of a name in a table. -/
def State.moot (s : State) (t : MootTable) (name : Word) : Option Moot := (s.mootsOf t).find? fun m => m.name == name

/-- Replace a moot's record. -/
def State.setMoot (s : State) (t : MootTable) (m : Moot) : State :=
  s.setMoots t ((s.mootsOf t).map fun x => if x.name = m.name then m else x)

/-- Free a moot's entry. -/
def State.delMoot (s : State) (t : MootTable) (name : Word) : State :=
  s.setMoots t ((s.mootsOf t).filter fun x => x.name != name)

/-! ### Tables that are out of reach (R199, R200, R471) -/

/-- A request for a parish that is not in RUN is held at its sender, and sets PEND (R471). -/
def State.setPend (s : State) (pp : Nat) : State :=
  let x := s.parish pp
  s.setParish pp { x with pw := { x.pw with pend := true } }

/-- Whether an access by the current hart to the tables of a parish is held (R471). Harts inside the parish still
reach them, or it could not drain (log 23). Those of a lost die are gone, and hold nothing up (R465). -/
def State.tablesHeld (s : State) (pp : Nat) : Bool :=
  !s.runs pp && pp != s.pp && !s.lostDies.contains (s.dieOf pp)

/-- The current hart's request waits for a link to a die that is not lost (R199, R200). -/
def State.linkWait (s : State) (die : Nat) : Option State :=
  if s.lostDies.contains die || s.reaches s.here.core.die die then none else some (s.wake s.here.core.die die).stall

/-- The current hart's request waits for the tables of a parish: it is not in RUN, and its PEND is set, or a link wakes
(R200, R471). -/
def State.parishWait (s : State) (pp : Nat) : Option State :=
  if s.tablesHeld pp then some (s.setPend pp).stall else s.linkWait (s.dieOf pp)

/-- The current hart's request waits for the table entry of a moot. -/
def State.tableWait (s : State) (t : MootTable) (name : Word) : Option State :=
  match t with
  | .parish pp => s.parishWait pp
  | .device => s.linkWait (mootHome name)

/-- What an instruction does once the table entry of a moot is in reach. -/
def State.atTable (s : State) (t : MootTable) (name : Word) (k : Out State) : Out State :=
  match s.tableWait t name with
  | some u => .next u
  | none => k

/-! ### The record (R350, R354 to R360) -/

/-- Members, counted and joining (R378). -/
def Moot.members (m : Moot) : Nat := ((m.counted ++ m.joiners).filter fun x => !x.left).length

/-- Change one member's entry. -/
def Moot.update (m : Moot) (id : Nat) (f : MootMember → MootMember) : Moot :=
  { m with
    counted := m.counted.map fun x => if x.id = id then f x else x
    joiners := m.joiners.map fun x => if x.id = id then f x else x }

/-- The result of a generation: its bits and its flags (R375, R376). -/
def mootResult (op : Option MootOp) (ins : List (Option Word)) : Word × FFlags :=
  match op with
  | none => (0, 0)
  | some .all => (ofBool ((ins.filterMap id).all fun w => w != 0), 0)
  | some .any => (ofBool ((ins.filterMap id).any fun w => w != 0), 0)
  | some .count => (BitVec.ofNat 64 ((ins.filterMap id).filter fun w => w != 0).length, 0)
  | some (.red o t) =>
    let fp (f : Fmt) : Word × FFlags :=
      let l : List (Option Nat) := ins.map fun x => x.map fun w => w.toNat % 2 ^ f.width
      let r := tree (fun (fl : FFlags) a b => let x := redFp f o .rne 0 a b; (x.code, fl ||| x.flags)) 0 l
      (BitVec.ofNat 64 (r.1.getD (redFpId f o)), r.2)
    let int (sg : Bool) : Word × FFlags :=
      let l : List (Option Nat) := ins.map fun x => x.map fun w => w.toNat
      let r := tree (fun (_ : Unit) a b => (redInt sg 64 o a b, ())) () l
      (BitVec.ofNat 64 (r.1.getD (redIntId sg 64 o)), 0)
    match o, t with
    | .and, _ => int false
    | .or, _ => int false
    | .xor, _ => int false
    | _, .sint => int true
    | _, .uint => int false
    | _, .fp32 => fp .fp32
    | _, .fp64 => fp .fp64

/-- Whether the open generation is complete (R355); a moot without a member is freed instead (R359). -/
def Moot.done (m : Moot) : Bool :=
  decide (0 < m.members) && m.pend == 0 && m.counted.all fun x => x.left || x.arr0

/-- `complete`: one step at the table (R355). The generation in which a moot breaks gives no result (R360). One that left
while an arrival of its in the next generation is awaited counts in that generation as one that has arrived (R370; log 65). -/
def Moot.complete (m : Moot) : Moot :=
  let breaks := m.breaking && m.brokeGen == m.gen
  let r := if breaks then (m.result, m.rflags) else mootResult m.op0 (m.counted.map fun x => x.in0)
  let open' (x : MootMember) : MootMember := { x with arr0 := x.arr1, arr1 := false, in0 := x.in1, in1 := none }
  { m with
    result := r.1
    rflags := r.2
    rlost := breaks
    broken := m.broken || breaks
    gen := m.gen + 1
    op0 := m.op1
    op1 := none
    counted := ((m.counted ++ m.joiners).filter fun x => !x.left || x.arr1).map open'
    joiners := [] }

/-- Complete generations while they are complete; one more than can follow at once (R354). -/
def Moot.settle : Nat → Moot → Moot
  | 0, m => m
  | n + 1, m => if m.done then Moot.settle n m.complete else m

/-- Put a changed record back: complete what is complete, or free an entry with neither member nor pending
byte (R355, R359). -/
def State.checkMoot (s : State) (t : MootTable) (m : Moot) : State :=
  let m := m.settle 4
  if m.members = 0 ∧ m.pend = 0 then s.delMoot t m.name else s.setMoot t m

/-- Break a moot in the open generation or the next one (R360, R374). One that breaks in the open generation completes it
as LOST, although the next one was to break it. -/
def Moot.breakIn (m : Moot) (g : BitVec 32) : Moot :=
  if m.broken || (m.breaking && g != m.gen) then m else { m with breaking := true, brokeGen := g }

/-- A moot whose home is lost is broken at once: its generation ends as LOST (R360). -/
def Moot.breakNow (m : Moot) : Moot := if m.broken then m else (m.breakIn m.gen).complete

/-- An arrival in the open generation, or in the next one, with its operation and operand (R354, R374). -/
def Moot.arrive (m : Moot) (id : Nat) (next : Bool) (c : Option (MootOp × Word)) : Moot :=
  let fixed := if next then m.op1 else m.op0
  let agrees := match c with
    | none => true
    | some (o, _) => fixed == none || fixed == some o
  let operand := match c with
    | some (_, w) => if agrees then some w else none
    | none => none
  let m1 := m.update id fun x =>
    if next then { x with arr1 := true, in1 := operand } else { x with arr0 := true, in0 := operand }
  let m2 := match c with
    | some (o, _) => if agrees then (if next then { m1 with op1 := some o } else { m1 with op0 := some o }) else m1
    | none => m1
  if agrees then m2 else m2.breakIn (if next then m.gen + 1 else m.gen)

/-- A member leaves (R357): it takes no part in a result (R376), and its arrival in the next generation is withdrawn, with
the operation that only it gave there. With `keep`, MOOTLEAVE while an arrival is awaited withdraws nothing (R370; log
65). A lost one breaks the moot unless it is tolerant (R360). -/
def Moot.leave (m : Moot) (id : Nat) (keep lost : Bool) : Moot :=
  let gone (x : MootMember) : MootMember :=
    if x.id ≠ id then x
    else if keep then { x with left := true }
    else { x with left := true, in0 := none, arr1 := false, in1 := none }
  let stays (x : MootMember) : Bool := keep || x.id != id
  let m1 : Moot := { m with counted := m.counted.map gone, joiners := (m.joiners.filter stays).map gone }
  let m2 := { m1 with op1 := if keep || (m1.counted ++ m1.joiners).any fun x => x.in1.isSome then m1.op1 else none }
  if lost then
    let m3 := { m2 with lostcnt := Nat.min 65535 (m2.lostcnt + 1) }
    if m3.tol then m3 else m3.breakIn m3.gen
  else m2

/-- PEND grows (R359). -/
def Moot.addPend (m : Moot) (n : Nat) : Moot :=
  if 2 ^ 56 - 1 < m.pend + n then { m with pend := 2 ^ 56 - 1, err := true } else { m with pend := m.pend + n }

/-- PEND shrinks, not below 0 (R359). -/
def Moot.subPend (m : Moot) (n : Nat) : Moot :=
  if m.pend < n then { m with pend := 0, err := true } else { m with pend := m.pend - n }

/-- An engine subtracts bytes from the PEND of a moot; a name that is not found discards it (R359, R423). -/
def State.pendSub (s : State) (t : MootTable) (name : Word) (n : Nat) : State :=
  match s.moot t name with
  | some m => s.checkMoot t (m.subPend n)
  | none => s

/-- Whether generation `w` has completed (R373). -/
def genPassed (gen w : BitVec 32) : Bool := let d := (gen - w).toNat; decide (1 ≤ d ∧ d ≤ 2 ^ 31)

/-! ### Handles (R351, R352) -/

def Hart.handle (h : Hart) (x : BitVec 3) : Option Handle := h.handles.getD x.toNat none
def Hart.setHandle (h : Hart) (x : BitVec 3) (v : Option Handle) : Hart :=
  { h with handles := h.handles.setIfInBounds x.toNat v }
def State.setHandle (s : State) (x : BitVec 3) (v : Option Handle) : State := { s with hart := s.hart.setHandle x v }

/-- The handle trap (R352). -/
def State.handleTrap (s : State) (x : BitVec 3) : State := s.trap 0x07 (x.setWidth 64)
/-- The moot-broken trap (R360). -/
def State.brokenTrap (s : State) (x : BitVec 3) : State := s.trap 0x08 (x.setWidth 64)

/-- The scope of an arrival of the current hart: the moot's, or DEVICE for a hart that stands outside it (R365). -/
def State.mootScope (s : State) (t : MootTable) (m : Moot) : Scope :=
  match m.scope.toNat with
  | 0 => if t = .parish s.pp then .parish else .device
  | 1 => if m.die = s.here.core.die then .die else .device
  | _ => .device

/-- Whether an arrival, which is a release, waits for stores of the hart's parish (R365, R182). -/
def State.arrivalWaits (s : State) (h : Handle) : Bool :=
  match s.moot h.table h.name with
  | some m => s.storesPending (s.mootScope h.table m)
  | none => false

/-- A handle's hart leaves its moot. -/
def State.leaveHandle (s : State) (h : Handle) (keep lost : Bool) : State :=
  match s.moot h.table h.name with
  | some m => s.checkMoot h.table (m.leave h.member keep lost)
  | none => s

/-- The current hart's handles. -/
def Hart.bound (h : Hart) : List Handle := h.handles.toList.filterMap id

/-- The current hart leaves every moot that it holds a handle of, in ascending handle order (R361). -/
def State.leaveAll (s : State) (lost : Bool) : State :=
  (List.range 8).foldl (fun s i =>
    match s.hart.handle (BitVec.ofNat 3 i) with
    | some h => (s.leaveHandle h false lost).setHandle (BitVec.ofNat 3 i) none
    | none => s) s

/-! ### MOOTNEW to MOOTFREE (R368 to R371) -/

/-- A new member's entry. -/
def MootMember.fresh (id : Nat) : MootMember := { id := id, left := false, arr0 := false, arr1 := false, in0 := none, in1 := none }

/-- The record that MOOTNEW creates (R368). -/
def Moot.fresh (name : Word) (attr : Word) (die : Nat) : Moot :=
  { name := name, scope := attr.extractLsb' 0 2, tol := attr.getLsbD 2, cosched := attr.getLsbD 3, die := die
    gen := 0, counted := [MootMember.fresh 0], joiners := [], pend := 0, op0 := none, op1 := none
    result := 0, rflags := 0, rlost := false, broken := false, breaking := false, brokeGen := 0
    err := false, lostcnt := 0, nextId := 1 }

/-- Entries of the slice that a new moot would take: a parish table, or the slice of its home (R346). -/
def State.sliceFull (s : State) (t : MootTable) (name : Word) : Bool :=
  match t with
  | .parish pp => decide (256 ≤ (s.pdata pp).moots.length)
  | .device => decide (8192 ≤ (s.moots.filter fun m => mootHome m.name == mootHome name).length)

/-- The table of a new moot (R367, R368). -/
def State.newTable (s : State) (attr : Word) : MootTable := if attr.extractLsb' 0 2 = 0 then .parish s.pp else .device

/-- MOOTNEW's checks and effect: a status, and the state with the moot and the handle (R368). A home that is lost turns
nothing away (log 62). -/
def State.mootNew (s : State) (x : BitVec 3) (name attr : Word) : Nat × State :=
  if name = 0 then (5, s)
  else if attr.extractLsb' 4 60 ≠ 0 ∨ attr.extractLsb' 0 2 = 3 then (6, s)
  else
    let t := s.newTable attr
    if (s.moot t name).isSome then (3, s)
    else if s.sliceFull t name then (2, s)
    else
      let s1 := s.setMoots t (s.mootsOf t ++ [Moot.fresh name attr s.here.core.die])
      (0, s1.setHandle x (some { table := t, name := name, member := 0, na := 0, await := none }))

/-- MOOTNEW (R368). -/
def execMootnew (a b c : GReg) (x : BitVec 3) (s : State) : Out State :=
  match s.hart.handle x with
  | some _ => .next (s.handleTrap x)
  | none =>
    match s.blocked [b, c] a with
    | some t => .next t
    | none =>
      let name := s.hart.src [] b
      let attr := s.hart.src [b] c
      let r := s.mootNew x name attr
      let go : Out State := .next (r.2.finish [b, c] a (BitVec.ofNat 64 r.1) 4)
      -- a name or an attribute word that is refused asks no table
      if r.1 = 5 ∨ r.1 = 6 then go else s.atTable (s.newTable attr) name go

/-- Whether the hart holds a membership of a moot (R351). -/
def Hart.memberOf (h : Hart) (t : MootTable) (name : Word) : Bool :=
  h.handles.toList.any fun o => match o with | some v => v.table == t && v.name == name | none => false

/-- Whether a moot is out of reach because its home is lost (R360). -/
def State.mootLost (s : State) (t : MootTable) (name : Word) : Bool :=
  match t with
  | .parish _ => false
  | .device => s.lostDies.contains (mootHome name)

/-- MOOTJOIN's checks and effect (R369). -/
def State.mootJoin (s : State) (x : BitVec 3) (name : Word) : Nat × State :=
  if name = 0 then (5, s)
  else
    let t : MootTable := if (s.moot (.parish s.pp) name).isSome then .parish s.pp else .device
    match s.moot t name with
    | none => (4, s)
    | some m =>
      if m.members = 0 ∨ s.mootLost t name then (4, s)
      else if m.scope = 1 ∧ m.die ≠ s.here.core.die then (7, s)
      else if m.breaking then (11, s)
      else if s.hart.memberOf t name then (12, s)
      else if (if m.cosched then 4096 else 65535) ≤ m.members then (8, s)
      else
        let m' := { m with joiners := m.joiners ++ [MootMember.fresh m.nextId], nextId := m.nextId + 1 }
        (0, (s.setMoot t m').setHandle x
          (some { table := t, name := name, member := m.nextId, na := m.gen + 1, await := none }))

/-- MOOTJOIN (R369). -/
def execMootjoin (a b : GReg) (x : BitVec 3) (s : State) : Out State :=
  match s.hart.handle x with
  | some _ => .next (s.handleTrap x)
  | none =>
    match s.blocked [b] a with
    | some t => .next t
    | none =>
      let name := s.hart.src [] b
      let r := s.mootJoin x name
      let go : Out State := .next (r.2.finish [b] a (BitVec.ofNat 64 r.1) 4)
      if r.1 = 5 ∨ (s.moot (.parish s.pp) name).isSome then go else s.atTable .device name go

/-- MOOTLEAVE (R370): a departure is a release (R365). A moot whose table entry is gone has none (log 62). -/
def execMootleave (x : BitVec 3) (s : State) : Out State :=
  match s.hart.handle x with
  | none => .next (s.handleTrap x)
  | some h =>
    s.atTable h.table h.name
      (if s.arrivalWaits h then .next s.stall
       else .next (((s.leaveHandle h h.await.isSome false).setHandle x none).finishNone [] 4))

/-- MOOTFREE's checks and effect (R371); OK when the table entry is gone (log 62). -/
def State.mootFree (s : State) (x : BitVec 3) (h : Handle) : Nat × State :=
  match s.moot h.table h.name with
  | none => (0, s.setHandle x none)
  | some m =>
    if 1 < m.members then (9, s)
    else if m.pend ≠ 0 then (10, s)
    else (0, (s.delMoot h.table h.name).setHandle x none)

/-- MOOTFREE (R371). -/
def execMootfree (a : GReg) (x : BitVec 3) (s : State) : Out State :=
  match s.hart.handle x with
  | none => .next (s.handleTrap x)
  | some h =>
    match s.blocked [] a with
    | some t => .next t
    | none =>
      let r := s.mootFree x h
      s.atTable h.table h.name (.next (r.2.finish [] a (BitVec.ofNat 64 r.1) 4))

/-! ### Arriving and waiting (R372 to R376) -/

/-- The arrival of a handle's member at the table, and the handle after it (R354). -/
def State.arriveAt (s : State) (x : BitVec 3) (h : Handle) (m : Moot) (c : Option (MootOp × Word)) (await : Bool) : State :=
  let m' := m.arrive h.member (h.na != m.gen) c
  let aw : Option Await :=
    if await then some { gen := h.na, op := c.map (·.1), operand := (c.map (·.2)).getD 0 } else h.await
  (s.checkMoot h.table m').setHandle x (some { h with na := h.na + 1, await := aw })

/-- Whether the next arrival of a handle parks until the next generation opens (R354). -/
def Handle.ahead (h : Handle) (m : Moot) : Bool := h.na == m.gen + 2

/-- MOOTARRIVE (R372). -/
def execMootarrive (a : GReg) (x : BitVec 3) (s : State) : Out State :=
  match s.hart.handle x with
  | none => .next (s.handleTrap x)
  | some h =>
    s.atTable h.table h.name
      (match s.moot h.table h.name with
       | none => .next (s.brokenTrap x)
       | some m =>
         if m.broken then .next (s.brokenTrap x)
         else
           match s.blocked [] a with
           | some t => .next t
           | none =>
             if h.ahead m || s.arrivalWaits h then .next s.stall
             else .next ((s.arriveAt x h m none false).finish [] a (h.na.setWidth 64) 4))

/-- MOOTWAIT (R373, R360). One that is parked for a generation completes with it, although the moot may break before the
instruction goes on. -/
def execMootwait (a b : GReg) (x : BitVec 3) (s : State) : Out State :=
  match s.hart.handle x with
  | none => .next (s.handleTrap x)
  | some h =>
    match s.blocked [b] a with
    | some t => .next t
    | none =>
      s.atTable h.table h.name
        (match s.moot h.table h.name with
         | none => .next (s.brokenTrap x)
         | some m =>
           let w := (s.hart.src [] b).extractLsb' 0 32
           let waited := h.parked = some w ∧ genPassed m.brokeGen w
           if m.broken ∧ w ≠ m.brokeGen ∧ ¬waited then .next ((s.setHandle x (some { h with parked := none })).brokenTrap x)
           else if genPassed m.gen w then
             .next ((s.setHandle x (some { h with parked := none })).finish [b] a (if m.broken ∧ w = m.brokeGen then 1 else 0) 4)
           else .next (s.setHandle x (some { h with parked := some w })).stall)

/-- The moot-broken trap of an instruction that parked after its word was popped: the word returns to the head of the
arrival queue (R93, R360). -/
def State.brokenBack (s : State) (x : BitVec 3) (popped : Option Word) : State :=
  let t : State := match popped with
    | some w => { s with hart := { s.hart with words := w :: s.hart.words, wordsHere := s.hart.wordsHere + 1 } }
    | none => s
  t.brokenTrap x

/-- What an instruction that awaits a generation finds: its result once the generation has completed, the trap of a
broken moot, or nothing yet (R360, R362, R374). `popped` is the word that its arrival popped, and `srcs` what it pops
now. -/
def State.await (s : State) (a : GReg) (x : BitVec 3) (srcs : List GReg) (popped : Option Word) : State :=
  match s.hart.handle x with
  | none => s.handleTrap x
  | some h =>
    match h.await, s.moot h.table h.name with
    | some aw, some m =>
      let s' := s.setHandle x (some { h with await := none })
      -- a generation after the one in which the moot broke gives nothing, complete or not (R360)
      if m.broken ∧ genPassed aw.gen m.brokeGen then s'.brokenBack x popped
      else if genPassed m.gen aw.gen then
        (match aw.op with
         | none => s'.finish srcs a (if m.broken ∧ aw.gen = m.brokeGen then 1 else 0) 4
         | some _ =>
           if m.broken ∧ aw.gen = m.brokeGen then s'.brokenBack x popped
           else ({ s' with hart := s'.hart.raise m.rflags } : State).finish srcs a m.result 4)
      else if m.broken then s'.brokenBack x popped
      else (s.pop srcs).stall
    | _, _ => (s.setHandle x (some { h with await := none })).brokenBack x popped

/-- MOOTSYNC, MOOTVOTE and MOOTRED: arrive, unless an arrival is already awaited, and wait (R362, R373,
R374). An arrival is a release (R365). A table entry that is gone is a broken moot's (log 62). -/
def State.syncOp (s : State) (a : GReg) (x : BitVec 3) (srcs : List GReg) (c : Option (MootOp × Word)) : Out State :=
  match s.hart.handle x with
  | none => .next (s.handleTrap x)
  | some h =>
    s.atTable h.table h.name
      (match h.await with
       | some aw =>
         (match s.blocked [] a with
          | some t => .next t
          | none => .next (s.await a x [] (if mqCount srcs = 0 then none else some aw.operand)))
       | none =>
         match s.moot h.table h.name with
         | none => .next (s.brokenTrap x)
         | some m =>
           if m.broken then .next (s.brokenTrap x)
           else
             match s.blocked srcs a with
             | some t => .next t
             | none =>
               if h.ahead m || s.arrivalWaits h then .next s.stall
               else .next ((s.arriveAt x h m c true).await a x srcs none))

/-- MOOTSYNC (R373). -/
def execMootsync (a : GReg) (x : BitVec 3) (s : State) : Out State := s.syncOp a x [] none

/-- MOOTVOTE.ALL (R375). -/
def execMootvoteAll (a b : GReg) (x : BitVec 3) (s : State) : Out State :=
  s.syncOp a x [b] (some (.all, s.hart.src [] b))
/-- MOOTVOTE.ANY (R375). -/
def execMootvoteAny (a b : GReg) (x : BitVec 3) (s : State) : Out State :=
  s.syncOp a x [b] (some (.any, s.hart.src [] b))
/-- MOOTVOTE.COUNT (R375). -/
def execMootvoteCount (a b : GReg) (x : BitVec 3) (s : State) : Out State :=
  s.syncOp a x [b] (some (.count, s.hart.src [] b))

/-- MOOTRED.ADD (R376). -/
def execMootredAdd (a b : GReg) (t : MootType) (x : BitVec 3) (s : State) : Out State :=
  s.syncOp a x [b] (some (.red .add t, s.hart.src [] b))
/-- MOOTRED.MIN (R376). -/
def execMootredMin (a b : GReg) (t : MootType) (x : BitVec 3) (s : State) : Out State :=
  s.syncOp a x [b] (some (.red .min t, s.hart.src [] b))
/-- MOOTRED.MAX (R376). -/
def execMootredMax (a b : GReg) (t : MootType) (x : BitVec 3) (s : State) : Out State :=
  s.syncOp a x [b] (some (.red .max t, s.hart.src [] b))
/-- MOOTRED.AND (R376). -/
def execMootredAnd (a b : GReg) (x : BitVec 3) (s : State) : Out State :=
  s.syncOp a x [b] (some (.red .and .uint, s.hart.src [] b))
/-- MOOTRED.OR (R376). -/
def execMootredOr (a b : GReg) (x : BitVec 3) (s : State) : Out State :=
  s.syncOp a x [b] (some (.red .or .uint, s.hart.src [] b))
/-- MOOTRED.XOR (R376). -/
def execMootredXor (a b : GReg) (x : BitVec 3) (s : State) : Out State :=
  s.syncOp a x [b] (some (.red .xor .uint, s.hart.src [] b))

/-! ### Bytes and queries (R377, R378) -/

/-- MOOTBYTES (R377); no effect when the table entry is gone (log 62). -/
def execMootbytes (b : GReg) (x : BitVec 3) (s : State) : Out State :=
  match s.hart.handle x with
  | none => .next (s.handleTrap x)
  | some h =>
    match s.blocked [b] 0 with
    | some t => .next t
    | none =>
      let n := ((s.hart.src [] b).extractLsb' 0 56).toNat
      let s1 := match s.moot h.table h.name with
        | some m => s.checkMoot h.table (m.addPend n)
        | none => s
      s.atTable h.table h.name (.next (s1.finishNone [b] 4))

/-- The attribute word of MOOTQUERY (R378). -/
def Moot.attrs (m : Moot) : Word :=
  (0#16 ++ BitVec.ofNat 16 m.members ++ BitVec.ofNat 16 m.lostcnt ++ 0#6 ++ BitVec.ofBool m.err ++
    BitVec.ofBool m.breaking ++ 0#4 ++ BitVec.ofBool m.cosched ++ BitVec.ofBool m.tol ++ m.scope : BitVec 64)

/-- A member's rank in the open generation (R356, R378). -/
def Moot.rank (m : Moot) (id : Nat) : Word :=
  match m.counted.findIdx? fun x => x.id == id with
  | some r => BitVec.ofNat 64 r
  | none => 0xFFFFFFFF

/-- The items of MOOTQUERY (R378). -/
def Moot.item (m : Moot) (id : Nat) (sel : Word) : Word :=
  match sel.toNat with
  | 0 => m.gen.setWidth 64
  | 1 => m.rank id
  | 2 => BitVec.ofNat 64 m.counted.length
  | 3 => BitVec.ofNat 64 (m.counted.filter fun x => x.left || x.arr0).length
  | 4 => BitVec.ofNat 64 m.pend
  | 5 => m.attrs
  | 6 => m.name
  | _ => 0xFFFFFFFFFFFFFFFF

/-- MOOTQUERY (R378); one whose table entry is gone takes cause 0x08 (log 62). -/
def execMootquery (a b : GReg) (x : BitVec 3) (s : State) : Out State :=
  match s.hart.handle x with
  | none => .next (s.handleTrap x)
  | some h =>
    s.atTable h.table h.name
      (match s.moot h.table h.name with
       | none => .next (s.brokenTrap x)
       | some m => s.op1 4 a b fun sel => m.item h.member sel)

/-! ### The gang barrier (R379) -/

/-- The barrier completes when every live member has arrived (R379). -/
def Gang.check (g : Gang) : Gang :=
  if g.arr &&& g.live = g.live ∧ g.live ≠ 0 then { g with gen := g.gen + 1, arr := 0 } else g

def State.gangOf (s : State) (r : GangRef) : Option Gang := (s.pdata r.home).gangs.find? fun g => g.id == r.id

/-- Replace a gang's record, or remove it when no member lives. -/
def State.setGang (s : State) (home : Nat) (g : Gang) : State :=
  let d := s.pdata home
  s.setPdata home { d with gangs :=
    if g.live = 0 then d.gangs.filter fun x => x.id != g.id else d.gangs.map fun x => if x.id = g.id then g else x }

/-- Whether the hart stands in its gang's parish (R379). -/
def State.inGangParish (s : State) (g : Gang) : Bool := g.parish == s.pp

/-- GBAR (R379). Its arrival is a release at PARISH in the gang's parish, and at DEVICE elsewhere; a waiter outside the
gang's parish also waits for the stores that a PARISH arrival ordered (log 71). A gang whose record is gone has no barrier
(log 62). -/
def execGbar (s : State) : Out State :=
  match s.hart.gang with
  | none => .next (s.finishNone [] 4)
  | some r =>
    match s.parishWait r.home, s.gangOf r with
    | some t, _ => .next t
    | none, none => .next (s.finishNone [] 4)
    | none, some g =>
      let bit : BitVec 16 := 1#16 <<< r.rank
      let first := g.arr &&& bit = 0 ∧ r.count = g.gen
      if first ∧ s.storesPending (if s.inGangParish g then .parish else .device) then .next s.stall
      else
        let g1 := if first then { g with arr := g.arr ||| bit } else g
        let g2 := g1.check
        let s1 := s.setGang r.home g2
        if g2.gen = r.count || (!s.inGangParish g && s.storesPending .device) then .next s1.stall
        else .next (({ s1 with hart := { s1.hart with gang := some { r with count := g2.gen } } } : State).finishNone [] 4)

/-- A member that ends clears its bits, which may complete the barrier (R379, R391). -/
def State.leaveGang (s : State) : State :=
  match s.hart.gang with
  | none => s
  | some r =>
    match s.gangOf r with
    | none => s
    | some g =>
      let bit : BitVec 16 := 1#16 <<< r.rank
      s.setGang r.home ({ g with live := g.live &&& ~~~bit, arr := g.arr &&& ~~~bit } : Gang).check

end Sys2Proof.Machine
end

