-- ==== Sys2Proof/Machine/Croft.lean ====
section
/-! DEFINITION. The Quern's shared state of a croft (spec 10 R314, R316, R321 to R325): accumulator rows and
their owners, and the ring latches. -/

namespace Sys2Proof.Machine

/-! ### Accumulator rows (R314) -/

/-- An accumulator row; a row that nothing wrote holds zero. -/
def Croft.row (c : Croft) (r : Nat) : BitVec 16384 := alGet 0 r c.acc
def Croft.setRow (c : Croft) (r : Nat) (v : BitVec 16384) : Croft := { c with acc := alSet r v c.acc }

/-- A 32-bit field of a row. -/
def rowGet (v : BitVec 16384) (col : Nat) : Nat := (v.extractLsb' (32 * col) 32).toNat

/-- Replace a 32-bit field of a row. -/
def rowSet (v : BitVec 16384) (col : Nat) (x : Nat) : BitVec 16384 :=
  (v &&& ~~~((0xFFFFFFFF#16384) <<< (32 * col))) ||| (BitVec.ofNat 16384 (x % 2 ^ 32) <<< (32 * col))

/-! ### Grants (R316, R321, R322) -/

/-- MGRANT (R316). -/
def Mat.grant (m : Mat) : Word := BitVec.ofNat 64 (m.grantBase * 256 + m.grantRows)

/-- Length of the run of free quarters from `q`, at most `n`. -/
def freeRun (owner : Vector (Option Place) 4) : Nat → Nat → Nat
  | 0, _ => 0
  | n + 1, q => if q < 4 ∧ owner.getD q none = none then 1 + freeRun owner n (q + 1) else 0

/-- The run that a request for `q` quarters takes: first quarter and length; the longest, and then the lowest
(R321). -/
def chooseRun (owner : Vector (Option Place) 4) (q : Nat) : Nat × Nat :=
  [0, 1, 2, 3].foldl (fun best i => let n := freeRun owner q i; if best.2 < n then (i, n) else best) (0, 0)

/-- The harts of a croft that hold a grant (R323). -/
def Croft.holders (c : Croft) : List Place := (c.owner.toList.filterMap id).eraseDups

/-- MATTACH's grant to the current hart (R321): MGRANT and the state that follows. -/
def State.attach (s : State) (rows : Word) : State :=
  let k := croftOf s.here.core
  let c := s.croft k
  let r := chooseRun c.owner (Nat.min 4 ((rows.toNat + 15) / 16))
  if r.2 = 0 then s
  else
    let c1 := { c with
      owner := (List.range r.2).foldl (fun o i => o.setIfInBounds (r.1 + i) (some s.here)) c.owner
      acc := c.acc.filter fun e => !(decide (16 * r.1 ≤ e.1) && decide (e.1 < 16 * (r.1 + r.2))) }
    { (s.setCroft k c1) with
      hart := { s.hart with mat := { s.hart.mat with grantBase := 16 * r.1, grantRows := 16 * r.2 } } }

/-! ### Latches (R323 to R325) -/

def Croft.latch (c : Croft) (n : Bool) : Latch := if n then c.n1 else c.n0
def Croft.setLatch (c : Croft) (n : Bool) (l : Latch) : Croft := if n then { c with n1 := l } else { c with n0 := l }

/-- A latch whose reader set is empty is released: with one visit left it becomes EMPTY at once, and with more
it waits to forward its tile (R323). -/
def Latch.settle (l : Latch) : Latch := if l.full && l.readers.isEmpty && decide (l.visits ≤ 1) then Latch.reset else l

/-- Whether a released latch waits to forward its tile (R324). -/
def Latch.leaving (l : Latch) : Bool := l.full && l.readers.isEmpty && decide (1 < l.visits)

/-- The tiles that wait to leave a croft on a latch number, in the order in which they became ready (R324). -/
def Croft.out (c : Croft) (n : Bool) : List (Option Place) := if n then c.out1 else c.out0
def Croft.setOut (c : Croft) (n : Bool) (l : List (Option Place)) : Croft := if n then { c with out1 := l } else { c with out0 := l }

/-- A tile becomes ready to leave. -/
def Croft.ready (c : Croft) (n : Bool) (x : Option Place) : Croft :=
  if (c.out n).contains x then c else c.setOut n (c.out n ++ [x])

/-- A latch takes a new state, and its tile may become ready to leave. -/
def Croft.put (c : Croft) (n : Bool) (l : Latch) : Croft :=
  let c := c.setLatch n l.settle
  if (c.latch n).leaving then c.ready n none else c

/-- A tile arrives in a latch of a croft (R323, R324). -/
def Croft.arrive (c : Croft) (n : Bool) (tile : BitVec 65536) (scale : BitVec 4096) (v : Nat) : Croft :=
  c.put n { full := true, tile := tile, scale := scale, visits := v, readers := c.holders, released := [] }

/-- A hart leaves the reader set of a latch (R323). A hart that is not in it has no effect (R325). -/
def Croft.release (c : Croft) (n : Bool) (p : Place) (id : BitVec 32) : Croft :=
  let l := c.latch n
  if l.full && l.readers.contains p then
    c.put n { l with readers := l.readers.filter fun q => q != p, released := id :: l.released }
  else c

/-- A tile leaves a croft: it is no longer waiting. -/
def Croft.sent (c : Croft) (n : Bool) (x : Option Place) : Croft := c.setOut n ((c.out n).erase x)

/-- The next croft of the ring (R25). -/
def nextCroft (k : CroftId) : CroftId := { k with croft := (k.croft + 1) % 8 }

/-- Forward the latch of one croft of the ring into the next one's, which is EMPTY or moves with it. -/
def State.forwardOne (s : State) (from' : Croft) (k : CroftId) (n : Bool) : State :=
  let l := from'.latch n
  s.setCroft (nextCroft k) ((s.croft (nextCroft k)).arrive n l.tile l.scale (l.visits - 1))

/-- Forward a released latch (R324): to an EMPTY latch, or, when the latches of that number all round the ring wait
to forward, all in one step. -/
def State.forward (s : State) (k : CroftId) (n : Bool) : Option State :=
  let c := s.croft k
  if (c.out n).head? ≠ some none then none
  else if ((s.croft (nextCroft k)).latch n).full = false then
    some ((s.setCroft k ((c.setLatch n Latch.reset).sent n none)).forwardOne c k n)
  else
    let ring := (List.range 8).map fun i => ({ k with croft := i } : CroftId)
    if ring.all fun x => ((s.croft x).out n).head? == some none then
      let cleared := ring.foldl (fun t x => t.setCroft x (((t.croft x).setLatch n Latch.reset).sent n none)) s
      some (ring.foldl (fun t x => t.forwardOne (s.croft x) x n) cleared)
    else none

/-- MDETACH, and the end of a task that holds a grant (R322): the current hart's quarters are free, it leaves
every reader set, and MGRANT is 0. -/
def State.detach (s : State) : State :=
  if s.hart.mat.grantRows = 0 then s
  else
    let k := croftOf s.here.core
    let c := s.croft k
    let c1 := { c with owner := c.owner.map fun o => if o = some s.here then none else o }
    { (s.setCroft k ((c1.release false s.here s.hart.taskId).release true s.here s.hart.taskId)) with
      hart := { s.hart with mat := { s.hart.mat with grantBase := 0, grantRows := 0 } } }

/-- The hart of a context is about to leave it: an MRING of its no longer waits there, and takes its turn afresh when it
runs again (R324, R140). -/
def State.leaveCroft (s : State) (p : Place) : State :=
  let k := croftOf p.core
  if alHas k s.crofts then
    let c := s.croft k
    s.setCroft k { c with out0 := c.out0.filter fun x => x != some p, out1 := c.out1.filter fun x => x != some p }
  else s

/-- A latch without the record of what a task has released. -/
def Latch.forget (l : Latch) (id : BitVec 32) : Latch := { l with released := l.released.filter fun x => x != id }

/-- A task has ended: no latch records what it released. -/
def State.forgetReleases (s : State) (id : BitVec 32) : State :=
  { s with crofts := s.crofts.map fun e => (e.1, { e.2 with n0 := e.2.n0.forget id, n1 := e.2.n1.forget id }) }

/-- A released latch forwards its tile (R324). -/
def execLatchForward (c : CroftId) (n : Bool) (s : State) : Out State :=
  match s.forward c n with
  | some t => .next t
  | none => .refused (.notEnabled "LATCH_FORWARD")

end Sys2Proof.Machine
end

