-- ==== Sys2Proof/Machine/Queue.lean ====
section
/-! DEFINITION. What a hart's vector and matrix queues may run next (spec 04 R130, R135, R136; 08 R264, R268;
10 R327, R343), and the classes that held work needs (R270). -/

namespace Sys2Proof.Machine

/-- Order of the levels (R117). -/
def Priv.rank : Priv → Nat
  | .task => 0
  | .super => 1
  | .firm => 2

/-- Index of the convoy of the hart's queue that may run next: the oldest one that is not held (R264, R268). -/
def Hart.nextConvoy (h : Hart) : Option Nat := h.vec.queue.findIdx? fun c => !c.held

/-- Index of the matrix instruction that may run next, likewise (R327, R330). -/
def Hart.nextMat (h : Hart) : Option Nat := h.mat.queue.findIdx? fun m => !m.held

/-- Whether the units of a hart run while it waits; those of one asleep on a reeve reply do not (R212). -/
def Wait.unitsRun : Wait → Bool
  | .running => true
  | .parked => true
  | .watching _ _ => true
  | .paused _ => true
  | .halted => true
  | _ => false

/-- MEXT and MEXTST, which no younger vector instruction overtakes (R327). -/
def MWork.extracts : MWork → Bool
  | .ext _ _ _ _ => true
  | .extst _ _ _ _ _ => true
  | _ => false

/-- Whether a matrix instruction accesses memory (R328). -/
def MWork.touches : MWork → Bool
  | .ld _ _ _ => true
  | .ldk _ _ _ => true
  | .st _ _ _ => true
  | .mmas _ _ _ => true
  | .extst _ _ _ _ _ => true
  | _ => false

/-- Whether a queued vector instruction accesses memory (R328). -/
def VWork.accesses : VWork → Bool
  | .load _ _ _ _ => true
  | .store _ _ _ => true
  | .gather _ _ _ => true
  | .vfsave _ => true
  | .vfrestore _ => true
  | _ => false

/-- Whether the vector queue holds back a matrix instruction (R327, R328): an extract starts only once every older
vector instruction has completed, and one that accesses memory only once every older vector access has. Held work of a
lower level holds nothing back. -/
def Hart.vecBefore (h : Hart) (m : MMember) : Bool :=
  (h.vec.queue.take m.older).any fun c =>
    !(c.held && decide (c.level.rank < m.level.rank)) &&
      (m.work.extracts || (m.work.touches && c.members.any fun x => x.work.accesses))

/-- The matrix queue once a convoy at an index of the vector queue has gone. -/
def Mat.convoyGone (x : Mat) (i : Nat) : Mat :=
  { x with queue := x.queue.map fun m => if i < m.older then { m with older := m.older - 1 } else m }

/-! ### Turns of the vector unit (R414) -/

/-- Whether a hart has a closed convoy at the head of its queue, or on a T-core an extract, whose turn may come. -/
def Hart.wantsUnit (h : Hart) (k : CoreClass) : Bool :=
  h.wait.unitsRun &&
    ((match h.nextConvoy with
      | some i => (match h.vec.queue[i]? with | some c => c.closed && c.done.isNone | none => false)
      | none => false) ||
     (k == .T &&
      match h.nextMat with
      | some i => (match h.mat.queue[i]? with | some m => m.work.extracts && !h.vecBefore m | none => false)
      | none => false))

/-- The harts of a core in the order in which the unit serves them: from the context after the one served last. -/
def State.unitOrder (s : State) (c : CoreId) : List Place :=
  let n := Config.hartsOf (Config.classOf s.member c)
  let start := (s.core c).unitLast + 1
  (List.range n).map fun i => { core := c, hart := (start + i) % n }

/-- Whether the vector unit of the core may start work of the current hart: no convoy of the core has yet to drain, and no
other context comes first (R414). -/
def State.unitTurn (s : State) : Bool :=
  let c := s.here.core
  let ps := s.unitOrder c
  !(ps.any fun p => (s.hartAt p).vec.queue.any fun x => x.done.isSome) &&
    ps.find? (fun p => (s.hartAt p).wantsUnit s.cclass) == some s.here

/-- The unit has served the current hart. -/
def State.unitServed (s : State) : State :=
  let c := s.here.core
  s.setCore c { s.core c with unitLast := s.here.hart }

/-- A convoy of the current hart has gone as far as it goes now: the unit has served it, and none of its accesses is held. -/
def State.convoyServed (s : State) : State := s.unitServed.unheldOn s.here (· == .unit)

/-- Whether neither queue holds work that can still run: what is left, if anything, is held (R391, R136). -/
def Hart.queuesIdle (h : Hart) : Bool := h.nextConvoy.isNone && h.nextMat.isNone

/-- Whether the flags of a drained convoy that hold back this one are still to be reported (R269). -/
def Hart.trapBefore (h : Hart) (c : Convoy) : Bool := h.fpTraps.any fun x => decide (c.level.rank ≤ x.1.rank)

/-- The held work that the level admits restarts (R130, R268): work dispatched at the level given or above, unless the
report of R269 comes first, or VFRESTORE restored it for TASK alone (R271). -/
def Hart.unhold (h : Hart) (l : Priv) : Hart :=
  { h with
    vec := { h.vec with queue := h.vec.queue.map fun c =>
      if l.rank ≤ c.level.rank ∧ h.trapBefore c = false ∧ (c.toTask = true → l = .task) then
        { c with held := false, toTask := false }
      else c }
    mat := { h.mat with queue := h.mat.queue.map fun m => if l.rank ≤ m.level.rank then { m with held := false } else m } }

/-- The vector work of a level stops and is held, with what is queued behind it at that level or below (R267,
R269). -/
def Hart.holdConvoys (h : Hart) (l : Priv) : Hart :=
  { h with vec := { h.vec with queue := h.vec.queue.map fun c =>
    if c.level.rank ≤ l.rank then { c with held := true, closed := true } else c } }

/-- The matrix work of a level stops and is held, likewise (R330). -/
def Hart.holdMats (h : Hart) (l : Priv) : Hart :=
  { h with mat := { h.mat with queue := h.mat.queue.map fun m => if m.level.rank ≤ l.rank then { m with held := true } else m } }

/-- A trap delivered to the hart at a place, which need not be the current one; its pc is the boundary (R126,
R135, R213). -/
def State.trapAt (s : State) (p : Place) (code : BitVec 8) (value : Word) (acc : BitVec 2) (vec : Bool) : State :=
  let h := s.hartAt p
  let h' := h.takeTrap code value false acc vec h.pc
  let s := s.setHart p h'
  if h'.wait = .lockup then s.logRas 3 0 ((hidOf s.member p h.compute).toNat % 2 ^ 20) else s

end Sys2Proof.Machine
end

