-- ==== Sys2Proof/Machine/Tasks.lean ====
section
/-! DEFINITION. Tasks (spec 12 R381 to R395, R401): identities and the live-task tables, the queue of a
parish, SPAWN, JOIN, TASKEND, MSGDONE, YIELD and the kill. -/

namespace Sys2Proof.Machine

/-! ### Queues of parishes that do not run (R471) -/

/-- The host parish of a parish (R471): the lowest of its die that is in RUN, else package parish 0. -/
def State.hostParish (s : State) (pp : Nat) : Nat :=
  match Config.parishPlace s.member pp with
  | some (d, _) =>
    let base := Config.firstParish s.member d
    (((List.range (Config.parishesOf s.member d)).map fun i => base + i).find? s.runs).getD 0
  | none => 0

/-! ### The live-task table (R381, R382) -/

/-- HOME of an identity (R381). -/
def homeOfTask (id : BitVec 32) : Nat := (id.extractLsb' 24 8).toNat

/-- The entry of an identity in its HOME table. -/
def State.taskEntry (s : State) (id : BitVec 32) : Option TaskEntry :=
  (s.pdata (homeOfTask id)).tasks.find? fun e => e.id == id

/-- Change an entry; it is freed once its task has ended and its counter is 0 (R382). -/
def State.updTask (s : State) (id : BitVec 32) (f : TaskEntry → TaskEntry) : State :=
  let pp := homeOfTask id
  let d := s.pdata pp
  s.setPdata pp { d with tasks := (d.tasks.map fun e => if e.id = id then f e else e).filter fun e => !(e.ended && e.join == 0) }

/-- Whether a task is live (R381). -/
def State.isLive (s : State) (id : BitVec 32) : Bool :=
  match s.taskEntry id with
  | some e => !e.ended
  | none => false

/-- Whether `n` consecutive serials from `b` give identities that no entry of the table holds. -/
def serialsFree (tasks : List TaskEntry) (pp n b : Nat) : Bool :=
  decide (b + n ≤ 2 ^ 24) && decide (0 < pp * 2 ^ 24 + b) &&
    (List.range n).all fun i => !tasks.any fun e => e.id == BitVec.ofNat 32 (pp * 2 ^ 24 + b + i)

/-- The first such serial at or after `b`, going round. -/
def findSerial (tasks : List TaskEntry) (pp n : Nat) : Nat → Nat → Nat
  | 0, b => b
  | fuel + 1, b => if serialsFree tasks pp n b then b else findSerial tasks pp n fuel (if b + 1 < 2 ^ 24 then b + 1 else 0)

/-- Whether the table of a parish has `n` free entries (R382). -/
def State.tableRoom (s : State) (pp n : Nat) : Bool := decide ((s.pdata pp).tasks.length + n ≤ 4096)

/-- `n` consecutive identities with HOME `pp`, and their entries (R381, R382). Which serial the Steward gives is
a free value (log 12). -/
def State.newTasks (s : State) (pp n : Nat) : BitVec 32 × State :=
  let (k, s) := s.draw
  let d := s.pdata pp
  let b := findSerial d.tasks pp n 131072 (Config.freeSerial k).toNat
  let id (i : Nat) : BitVec 32 := BitVec.ofNat 32 (pp * 2 ^ 24 + b + i)
  (id 0, s.setPdata pp { d with tasks :=
    d.tasks ++ (List.range n).map fun i => { id := id i, join := 0, ended := false, kill := false } })

/-! ### The queue of a parish (R383, R395, R397) -/

/-- SIZE of SY.STWOVF, in records (R385). -/
def ParishData.overflowSize (d : ParishData) : Nat := 64 * (d.stwovf.extractLsb' 0 12).toNat

/-- Whether a record finds room in the queue or its overflow area (R395). -/
def State.queueRoom (s : State) (pp : Nat) : Bool :=
  let d := s.pdata pp
  decide (d.queue.length < 1024) || decide (d.overflow.length < d.overflowSize)

/-- The parish whose queue takes a record meant for `pp`: its own in RUN, or while the links to the host parish sleep, from
where it moves on (R200, R471). -/
def State.queueParish (s : State) (pp : Nat) : Nat :=
  if s.runs pp || !s.reaches (s.dieOf pp) (s.dieOf (s.hostParish pp)) then pp else s.hostParish pp

/-- A task record as an overflow area holds it, with the address of its saved Carter frame (R383). -/
def TaskRec.bytes (r : TaskRec) (frame : Word) : List Byte :=
  let b (n v : Nat) : List Byte := bytesOf n v
  b 8 r.desc.toNat ++ b 8 r.arg.toNat ++ b 4 r.id.toNat ++ b 4 r.parent.toNat ++ b 2 r.ctx.asid.toNat ++ b 1 r.ctx.ccid.toNat ++
    b 1 r.ctx.frm.toNat ++ b 4 (r.prio + 4 * r.level + 16 * r.kill.toNat + 32 * r.cosched.toNat) ++ b 8 r.ctx.ptroot.toNat ++
    b 8 r.mixctl.toNat ++ b 8 (if r.resume.isSome then frame.toNat else 0) ++ b 8 0

/-- Physical address of a slot of an overflow area (R385). -/
def ParishData.slotAddr (d : ParishData) (i : Nat) : Nat := (d.stwovf.extractLsb' 12 40).toNat * 4096 + 64 * i

/-- The first of `n` slots from `b` on that holds no record; which one the Steward takes is a free value (log 34). -/
def ParishData.emptySlot (d : ParishData) (b : Nat) : Nat → Option Nat
  | 0 => none
  | n + 1 =>
    let i := b % d.overflowSize
    if d.overflow.any fun r => r.slot == some i then d.emptySlot (b + 1) n else some i

/-- The Steward writes bytes of the record in a slot, where HBM holds the area: the store is its to perform. -/
def State.putSlot (s : State) (pp : Nat) (slot : Option Nat) (off : Nat) (bs : List Byte) : State :=
  match slot with
  | some i =>
    let a := (s.pdata pp).slotAddr i
    if s.region a = .hbm then { s with slotWrites := s.slotWrites ++ [(pp, a + off, bs)] } else s
  | none => s

/-- The oldest store of a Steward is performed at the home of its line, as an agent's that holds no copy (R214, R488); one to
a lost home is lost (R465). None while it waits, and wakes nothing more. -/
def State.serveSlots (s : State) : Option State :=
  match s.slotWrites with
  | [] => none
  | (pp, a, bs) :: t =>
    let line := lineOf a
    if s.lostDies.contains (lineHome line) || s.lostDies.contains (s.dieOf pp) then some { s with slotWrites := t }
    else
      match s.farFrom (s.dieOf pp) line (sectorBits line a bs.length) true with
      | .ok u => some (({ u with slotWrites := t } : State).putBytes a bs)
      | .error u => s.ifWoken (s.waitedBy u)

/-- A record enters the overflow area behind those already there (R395). One that finds the area full too stays with the
Steward, without a slot (log 59). -/
def State.overflowRecord (s : State) (pp : Nat) (r : TaskRec) : State :=
  let (k, s) := s.draw
  let d := s.pdata pp
  let r := { r with slot := d.emptySlot (Config.freeSlot k) (Nat.min d.overflowSize (d.overflow.length + 1)) }
  (s.putSlot pp r.slot 0 (r.bytes (Config.freeFrame k))).setPdata pp { d with overflow := d.overflow ++ [r] }

/-- A record enters a queue, behind the records already there; a full queue sends it to the overflow area
(R395, R397). -/
def State.enqueue (s : State) (pp : Nat) (r : TaskRec) : State :=
  let q := s.queueParish pp
  let s := if s.runs q then s else s.wake (s.dieOf q) (s.dieOf (s.hostParish q))
  let (t, s) := s.tick
  let d := s.pdata q
  let r := { r with since := t, slot := none }
  if d.queue.length < 1024 then s.setPdata q { d with queue := d.queue ++ [r] } else s.overflowRecord q r

/-- The context registers of a hart (R202, R390). -/
def Hart.ctx (h : Hart) : Ctx := { asid := h.asid, ptroot := h.ptroot, ccid := h.ccid, frm := h.frm }

/-- The co-scheduled groups of a hart: its gang, and every co-scheduled moot that it is a member of (R364, R400). -/
def State.groupsOf (s : State) (h : Hart) : List GroupKey :=
  (match h.gang with | some g => [.gang g.id.toNat] | none => []) ++
    h.handles.toList.filterMap fun o =>
      match o with
      | some v => (s.moot v.table v.name).bind fun m => if m.cosched then some (.moot v.table v.name.toNat) else none
      | none => none

/-- A hart as its Carter frame holds it after pre-emption or YIELD on a core of class `k` (R138, R140). -/
def Hart.packed (h : Hart) (k : CoreClass) : Hart :=
  { ((h.settleWindow k).closeConvoy).noPages with wait := .running, wordsHere := 0, evict := false, urgent := false }

/-- The record of a task that has run on a core (R383, R399). -/
def State.recordOf (s : State) (h : Hart) (c : CoreId) : TaskRec :=
  { desc := h.desc
    arg := h.arg
    id := h.taskId
    parent := h.parent
    ctx := h.ctx
    prio := h.prio
    level := h.prio
    kill := false
    cosched := !(s.groupsOf h).isEmpty
    mixctl := h.mixctl
    resume := some (h.packed (Config.classOf s.member c))
    left := some c
    since := 0
    slot := none }

/-- A hart is about to leave its context: no access of its is held, and nothing of it waits in its croft. -/
def State.vacating (s : State) (p : Place) : State := (s.leaveCroft p).unheld p

/-! ### SPAWN (R387 to R390) -/

/-- Whether KIND names a core class that the member lacks (R388, R389). -/
def State.kindLacks (s : State) (kind : Nat) : Bool :=
  match kind with
  | 2 => !Config.hasCore s.member .V
  | 3 => !Config.hasCore s.member .T
  | _ => false

/-- Whether the caller's join counter can grow by `n` (R389). A hart that runs no task counts nothing. -/
def State.joinRoom (s : State) (n : Nat) : Bool :=
  match s.taskEntry s.hart.taskId with
  | some e => decide (e.join.toNat + n < 2 ^ 32)
  | none => true

/-- A refused SPAWN's result (R389). -/
def spawnRefused (code : Nat) : Word := (1#64 <<< 63) + BitVec.ofNat 64 code

/-- `spawn` (R389): its result, and the state that follows. -/
def State.spawn (s : State) (d arg : Word) (prio : Nat) : Word × State :=
  let n := (d.extractLsb' 60 4).toNat + 1
  let kind := (d.extractLsb' 58 2).toNat
  let pp := s.pp
  if d.extractLsb' 56 2 ≠ 0 ∨ d.getLsbD 0 then (spawnRefused 1, s)
  else if 1 < n ∧ kind = 0 then (spawnRefused 2, s)
  else if s.kindLacks kind then (spawnRefused 3, s)
  else if !s.tableRoom pp n || !s.queueRoom (s.queueParish pp) || !s.joinRoom n then (spawnRefused 4, s)
  else
    let h := s.hart
    let (id, s1) := s.newTasks pp n
    let r : TaskRec :=
      { desc := d, arg := arg, id := id, parent := h.taskId, ctx := h.ctx, prio := prio, level := prio, kill := false
        cosched := decide (1 < n), mixctl := h.mixctl, resume := none, left := some s.here.core, since := 0
        slot := none }
    let s2 := s1.enqueue pp r
    (id.setWidth 64, s2.updTask h.taskId fun e => { e with join := e.join + BitVec.ofNat 32 n })

/-- SPAWN (R389): one that succeeds is a release at DEVICE (R394). -/
def execSpawn (a b c : GReg) (p : BitVec 2) (s : State) : Out State :=
  match s.blocked [b, c] a with
  | some t => .next t
  | none =>
    let r := s.spawn (s.hart.src [] b) (s.hart.src [b] c) p.toNat
    if !r.1.getLsbD 63 && s.storesPending .device then .next s.stall
    else .next (r.2.finish [b, c] a r.1 4)

/-! ### The start of a task (R390) -/

/-- A hart that starts: every register that R390 does not name holds its reset or task-start value. -/
def Hart.starting (pc : Word) (level : Priv) (c : Ctx) (id : BitVec 32) (prio t : Nat) : Hart :=
  { Hart.reset with
    pc := pc
    status := Status.start level
    taskId := id
    prio := prio
    placedAt := t
    asid := c.asid
    ptroot := c.ptroot
    ccid := c.ccid
    frm := c.frm }

/-- SY.MIXCTL with ORIGIN set to a core class (R138). -/
def withOrigin (m : Word) (k : CoreClass) : Word :=
  (m &&& ~~~(0x3000000 : Word)) ||| ((Config.cclassCode k).setWidth 64 <<< 24)

/-- Member `rank` of a spawned task as it starts on a core of class `k` (R390). -/
def TaskRec.start (r : TaskRec) (rank : Nat) (k : CoreClass) (t : Nat) : Hart :=
  let n := (r.desc.extractLsb' 60 4).toNat + 1
  let h := Hart.starting ((r.desc.extractLsb' 0 56).setWidth 64) .task r.ctx (r.id + BitVec.ofNat 32 rank) r.prio t
  { ((h.writeG 4 r.arg).writeG 5 (BitVec.ofNat 64 (if n = 1 then 0 else n * 65536 + rank))).writeG 6 (r.parent.setWidth 64) with
    parent := r.parent
    desc := r.desc
    arg := r.arg
    mixctl := withOrigin r.mixctl k
    compute := r.desc.extractLsb' 58 2 != 0 }

/-! ### The end of a task (R391, R392) -/

/-- The parishes whose tables the end of the current hart's task needs: for the task, for its parent, for its gang, and for
the moots that it leaves (R361, R379, R391). -/
def State.endTables (s : State) : List Nat :=
  ([s.hart.taskId] ++ if s.hart.parent = 0 then [] else [s.hart.parent]).map homeOfTask ++
    (match s.hart.gang with | some r => [r.home] | none => []) ++
    s.hart.bound.filterMap fun h => match h.table with | .parish pp => some pp | .device => none

/-- What holds up an end: a table of a parish that is not in RUN, or a link on the way to one, or to the home of a moot
(R199, R200, R471). -/
def State.endWait (s : State) : Option State :=
  match s.endTables.findSome? s.parishWait with
  | some t => some t
  | none => s.hart.bound.findSome? fun h => s.tableWait h.table h.name

/-- VALID and EN of the windows that a task owns become 0 (R386). -/
def State.dropWindows (s : State) (id : BitVec 32) : State :=
  { s with cores := s.cores.map fun (e : CoreId × Core) =>
      if e.2.howner.getLsbD 63 && e.2.howner.extractLsb' 0 32 == id then
        (e.1, { e.2 with howner := e.2.howner &&& 0xFFFFFFFF, hen := false })
      else e }

/-- Steps 3 to 7 of R391 for the task of the current hart; a killed task is lost in its moots (R392). -/
def State.endTask (s : State) (killed : Bool) : State :=
  let id := s.hart.taskId
  let parent := s.hart.parent
  let s1 := ((((s.leaveAll killed).detach.vacating s.here).leaveGang).forgetReleases id).dropWindows id
  let s2 := if parent = 0 then s1 else s1.updTask parent fun e => { e with join := if e.join = 0 then 0 else e.join - 1 }
  let s3 := s2.updTask id fun e => { e with ended := true }
  { s3 with hart := Hart.vacant }

/-- Whether TASKEND and MSGDONE end the task as killed (R392). -/
def Hart.inHandler (h : Hart) : Bool :=
  match h.status.priv with
  | .task => false
  | .super => h.status.sbusy
  | .firm => h.status.fbusy

/-- TASKEND and MSGDONE (R391): they wait for the queues, until the task's stores are performed at DEVICE (R182), and for
the tables that the end needs (R200, R471). -/
def State.finishTask (s : State) : State :=
  if !s.hart.queuesIdle || s.storesPending .device then s.stall
  else
    match s.endWait with
    | some t => t
    | none => s.endTask s.hart.inHandler

/-- TASKEND (R391). -/
def execTaskend (s : State) : Out State := .next s.finishTask

/-- MSGDONE (R391). -/
def execMsgdone (s : State) : Out State := .next s.finishTask

/-- JOIN (R393): the hart parks until the join counter of its task is 0, and while the table that holds it is out of reach
(R200, R471). -/
def execJoin (s : State) : Out State :=
  match s.parishWait (homeOfTask s.hart.taskId) with
  | some t => .next t
  | none =>
    match s.taskEntry s.hart.taskId with
    | none => .next (s.finishNone [] 4)
    | some e => .next (if e.join = 0 then s.finishNone [] 4 else s.stall)

/-- YIELD (R132): at TASK the task goes back to its parish queue, behind the tasks ready at its priority, and the
context is free. While neither the queue nor its overflow area has room, it waits (log 59). A pinned hart resumes only in its own context (R322), and goes on in it. -/
def execYield (s : State) : Out State :=
  match s.hart.status.priv with
  | .task =>
    if s.hart.mat.grantRows ≠ 0 then .next (s.finishNone [] 4)
    else if !s.queueRoom (s.queueParish s.pp) then .next s.stall
    else
      let s1 := s.finishNone [] 4
      .next { ((s1.enqueue s1.pp (s1.recordOf s1.hart s1.here.core)).vacating s1.here) with hart := Hart.vacant }
  | _ => .next (s.finishNone [] 4)

/-! ### Kill (R401) -/

/-- The place of the hart that runs a task. -/
def State.placeOf (s : State) (id : BitVec 32) : Option Place := s.places.find? fun p => (s.hartAt p).taskId == id

/-- Whether a record is that of one task alone, and not of a gang that has not started. -/
def TaskRec.single (r : TaskRec) : Bool := r.resume.isSome || r.desc.extractLsb' 60 4 == 0

/-- The mark of a killed task's record in an overflow area (R383, R401). -/
def State.markSlots (s : State) (id : BitVec 32) : State :=
  (s.parishes.flatMap fun e => (e.2.data.overflow.filter fun r => r.id == id && r.single).map fun r => (e.1, r)).foldl
    (fun s (x : Nat × TaskRec) => s.putSlot x.1 x.2.slot 28
      (bytesOf 1 (x.2.prio + 4 * x.2.level + 16 + 32 * x.2.cosched.toNat))) s

/-- Mark the waiting record and table entry of a task, or its frame (R401). -/
def State.markKill (s : State) (id : BitVec 32) : State :=
  let f (r : TaskRec) : TaskRec := if r.id = id ∧ r.single then { r with kill := true } else r
  let s1 : State := { s.markSlots id with
    parishes := s.parishes.map fun (e : Nat × Parish) =>
      (e.1, { e.2 with data := { e.2.data with queue := e.2.data.queue.map f, overflow := e.2.data.overflow.map f } })
    carter := s.carter.map fun x => if x.hart.taskId = id then { x with hart := { x.hart with pend2 := true } } else x }
  if s.carter.any fun x => x.hart.taskId == id then s1 else s1.updTask id fun e => { e with kill := true }

/-- The dies where a task stands: its hart's, its frame's, and those of the parishes that hold its record (R382). -/
def State.taskDies (s : State) (id : BitVec 32) : List Nat :=
  ((s.placeOf id).toList.map fun p => p.core.die) ++
    ((s.carter.filter fun f => f.hart.taskId == id).map fun f => f.origin.die) ++
    (s.parishes.filter fun e => (e.2.data.queue ++ e.2.data.overflow).any fun r => r.id == id).map fun e => s.dieOf e.1

/-- A kill waits for the HOME table of the task, and for the links from there to where the task stands (R200, R401, R471). An
identity without a HOME in the member is none's. -/
def State.killWait (s : State) (id : BitVec 32) : Option State :=
  let home := homeOfTask id
  if Config.parishCount s.member ≤ home then none
  else
    match s.parishWait home with
    | some t => some t
    | none =>
      if !s.isLive id then none
      else ((s.taskDies id).find? fun d => !s.reaches (s.dieOf home) d).map fun d => (s.wake (s.dieOf home) d).stall

/-- The kill notice reaches a task (R401, R462, R465): at its hart, or before its first instruction. -/
def State.notify (s : State) (id : BitVec 32) : State :=
  match s.placeOf id with
  | some p => s.setHart p { s.hartAt p with pend2 := true }
  | none => s.markKill id

/-- A write of SY.TKILL (R401); an identity that is not live is ignored. -/
def State.kill (s : State) (id : BitVec 32) : State := if s.isLive id then s.notify id else s

end Sys2Proof.Machine
end

