-- ==== Sys2Proof/Machine/Engines.lean ====
section
/-! DEFINITION. Engine requests (spec 13 R416 to R426): XCOPY, QWALK and KICK, the queues, what an engine reads and
writes, and how a request reports its end. A request runs in one step (log 13). -/

namespace Sys2Proof.Machine

/-! ### Submission (R420, R421) -/

/-- The engine to which a record goes decides its size and where it may lie. -/
inductive RecordKind where
  | copy | walk
  deriving DecidableEq, Repr

/-- Size and alignment of a record (R427, R441). -/
def RecordKind.size : RecordKind → Nat
  | .copy => 256
  | .walk => 128

/-- The checks of R420 on a record address: its physical address, and the state after the translation. -/
def State.checkRecord (s : State) (k : RecordKind) (ra : Word) : Got Nat :=
  if ra.toNat % k.size ≠ 0 then .bad { cause := 0x04, addr := ra, perm := false }
  else
    match s.checkMap s.who { acc := 3, need := .read, style := .engine } ra k.size with
    | .bad b => .bad b
    | .busy t => .busy t
    | .done ps s1 =>
      match ps with
      | p :: _ =>
        if k = .walk ∧ p.region ≠ .hbm then .bad { cause := 0x06, addr := ra, perm := false } else .done p.pa s1
      | [] => .bad { cause := 0x06, addr := ra, perm := false }

/-- The request as captured from the current hart (R420). -/
def State.capture (s : State) (pa : Nat) : EngReq × State :=
  let (t, s) := s.tick
  ({ rec' := pa, level := s.hart.status.priv, ctx := s.hart.ctx, since := t, bytes := [] }, s)

/-- What XCOPY and QWALK answer when the queue is full (R420). -/
def queueFull : Word := 0x8000000000000001

/-- The copy queue of a die, and the walk queue of a W-die (R417). -/
def State.copyQueue (s : State) (d : Nat) : List EngReq := alGet [] d s.copyQ
def State.walkQueue (s : State) (w : Nat) : List EngReq := alGet [] w s.walkQ

/-- XCOPY (R420). A refusal changes nothing but gA; the request is a release at DEVICE. -/
def execXcopy (a b : GReg) (s : State) : Out State :=
  match s.blocked [b] a with
  | some t => .next t
  | none =>
    match s.checkRecord .copy (s.hart.src [] b) with
    | .bad e => .next (s.fail e 3)
    | .busy t => .next t.stall
    | .done pa s1 =>
      let d := s.here.core.die
      if 256 ≤ (s.copyQueue d).length then .next (s.finish [b] a queueFull 4)
      else if s.storesPending .device then .next s.stall
      else
        let (r, s2) := s1.capture pa
        .next (({ s2 with copyQ := alSet d (s2.copyQueue d ++ [r]) s2.copyQ } : State).finish [b] a 0 4)

/-- QWALK (R420). -/
def execQwalk (a b : GReg) (s : State) : Out State :=
  match s.blocked [b] a with
  | some t => .next t
  | none =>
    match s.checkRecord .walk (s.hart.src [] b) with
    | .bad e => .next (s.fail e 3)
    | .busy t => .next t.stall
    | .done pa s1 =>
      let w := homeOf pa
      if s.lostDies.contains w then .next (s.trap 0x0D (s.hart.src [] b) 3)
      else
        match s.reachDie s.here.core.die w with
        | .error t => .next t.stall
        | .ok _ =>
          if 64 ≤ (s.walkQueue w).length then .next (s.finish [b] a queueFull 4)
          else if s.storesPending .device then .next s.stall
          else
            let (r, s2) := s1.capture pa
            .next (({ s2 with walkQ := alSet w (s2.walkQueue w ++ [r]) s2.walkQ } : State).finish [b] a 0 4)

/-- The record that an engine hart takes (R421, R456). -/
def recordOfEngine (e : EngineId) : RecordKind := if e.parish = 1 then .walk else .copy

/-- The engine hart whose kick register lies at a physical address (R418). -/
def kickedBy (ps : List Piece) : Option EngineId :=
  match ps with
  | [p] => (match p.region with | .dev off => kickSlot off | _ => none)
  | _ => none

/-- KICK (R421): a store-release at DEVICE, which stalls while the queue is full. -/
def execKick (b c : GReg) (s : State) : Out State :=
  match s.blocked [b, c] 0 with
  | some t => .next t
  | none =>
    let va := s.hart.src [] b
    match s.check s.who { acc := 2, need := .write, style := .kick } va 8 with
    | .bad e => .next (s.fail e 2)
    | .busy t => .next t.stall
    | .done ps s1 =>
      match kickedBy ps with
      | none => .next (s.trap 0x06 va 2)
      | some e =>
        match s1.checkRecord (recordOfEngine e) (s.hart.src [b] c) with
        | .bad x => .next (s1.fail x 3)
        | .busy t => .next t.stall
        | .done pa s2 =>
          if s2.lostDies.contains e.die then .next (s2.trap 0x0D va 2)
          else
            match s2.reachDie s.here.core.die e.die with
            | .error t => .next t.stall
            | .ok _ =>
              if 16 ≤ (s2.kicks e).length || s2.storesPending .device then .next s2.stall
              else
                let (r, s3) := s2.capture pa
                .next (({ s3 with kickQ := alSet e (s3.kicks e ++ [r]) s3.kickQ } : State).finishNone [b, c] 4)

/-! ### Queues (R417) -/

/-- The shared queue that an engine hart serves (R417). -/
def State.sharedQueue (s : State) (e : EngineId) : List EngReq :=
  match e.parish with
  | 0 => s.copyQueue e.die
  | 1 => s.walkQueue e.die
  | 2 => s.lockQ
  | _ => []

/-- The request that an engine hart takes next, and whether it stands in its kick queue: the older head, and the kick
queue's of two appended in one cycle (R417). -/
def State.nextReq (s : State) (e : EngineId) : Option (EngReq × Bool) :=
  match (s.kicks e).head?, (s.sharedQueue e).head? with
  | some k, some q => if q.since < k.since then some (q, false) else some (k, true)
  | some k, none => some (k, true)
  | none, some q => some (q, false)
  | none, none => none

/-- The request leaves its queue. -/
def State.takeReq (s : State) (e : EngineId) (kick : Bool) : State :=
  if kick then { s with kickQ := alSet e ((s.kicks e).drop 1) s.kickQ }
  else
    match e.parish with
    | 0 => { s with copyQ := alSet e.die ((s.copyQueue e.die).drop 1) s.copyQ }
    | 1 => { s with walkQ := alSet e.die ((s.walkQueue e.die).drop 1) s.walkQ }
    | 2 => { s with lockQ := s.lockQ.drop 1 }
    | _ => s

/-- Whether the engine hart exists, its die is there, and it neither waits for the Lockhouse queue nor is at work on a
request in steps (R416, R417). -/
def State.engineFree (s : State) (e : EngineId) : Bool :=
  (kickSlot (0x20000 + (e.die * 128 + e.parish * 32 + e.core) * 8)) == some e && !s.lostDies.contains e.die &&
    !(s.lockWait ++ s.migrating).any fun x => x.1 == e

/-- The engine harts that are at work, or have a request to take. -/
def State.busyEngines (s : State) : List EngineId :=
  s.migrating.map (fun e => e.1) ++ ((s.kickQ.filter fun e => !e.2.isEmpty).map fun e => e.1) ++
    ((s.copyQ.filter fun e => !e.2.isEmpty).flatMap fun e =>
      (List.range (if e.1 = 0 then 8 else 4)).map fun i => { die := e.1, parish := 0, core := i }) ++
    ((s.walkQ.filter fun e => !e.2.isEmpty).map fun e => { die := e.1, parish := 1, core := 0 }) ++
    (if s.lockQ.isEmpty then [] else [{ die := 0, parish := 2, core := 0 }])

/-! ### Accesses (R424 to R426, R488) -/

/-- For whom an engine hart translates: the captured context (R424). -/
def EngReq.who (r : EngReq) (e : EngineId) : Who :=
  { level := r.level, asid := r.ctx.asid, ptroot := r.ctx.ptroot, ccid := r.ctx.ccid, host := r.ctx.ccid,
    agent := .engine e, pages := [] }

def How.engRead : How := { acc := 1, need := .read, style := .engine }
def How.engWrite : How := { acc := 2, need := .write, style := .engine }

/-- What an engine's access to its parts asks of homes and links: `f` for each line (R488). -/
def State.visitAll (s : State) (die : Nat) (f : Piece → State → Nat → Held) : List Piece → Held
  | [] => .ok s
  | p :: t => (s.visit die p (f p)).bind fun s => s.visitAll die f t

/-- A read by an engine, at the homes of its lines, which leaves every directory entry as it is (R488). -/
def State.engRead (s : State) (w : Who) (a : Word) (n : Nat) : Got (List Byte) :=
  match s.check w .engRead a n with
  | .bad b => .bad b
  | .busy t => .busy t
  | .done ps s1 =>
    match s1.visitAll w.die (fun _ s l => s.homeRead w.die l) ps with
    | .error t => .busy t
    | .ok s2 => .done (s2.getPieces ps) s2

/-- A checked write by an engine at the homes of its lines (R488). -/
def State.engPut (s : State) (die : Nat) (ps : List Piece) (bs : List Byte) : Got Unit :=
  match s.visitAll die (fun p s l => s.farFrom die l (p.sectors l) true) ps with
  | .error t => .busy t
  | .ok t => .done () (t.putPieces ps bs)

/-- A write by an engine (R488). -/
def State.engWrite (s : State) (w : Who) (a : Word) (bs : List Byte) : Got Unit :=
  match s.check w .engWrite a bs.length with
  | .bad b => .bad b
  | .busy t => .busy t
  | .done ps s1 => s1.engPut w.die ps bs

/-- A write by an engine, with the parts of memory that took it. -/
def State.engWritten (s : State) (w : Who) (a : Word) (bs : List Byte) : Got (List Piece) :=
  match s.check w .engWrite a bs.length with
  | .bad b => .bad b
  | .busy t => .busy t
  | .done ps s1 =>
    match s1.engPut w.die ps bs with
    | .bad b => .bad b
    | .busy t => .busy t
    | .done _ t => .done ps t

/-! ### Records -/

/-- A little-endian field of a record. -/
def recField (bs : List Byte) (off n : Nat) : Nat := numOf ((bs.drop off).take n)

/-- A 64-bit field of a record. -/
def wordOf (bs : List Byte) (off : Nat) : Word := BitVec.ofNat 64 (recField bs off 8)

/-- Whether the bytes of a field are zero. -/
def zeroIn (bs : List Byte) (off n : Nat) : Bool := ((bs.drop off).take n).all fun x => x == 0

/-- A part of a record, by the physical address that its translation gave (R420). -/
def State.recordPiece (s : State) (w : Who) (a n : Nat) : Piece := s.pieceAt w (a, n) a none

/-- How an engine's access to 8 bytes of its record fails: their place is gone, or step 7 (R426, R452). -/
def State.unitFault (s : State) (w : Who) (h : How) (a : Nat) : Option Bad :=
  let p := s.recordPiece w a 8
  let bad (c : BitVec 8) : Option Bad := some { cause := c, addr := BitVec.ofNat 64 a, perm := false }
  if !p.reachable { w with level := .firm } h then bad 0x06 else if !s.dataOk w h p then bad 0x0D else none

/-- How an engine's access to `n` bytes of its record fails, 8 bytes at a time: at the lowest address that fails (R426,
R428). -/
def State.recordFault (s : State) (w : Who) (h : How) (a n : Nat) : Option Bad :=
  (List.range (n / 8)).findSome? fun i => s.unitFault w h (a + 8 * i)

/-- What an engine finds where its record stands (R428). -/
inductive ReadRecord where
  | ok (bs : List Byte)
  /-- the access fails (R426) -/
  | failed (b : Bad) (bs : List Byte)
  | busy (s : State)

/-- The engine reads its whole record, by the physical address of R420, or has it from the copy-engine hart. -/
def State.readRecord (s : State) (w : Who) (r : EngReq) (n : Nat) : ReadRecord :=
  if !r.bytes.isEmpty then .ok r.bytes
  else
    let bs := s.memBytes r.rec' n
    match s.recordFault w .engRead r.rec' n with
    | some b => .failed b bs
    | none =>
      match s.visitAll w.die (fun _ s l => s.homeRead w.die l) [s.recordPiece w r.rec' n] with
      | .error t => .busy t
      | .ok _ => .ok bs

/-! ### Completion (R422, R423) -/

/-- STATUS codes (R422). -/
inductive EndStatus where
  | ok | fault | badrec | tagfail | replay | nokey | exhaust | priv | migbusy
  deriving DecidableEq, Repr

def EndStatus.code : EndStatus → Nat
  | .ok => 1
  | .fault => 2
  | .badrec => 3
  | .tagfail => 4
  | .replay => 5
  | .nokey => 6
  | .exhaust => 7
  | .priv => 8
  | .migbusy => 9

/-- How a request ended: STATUS, CAUSE, COUNT, and word 1 (R422). -/
structure Ended where
  status : EndStatus
  cause : BitVec 8
  count : Nat
  addr : Word
  deriving DecidableEq, Repr

def Ended.ok (count : Nat) : Ended := { status := .ok, cause := 0, count := count, addr := 0 }
def Ended.failed (b : Bad) (count : Nat) : Ended := { status := .fault, cause := b.cause, count := count, addr := b.addr }
def Ended.plain (x : EndStatus) : Ended := { status := x, cause := 0, count := 0, addr := 0 }

/-- Word 0 of a mailbox (R422). -/
def Ended.word (x : Ended) : Word :=
  (BitVec.ofNat 8 x.status.code ++ x.cause ++ 0#8 ++ BitVec.ofNat 40 x.count : BitVec 64)

/-- How a record asks for its report (R422, R423): DONE, MBOX, MOOTNAME, MOOTPAR, and the byte total. -/
structure Notice where
  done : Nat
  mbox : Word
  name : Word
  par : Nat
  total : Nat
  deriving DecidableEq, Repr

/-- The moot table that MOOTPAR names (R423). -/
def State.parTable (s : State) (par : Nat) : Option MootTable :=
  if par = 0xFFFF then some .device else if par < Config.parishCount s.member then some (.parish par) else none

/-- The parish whose table holds a request up, because it is not in RUN (R471). -/
def State.noticeHeld (s : State) (n : Notice) : Option Nat :=
  if n.done / 2 % 2 = 1 ∧ n.par < Config.parishCount s.member ∧ s.runs n.par = false ∧
      s.lostDies.contains (s.dieOf n.par) = false then some n.par else none

/-- What remains of a request's bytes is subtracted from PEND; BADREC subtracts nothing (R423). -/
def State.landed (s : State) (r : EngReq) (n : Notice) (x : Ended) : State :=
  if n.done / 2 % 2 = 1 ∧ x.status ≠ .badrec then
    match s.parTable n.par with
    | some t => s.pendSub t n.name (n.total - r.landed)
    | none => s
  else s

/-- Nothing of an engine's request is left unanswered. -/
def State.settled (s : State) (e : EngineId) : State :=
  { s with timeout := if s.timeout = some (.engine e) then none else s.timeout }

/-- The report of a request that has ended: the mailbox, word 1 and then word 0, and the moot (R422, R423). A store that
fails loses the report. It waits while the mailbox's line does. -/
def State.report (s : State) (e : EngineId) (r : EngReq) (n : Notice) (x : Ended) : Held :=
  let w := r.who e
  if n.done % 2 = 0 ∨ n.mbox.toNat % 16 ≠ 0 then .ok ((s.settled e).landed r n x)
  else
    match s.engWrite w (n.mbox + 8) (bytesOf 8 x.addr.toNat) with
    | .busy t => .error t
    | .bad _ => .ok ((s.settled e).landed r n x)
    | .done _ s1 =>
      match s1.engWrite w n.mbox (bytesOf 8 x.word.toNat) with
      | .busy t => .error t
      | .bad _ => .ok ((s1.settled e).landed r n x)
      | .done _ s2 => .ok ((s2.settled e).landed r n x)

/-- The die that holds the moot of a notice (R347, R423). -/
def State.noticeDie (s : State) (n : Notice) : Option Nat :=
  if n.done / 2 % 2 = 1 then
    (s.parTable n.par).map fun t => match t with | .parish pp => s.dieOf pp | .device => mootHome n.name
  else none

/-- A request ends now, unless the parish whose moot its notice names is not in RUN, or a link on the way to the moot has to
wake: then it waits, and asks for the parish (R200, R423, R471). -/
def State.endReq (s : State) (e : EngineId) (n : Notice) (k : State → Held) : Held :=
  match s.noticeHeld n with
  | some pp => if (s.parish pp).pw.pend then .error s else .ok (s.setPend pp)
  | none =>
    match (s.noticeDie n).filter fun d => !s.lostDies.contains d with
    | some d => (s.reachDie e.die d).bind k
    | none => k s


/-! ### Serving a request -/

/-- How a request's work ends, with the state after it; `error` while it waits. -/
abbrev Worked := Except State (Ended × State)

/-- One request of an engine hart, from its queue to its report. `f` answers how the request ends, for the records
that the event serves, and the state after its work. A record whose read fails asks for its report as its bytes stand (log
81). -/
def State.serveReq (s : State) (e : EngineId) (size : Nat) (mine : List Byte → Bool) (notice : List Byte → Notice)
    (f : EngReq → List Byte → State → Worked) : Held :=
  if !s.engineFree e then .error s
  else
    match s.nextReq e with
    | none => .error s
    | some (r, kick) =>
      match s.readRecord (r.who e) r size with
      | .busy t => .error t
      | .failed b bs =>
        if !mine bs then .error s
        else s.endReq e (notice bs) fun s => (s.takeReq e kick).report e r (notice bs) (.failed b 0)
      | .ok bs =>
        if !mine bs then .error s
        else
          s.endReq e (notice bs) fun s =>
            (f r bs (s.takeReq e kick)).bind fun x => x.2.report e r (notice bs) x.1

/-- The answer of an engine's row, when the engine hart is of the kind that the row names. -/
def State.engineRow (s : State) (name : String) (ok : Bool) (o : Held) : Out State :=
  if !ok then .refused (.notEnabled name)
  else
    match o with
    | .ok t => .next t
    | .error t => s.heldRow name t

end Sys2Proof.Machine
end

