-- ==== Sys2Proof/Machine/Copy.lean ====
section
/-! DEFINITION. The copy engine (spec 13 R427 to R431; 06 R214) and the Quarrier's walks (13 R441 to R443). -/

namespace Sys2Proof.Machine

/-! ### The copy record (R427, R428) -/

/-- A copy record (R427). -/
structure CopyRec where
  mode : Nat
  esize : Nat
  ndim : Nat
  done : Nat
  src : Word
  dst : Word
  mbox : Word
  lens : List Nat
  sstr : List Word
  dstr : List Word
  deriving DecidableEq, Repr

/-- The fields of a copy record (R427). -/
def copyRec (bs : List Byte) : CopyRec :=
  { mode := recField bs 0 1
    esize := recField bs 1 1
    ndim := recField bs 2 1
    done := recField bs 3 1
    src := wordOf bs 8
    dst := wordOf bs 16
    mbox := wordOf bs 24
    lens := (List.range 10).map fun d => recField bs (48 + 4 * d) 4
    sstr := (List.range 10).map fun d => wordOf bs (88 + 8 * d)
    dstr := (List.range 10).map fun d => wordOf bs (168 + 8 * d) }

/-- Number of elements: the product of the lengths (R429). -/
def CopyRec.total (r : CopyRec) : Nat := (r.lens.take r.ndim).foldl (fun a b => a * b) 1

/-- How a copy record asks for its report; its byte total (R423). -/
def copyNotice (bs : List Byte) : Notice :=
  let r := copyRec bs
  { done := r.done, mbox := r.mbox, name := wordOf bs 32, par := recField bs 40 2
    total := if 2 ≤ r.mode then r.lens.headD 0 else r.total * 2 ^ r.esize }

/-- What R428 asks of every mode. -/
def CopyRec.common (r : CopyRec) (bs : List Byte) : Bool :=
  decide (r.mode ≤ 3 ∧ r.esize ≤ 3 ∧ 1 ≤ r.ndim ∧ r.ndim ≤ 10 ∧ r.done ≤ 3) && zeroIn bs 4 4 && zeroIn bs 42 6 &&
    zeroIn bs 248 8 && ((r.lens.take r.ndim).all fun n => n != 0) && decide (r.total ≤ 2 ^ 40) &&
    (r.done % 2 == 0 || r.mbox.toNat % 16 == 0)

/-- What R428 asks of COPY and MIGRATE beside. -/
def CopyRec.plain (r : CopyRec) (bs : List Byte) : Bool :=
  r.common bs && ((r.lens.drop r.ndim).all fun n => n == 0) && ((r.sstr.drop r.ndim).all fun x => x == 0) && (r.dstr.drop r.ndim).all fun x => x == 0

/-- Source and destination of element `x` (R429): dimension 0 varies fastest. -/
def CopyRec.at (r : CopyRec) (x : Nat) : Word × Word :=
  let step (a : Nat × Word × Word) (d : Nat) : Nat × Word × Word :=
    let n := r.lens.getD d 1
    let i := BitVec.ofNat 64 (a.1 % n)
    (a.1 / n, a.2.1 + i * r.sstr.getD d 0, a.2.2 + i * r.dstr.getD d 0)
  ((List.range r.ndim).foldl step (x, r.src, r.dst)).2

/-- The elements from `x` up, in ascending order; the first access that fails ends the request (R429, R430). -/
def State.copyFrom (s : State) (w : Who) (r : CopyRec) : Nat → Nat → Worked
  | 0, x => .ok (.ok x, s)
  | n + 1, x =>
    let p := r.at x
    match s.engRead w p.1 (2 ^ r.esize) with
    | .busy t => .error t
    | .bad b => .ok (.failed b x, s)
    | .done bs s1 =>
      match s1.engWrite w p.2 bs with
      | .busy t => .error t
      | .bad b => .ok (.failed b x, s1)
      | .done _ s2 => s2.copyFrom w r n (x + 1)

/-! ### SEAL and OPEN records at a copy-engine hart (R417, R434) -/

/-- What R434 asks of a SEAL or OPEN record. -/
def CopyRec.sealed (r : CopyRec) (bs : List Byte) : Bool :=
  r.common bs && r.ndim == 1 && r.esize == 0 && r.sstr.headD 0 == 1 && r.dstr.headD 0 == 1 &&
    decide (r.lens.headD 0 ≤ 2 ^ 24) && (r.mode == 2 || r.dst.toNat % 65536 == 0) && decide (recField bs 96 1 ≤ 63) &&
    decide (recField bs 97 1 ≤ 16) && zeroIn bs 98 6 && zeroIn bs 136 32

/-- A SEAL or OPEN request goes on to the Lockhouse queue, or waits for room in it (R417). -/
def State.passOn (s : State) (e : EngineId) (r : EngReq) : State :=
  let (t, s) := s.tick
  let r := { r with since := t }
  if s.lockQ.length < 64 ∧ s.lockWait.isEmpty then { s with lockQ := s.lockQ ++ [r] }
  else { s with lockWait := s.lockWait ++ [(e, r)] }

/-- LOCKHOUSE_ADMIT (R417): the wait that reached the queue first enters it. -/
def execLockhouseAdmit (s : State) : Out State :=
  match s.lockWait with
  | (_, r) :: t =>
    if s.lockQ.length < 64 then
      let (n, s1) := s.tick
      .next { s1 with lockWait := t, lockQ := s.lockQ ++ [{ r with since := n }] }
    else .refused (.notEnabled "LOCKHOUSE_ADMIT")
  | [] => .refused (.notEnabled "LOCKHOUSE_ADMIT")

/-- The copy engine passes a well-formed SEAL or OPEN record to the Lockhouse (R417, R428). -/
def State.passRecord (s : State) (e : EngineId) : Option State :=
  if !s.engineFree e || e.parish != 0 then none
  else
    match s.nextReq e with
    | none => none
    | some (r, kick) =>
      match s.readRecord (r.who e) r 256 with
      | .ok bs =>
        let c := copyRec bs
        if decide (2 ≤ c.mode ∧ c.mode ≤ 3) && c.sealed bs then some ((s.takeReq e kick).passOn e { r with bytes := bs }) else none
      | _ => none

/-- The elements of a COPY request that its earlier steps have performed (R423). -/
def EngReq.copied (r : EngReq) (c : CopyRec) : Nat := r.landed / 2 ^ c.esize

/-- The work of a COPY record, from the first element not yet performed, and of a record whose MODE, or whose other fields,
R428 or R434 refuses. -/
def copyWork (e : EngineId) (r : EngReq) (bs : List Byte) (s : State) : Worked :=
  let c := copyRec bs
  if c.mode = 0 ∧ c.plain bs then s.copyFrom (r.who e) c (c.total - r.copied c) (r.copied c) else .ok (.plain .badrec, s)

/-- The request on which an engine hart is at work in steps (R423, R431). -/
def State.atWork (s : State) (e : EngineId) (mode : Nat) : Option EngReq :=
  (s.migrating.find? fun x => x.1 == e && (copyRec x.2.bytes).mode == mode).map fun x => x.2

/-- The engine hart is at work on no request. -/
def State.workEnds (s : State) (e : EngineId) : State := { s with migrating := s.migrating.filter fun y => y.1 != e }

/-- A COPY request, part of whose elements earlier steps have performed, goes to its end (R423, R429, R430). -/
def State.copyRest (s : State) (e : EngineId) (r : EngReq) : Held :=
  s.endReq e (copyNotice r.bytes) fun s =>
    (copyWork e r r.bytes (s.workEnds e)).bind fun x => x.2.report e r (copyNotice r.bytes) x.1

/-- COPY (R428, R429): an engine hart goes on with the COPY at which it is at work, or takes its next request, when that is
no MIGRATE record. A SEAL or OPEN record goes on to the Lockhouse (R417). A Lockhouse hart carries out a record that KICK
gave to it alone (R421). -/
def execCopyRecord (e : EngineId) (s : State) : Out State :=
  match s.atWork e 0 with
  | some r => s.engineRow "COPY" true (s.copyRest e r)
  | none =>
    match s.passRecord e with
    | some t => .next t
    | none =>
      let mine (bs : List Byte) : Bool := recField bs 0 1 != 1 && (e.parish == 0 || decide (recField bs 0 1 = 0 ∨ 4 ≤ recField bs 0 1))
      s.engineRow "COPY" (e.parish == 0 || e.parish == 2) (s.serveReq e 256 mine copyNotice (copyWork e))

/-! ### MIGRATE (R431, R214) -/

/-- What R431 asks of a MIGRATE record. -/
def CopyRec.migrates (r : CopyRec) (bs : List Byte) : Bool :=
  let hbm (a : Word) : Bool := decide (a.toNat < 2 ^ 39)
  r.plain bs && r.ndim == 1 && r.esize == 3 && r.lens.headD 0 == 8192 && r.sstr.headD 0 == 8 && r.dstr.headD 0 == 8 &&
    r.src.toNat % 65536 == 0 && r.dst.toNat % 65536 == 0 &&
    ((hbm r.src && inCxl r.dst.toNat) || (inCxl r.src.toNat && hbm r.dst))

/-- The home of a migration entry: a W-die, or the G-die for a CXL page (R214). The lines of an HBM page lie on all eight
W-dies, and the home of its first line is taken (log 57). -/
def migHome (page : Nat) : Nat := if page < 2 ^ 39 then homeOf page else 0

/-- Whether the home of a page has a free entry, and none for the page (R431). -/
def State.migRoom (s : State) (old : Nat) : Bool :=
  (!s.migs.any fun m => m.old == old) && decide ((s.migs.filter fun m => migHome m.old == migHome old).length < 16)

/-- The next line of a page to copy: they go in ascending order. -/
def Migration.next (m : Migration) : Option Nat := (List.range 512).find? fun i => !m.bits.getLsbD i

/-- The entry of a page in another form. -/
def State.setMig (s : State) (m : Migration) : State := { s with migs := s.migs.map fun x => if x.old = m.old then m else x }

/-- A MIGRATE request that R431 admits takes its entry, and its engine hart, a copy engine's or one of the Lockhouse that
KICK gave the record to (R421), is at work on it. -/
def State.startMigration (s : State) (e : EngineId) : Option State :=
  if !s.engineFree e || !(e.parish == 0 || e.parish == 2) then none
  else
    match s.nextReq e with
    | none => none
    | some (r, kick) =>
      match s.readRecord (r.who e) r 256 with
      | .ok bs =>
        let c := copyRec bs
        if c.mode == 1 && c.migrates bs && r.level != .task && s.migRoom c.src.toNat then
          some { s.takeReq e kick with
            migs := s.migs ++ [{ old := c.src.toNat, new := c.dst.toNat, bits := 0 }]
            migrating := s.migrating ++ [(e, { r with bytes := bs })] }
        else none
      | _ => none

/-- The migrations in progress with a page that an entry of the range table covers (R452). -/
def State.copiesIn (s : State) (e : RangeEntry) : Bool :=
  s.migrating.any fun x => (copyRec x.2.bytes).mode == 1 &&
    (e.covers (copyRec x.2.bytes).src.toNat || e.covers (copyRec x.2.bytes).dst.toNat)

/-- The request of a migration ends; the entry stays (R431). -/
def State.endMigration (s : State) (e : EngineId) (r : EngReq) (x : Ended) : Held :=
  s.endReq e (copyNotice r.bytes) fun s =>
    (s.workEnds e).report e r (copyNotice r.bytes) x

/-- The next line of a page is copied, as one step at the home (R214); a line that fails ends the request, and so does
the last (R431). SRC and DST are physical addresses. A request whose entry system software has freed ends as one that
gets none (log 11). -/
def State.copyLine (s : State) (e : EngineId) (r : EngReq) : Held :=
  let w : Who := { r.who e with level := .firm }
  match s.migOf (copyRec r.bytes).src.toNat with
  | none => s.endMigration e r (.plain .migbusy)
  | some m =>
    match m.next with
    | none => s.endMigration e r (.ok 8192)
    | some i =>
      match s.engRead w (BitVec.ofNat 64 (m.old + 128 * i)) 128 with
      | .busy t => .error t
      | .bad b => s.endMigration e r (.failed b (16 * i))
      | .done bs s1 =>
        match s1.engWrite w (BitVec.ofNat 64 (m.new + 128 * i)) bs with
        | .busy t => .error t
        | .bad b => s.endMigration e r (.failed b (16 * i))
        | .done _ s2 => .ok (s2.setMig { m with bits := m.bits ||| (1#512 <<< i) })

/-- The work of a MIGRATE record that does not start (R431). -/
def migrateWork (r : EngReq) (bs : List Byte) (s : State) : Worked :=
  .ok (.plain (if (copyRec bs).migrates bs = false then .badrec else if r.level = .task then .priv else .migbusy), s)

/-- MIGRATE_RECORD (R431): the engine hart takes a record, or copies the next line of the page at which it works, or
reports. -/
def execMigrateRecord (e : EngineId) (s : State) : Out State :=
  match s.atWork e 1 with
  | some r => s.engineRow "MIGRATE_RECORD" true (s.copyLine e r)
  | none =>
    match s.startMigration e with
    | some t => .next t
    | none =>
      s.engineRow "MIGRATE_RECORD" (e.parish == 0 || e.parish == 2)
        (s.serveReq e 256 (fun bs => recField bs 0 1 == 1) copyNotice migrateWork)

/-! ### Walks (R441 to R443) -/

/-- A walk record (R441). -/
structure WalkRec where
  mode : Nat
  done : Nat
  steps : Nat
  count : Nat
  start : Word
  offs : Word
  nbrs : Word
  paths : Word
  seed : BitVec 32
  nvert : Nat
  mbox : Word
  deriving DecidableEq, Repr

def walkRec (bs : List Byte) : WalkRec :=
  { mode := recField bs 0 1
    done := recField bs 1 1
    steps := recField bs 2 2
    count := recField bs 4 4
    start := wordOf bs 8
    offs := wordOf bs 16
    nbrs := wordOf bs 24
    paths := wordOf bs 32
    seed := BitVec.ofNat 32 (recField bs 40 4)
    nvert := recField bs 44 4
    mbox := wordOf bs 48 }

/-- Bytes of a path entry (R442). -/
def WalkRec.entry (r : WalkRec) : Nat := if r.mode = 0 then 8 else 4

/-- How a walk record asks for its report; its byte total (R441). -/
def walkNotice (bs : List Byte) : Notice :=
  let r := walkRec bs
  { done := r.done, mbox := r.mbox, name := wordOf bs 56, par := recField bs 64 2, total := r.count * (r.steps + 1) * r.entry }

/-- What R441 asks of a walk record. -/
def WalkRec.ok (r : WalkRec) (bs : List Byte) : Bool :=
  decide (r.mode ≤ 1 ∧ r.done ≤ 3 ∧ 1 ≤ r.steps ∧ r.steps ≤ 4096 ∧ 1 ≤ r.count ∧ r.count ≤ 2 ^ 24) && zeroIn bs 66 62 &&
    (r.mode == 1 || (r.nbrs == 0 && r.nvert == 0)) && (r.done % 2 == 0 || r.mbox.toNat % 16 == 0)

/-- A walk's answer: it is complete, or an access failed; `error` while it waits. -/
abbrev Walked := Except State (Option Bad × State)

/-- Address of entry `i` of walk `w` (R442). -/
def WalkRec.entryAt (r : WalkRec) (w i : Nat) : Word := r.paths + BitVec.ofNat 64 ((w * (r.steps + 1) + i) * r.entry)

/-- Write an entry, and go on. -/
def State.putEntry (s : State) (who : Who) (r : WalkRec) (w i v : Nat) (k : State → Walked) : Walked :=
  match s.engWrite who (r.entryAt w i) (bytesOf r.entry v) with
  | .busy t => .error t
  | .bad b => .ok (some b, s)
  | .done _ s1 => k s1

/-- Read a number, and go on. -/
def State.getNum (s : State) (who : Who) (a : Word) (n : Nat) (k : Nat → State → Walked) : Walked :=
  match s.engRead who a n with
  | .busy t => .error t
  | .bad b => .ok (some b, s)
  | .done bs s1 => k (numOf bs) s1

/-- The steps of a chase from entry `i` up, with the pointer reached (R442). -/
def State.chaseFrom (s : State) (who : Who) (r : WalkRec) (w : Nat) : Nat → Nat → Nat → Walked
  | 0, _, _ => .ok (none, s)
  | n + 1, i, p =>
    if p = 0 then s.putEntry who r w i 0 fun s1 => s1.chaseFrom who r w n (i + 1) 0
    else
      s.getNum who (BitVec.ofNat 64 p + r.offs) 8 fun q s1 =>
        s1.putEntry who r w i q fun s2 => s2.chaseFrom who r w n (i + 1) q

/-- A chase (R442). -/
def State.chaseWalk (s : State) (who : Who) (r : WalkRec) (w : Nat) : Walked :=
  s.getNum who (r.start + BitVec.ofNat 64 (8 * w)) 8 fun p s1 =>
    s1.putEntry who r w 0 p fun s2 => s2.chaseFrom who r w r.steps 1 p

/-- The dead end's entry (R442). -/
def walkEnd : Nat := 0xFFFFFFFF

/-- The steps of a random walk from entry `i` up: the vertex reached, whether the walk has ended, and the generator
(R442). -/
def State.uwalkFrom (s : State) (who : Who) (r : WalkRec) (w : Nat) : Nat → Nat → Nat → Bool → BitVec 32 → Walked
  | 0, _, _, _, _ => .ok (none, s)
  | n + 1, i, v, ended, g =>
    let stop (s : State) : Walked :=
      s.putEntry who r w i walkEnd fun s1 => s1.uwalkFrom who r w n (i + 1) v true g
    if ended || decide (r.nvert ≤ v) then stop s
    else
      s.getNum who (r.offs + BitVec.ofNat 64 (8 * v)) 8 fun lo s1 =>
        s1.getNum who (r.offs + BitVec.ofNat 64 (8 * (v + 1))) 8 fun hi s2 =>
          if hi ≤ lo then stop s2
          else
            let g1 := srNext g
            let j := g1.toNat * (hi - lo) / 2 ^ 32
            s2.getNum who (r.nbrs + BitVec.ofNat 64 (4 * (lo + j))) 4 fun u s3 =>
              s3.putEntry who r w i u fun s4 => s4.uwalkFrom who r w n (i + 1) u false g1

/-- The first state of a walk's generator (R442). -/
def WalkRec.first (r : WalkRec) (w : Nat) : BitVec 32 :=
  let x := r.seed ^^^ BitVec.ofNat 32 (w * 0x9E3779B9)
  if x = 0 then 0x5EEDC0DE else x

/-- A random walk (R442). -/
def State.uwalkWalk (s : State) (who : Who) (r : WalkRec) (w : Nat) : Walked :=
  s.getNum who (r.start + BitVec.ofNat 64 (4 * w)) 4 fun v s1 =>
    s1.putEntry who r w 0 v fun s2 => s2.uwalkFrom who r w r.steps 1 v false (r.first w)

/-- The walks from `w` up, ascending; the first that fails ends the request, and COUNT is its number (R443). -/
def State.walksFrom (s : State) (one : State → Nat → Walked) : Nat → Nat → Worked
  | 0, w => .ok (.ok w, s)
  | n + 1, w =>
    match one s w with
    | .error t => .error t
    | .ok (some b, s1) => .ok (.failed b w, s1)
    | .ok (none, s1) => s1.walksFrom one n (w + 1)

/-- The work of a walk record (R441 to R443). -/
def walkWork (e : EngineId) (q : EngReq) (bs : List Byte) (s : State) : Worked :=
  let r := walkRec bs
  if !r.ok bs then .ok (.plain .badrec, s)
  else
    s.walksFrom (fun s w => if r.mode = 0 then s.chaseWalk (q.who e) r w else s.uwalkWalk (q.who e) r w) r.count 0

/-- CHASE (R442); a record with a MODE that R441 refuses ends here too. -/
def execChase (e : EngineId) (s : State) : Out State :=
  s.engineRow "CHASE" (e.parish == 1) (s.serveReq e 128 (fun bs => recField bs 0 1 != 1) walkNotice (walkWork e))

/-- UWALK (R442). -/
def execUwalk (e : EngineId) (s : State) : Out State :=
  s.engineRow "UWALK" (e.parish == 1) (s.serveReq e 128 (fun bs => recField bs 0 1 == 1) walkNotice (walkWork e))

end Sys2Proof.Machine
end

