-- ==== Sys2Proof/Machine/Collective.lean ====
section
/-! DEFINITION. The network engine's collectives (spec 14 R455 to R457). What the other ranks contribute comes from
outside the device: an event carries it, in the order of the ranks, the device's own left out. -/

namespace Sys2Proof.Machine

/-- A collective record (R456). -/
structure CollRec where
  op : Nat
  type : Nat
  rop : Nat
  done : Nat
  nrank : Nat
  myrank : Nat
  src : Word
  dst : Word
  mbox : Word
  len : Nat
  peers : Word
  deriving DecidableEq, Repr

def collRec (bs : List Byte) : CollRec :=
  { op := recField bs 0 1
    type := recField bs 1 1
    rop := recField bs 2 1
    done := recField bs 3 1
    nrank := recField bs 4 2
    myrank := recField bs 6 2
    src := wordOf bs 8
    dst := wordOf bs 16
    mbox := wordOf bs 24
    len := recField bs 48 8
    peers := wordOf bs 56 }

/-- The operand type (R456, R376). -/
def CollRec.mootType (r : CollRec) : MootType :=
  match r.type with
  | 0 => .sint
  | 1 => .uint
  | 2 => .fp32
  | _ => .fp64

/-- Bytes of an element of the type (R376). -/
def CollRec.esize (r : CollRec) : Nat := if r.type = 2 then 4 else 8

/-- The combination (R456). -/
def CollRec.redOp (r : CollRec) : RedOp :=
  match r.rop with
  | 0 => .add
  | 1 => .min
  | _ => .max

/-- Whether the fields lie in their ranges (R456; log 29). -/
def CollRec.ok (r : CollRec) (bs : List Byte) : Bool :=
  decide (r.op ≤ 3 ∧ r.type ≤ 3 ∧ r.rop ≤ 2 ∧ r.done ≤ 3 ∧ 2 ≤ r.nrank ∧ r.nrank ≤ 512 ∧ r.myrank < r.nrank ∧
    r.len % r.esize = 0) && zeroIn bs 42 6 && zeroIn bs 64 192 && (r.done % 2 == 0 || r.mbox.toNat % 16 == 0)

/-- The elements that a rank receives from REDUCESCATTER: its equal share, in rank order (log 29). -/
def CollRec.slice (r : CollRec) : Nat × Nat :=
  let n := r.len / r.esize
  if n % r.nrank = 0 then (r.myrank * (n / r.nrank), n / r.nrank) else Config.scatterSlice n r.nrank r.myrank

/-- Bytes written to DST, which are the byte total of R423 (R456). -/
def CollRec.written (r : CollRec) : Nat :=
  match r.op with
  | 1 => r.nrank * r.len
  | 2 => Nat.min r.slice.2 (r.len / r.esize - r.slice.1) * r.esize
  | _ => r.len

def collNotice (bs : List Byte) : Notice :=
  let r := collRec bs
  { done := r.done, mbox := r.mbox, name := wordOf bs 32, par := recField bs 40 2, total := r.written }

/-- Bytes cut into elements. -/
def elementsOf (n : Nat) (bs : List Byte) : Nat → List Nat
  | 0 => []
  | k + 1 => numOf (bs.take n) :: elementsOf n (bs.drop n) k

/-- The reduced elements: each combines the contributions by the pairwise tree over the ranks (R457, R303, R376). -/
def CollRec.reduce (r : CollRec) (ranks : List (List Byte)) : List Nat :=
  let els := ranks.map fun bs => elementsOf r.esize bs (r.len / r.esize)
  (List.range (r.len / r.esize)).map fun j =>
    (mootResult (some (.red r.redOp r.mootType)) (els.map fun e => some (BitVec.ofNat 64 (e.getD j 0)))).1.toNat

/-- What the rank receives (R456, R457). -/
def CollRec.result (r : CollRec) (ranks : List (List Byte)) : List Byte :=
  let bytes (es : List Nat) : List Byte := es.flatMap (bytesOf r.esize)
  match r.op with
  | 0 => bytes (r.reduce ranks)
  | 1 => ranks.flatten
  | 2 => bytes (((r.reduce ranks).drop r.slice.1).take r.slice.2)
  | _ => ranks.headD []

/-- Read `n` pieces of `k` bytes from `a` up. -/
def State.readRun (s : State) (w : Who) (k : Nat) (a : Word) : Nat → List Byte → Got (List Byte)
  | 0, acc => .done acc s
  | n + 1, acc =>
    match s.engRead w a k with
    | .busy t => .busy t
    | .bad b => .bad b
    | .done bs s1 => s1.readRun w k (a + BitVec.ofNat 64 k) n (acc ++ bs)

/-- Write bytes from `a` up, `k` at a time; `i` pieces stand already. The first that fails ends the request. -/
def State.storeRun (s : State) (w : Who) (k : Nat) (a : Word) : Nat → Nat → List Byte → Worked
  | 0, i, _ => .ok (.ok i, s)
  | n + 1, i, bs =>
    match s.engWrite w a (bs.take k) with
    | .busy t => .error t
    | .bad b => .ok (.failed b i, s)
    | .done _ s1 => s1.storeRun w k (a + BitVec.ofNat 64 k) n (i + 1) (bs.drop k)

/-- A request that ends with FAULT though no access failed: word 1 is a free value. -/
def State.endFault (s : State) (cause : BitVec 8) : Ended × State :=
  let (k, s) := s.draw
  ({ status := .fault, cause := cause, count := 0, addr := Config.freeAddr k }, s)

/-- Whether a rank says the same of the collective as this record does (R457). -/
def CollRec.agrees (r : CollRec) (o : RankSays) : Bool :=
  o.op == r.op && o.type == r.type && o.rop == r.rop && o.nrank == r.nrank && o.len == r.len

/-- The work of a collective record, with what the other ranks say and contribute (R456, R457). -/
def collWork (e : EngineId) (others : List RankSays) (q : EngReq) (bs : List Byte) (s : State) : Worked :=
  let r := collRec bs
  let w := q.who e
  if !r.ok bs then .ok (.plain .badrec, s)
  else if q.ctx.ccid ≠ 0 then .ok (s.endFault 0x10)
  else if others.length + 1 ≠ r.nrank then .error s
  else if !others.all r.agrees then .ok (.plain .badrec, s)
  else if others.any fun o => o.data.length != r.len then .error s
  else
    match s.readRun w 4 r.peers r.nrank [] with
    | .busy t => .error t
    | .bad b => .ok (.failed b 0, s)
    | .done _ s1 =>
      match s1.readRun w r.esize r.src (r.len / r.esize) [] with
      | .busy t => .error t
      | .bad b => .ok (.failed b 0, s1)
      | .done mine s2 =>
        let data := others.map fun o => o.data
        let out := r.result (data.take r.myrank ++ mine :: data.drop r.myrank)
        s2.storeRun w r.esize r.dst (out.length / r.esize) 0 out

/-- A row of the network engine: it takes requests through KICK alone (R456). -/
def State.collective (s : State) (name : String) (e : EngineId) (mine : Nat → Bool) (others : List RankSays) : Out State :=
  s.engineRow name (e.parish == 3) (s.serveReq e 256 (fun bs => mine (recField bs 0 1)) collNotice (collWork e others))

/-! ### Bytes that land (R423) -/

/-- Whether a notice counts bytes in a moot: its DONE bit 1, and the table and name that it gives (R423). -/
def State.countsIn (s : State) (n : Notice) (t : MootTable) (name : Word) : Bool :=
  decide (n.done / 2 % 2 = 1) && s.parTable n.par == some t && n.name == name

/-- The bytes of a MIGRATE request whose lines its entry holds as copied (R214, R431). -/
def State.migrated (s : State) (r : EngReq) : Nat :=
  match s.migOf (copyRec r.bytes).src.toNat with
  | some m => 128 * ((List.range 512).filter fun i => m.bits.getLsbD i).length
  | none => 0

/-- Whether a MIGRATE request at work has performed so many bytes that a moot has yet to count (R423). -/
def State.owes (s : State) (t : MootTable) (name : Word) (bytes : Nat) (x : EngineId × EngReq) : Bool :=
  (copyRec x.2.bytes).mode == 1 && s.countsIn (copyNotice x.2.bytes) t name && decide (0 < bytes ∧ x.2.landed + bytes ≤ s.migrated x.2)

/-- A request at work of which so many bytes more have been subtracted. -/
def State.putLanded (s : State) (x : EngineId × EngReq) (bytes : Nat) : State :=
  { s with migrating := s.migrating.map fun y => if y = x then (x.1, { x.2 with landed := x.2.landed + bytes }) else y }

/-- The COPY request that an engine hart is at work on, or can take now, with its record, and the state in which it stands in
no list. -/
def State.copyOf (s : State) (e : EngineId) : Option (EngReq × State) :=
  match s.atWork e 0 with
  | some r => some (r, s.workEnds e)
  | none =>
    if !s.engineFree e || !(e.parish == 0 || e.parish == 2) then none
    else
      match s.nextReq e with
      | none => none
      | some (r, kick) =>
        match s.readRecord (r.who e) r 256 with
        | .ok bs => if (copyRec bs).mode == 0 && (copyRec bs).plain bs then some ({ r with bytes := bs }, s.takeReq e kick) else none
        | _ => none

/-- An engine hart performs the next piece of a COPY, of so many bytes, and subtracts them (R423, R429); a piece in which an
element fails is no such piece, and the request's own row ends it. -/
def State.copyPiece (s : State) (t : MootTable) (name : Word) (bytes : Nat) (e : EngineId) : Option Held :=
  match s.copyOf e with
  | none => none
  | some (r, s1) =>
    let c := copyRec r.bytes
    let n := copyNotice r.bytes
    if s.countsIn n t name && decide (0 < bytes ∧ bytes % 2 ^ c.esize = 0 ∧ r.landed + bytes ≤ n.total) then
      some (s.endReq e n fun _ =>
        (s1.copyFrom (r.who e) c (bytes / 2 ^ c.esize) (r.copied c)).bind fun x =>
          if x.1.status = .ok then
            .ok (({ x.2 with migrating := x.2.migrating ++ [(e, { r with landed := r.landed + bytes })] } : State).pendSub t name bytes)
          else .error s)
    else none

/-- PEND_DECREMENT (R423): an engine subtracts the bytes of a piece as it is performed: lines of a MIGRATE already copied, or
the next piece of a COPY, performed in this step. What else an engine does runs in one step, and all of its bytes are
subtracted as it ends (log 13). -/
def execPendDecrement (t : MootTable) (name : Word) (bytes : Nat) (s : State) : Out State :=
  match s.migrating.find? (s.owes t name bytes) with
  | some x =>
    s.engineRow "PEND_DECREMENT" true
      (s.endReq x.1 (copyNotice x.2.bytes) fun s => .ok ((s.putLanded x bytes).pendSub t name bytes))
  | none =>
    match s.busyEngines.findSome? (s.copyPiece t name bytes) with
    | some o => s.engineRow "PEND_DECREMENT" true o
    | none => .refused (.notEnabled "PEND_DECREMENT")

/-! ### The rows of the network engine -/

/-- ALLREDUCE (R457); a record with an OP that R456 does not name ends here too. -/
def execAllreduce (e : EngineId) (others : List RankSays) (s : State) : Out State :=
  s.collective "ALLREDUCE" e (fun o => o == 0 || decide (4 ≤ o)) others

/-- ALLGATHER (R457). -/
def execAllgather (e : EngineId) (others : List RankSays) (s : State) : Out State :=
  s.collective "ALLGATHER" e (fun o => o == 1) others

/-- REDUCESCATTER (R457). -/
def execReducescatter (e : EngineId) (others : List RankSays) (s : State) : Out State :=
  s.collective "REDUCESCATTER" e (fun o => o == 2) others

/-- BROADCAST from rank 0 (R457). -/
def execBroadcast (e : EngineId) (others : List RankSays) (s : State) : Out State :=
  s.collective "BROADCAST" e (fun o => o == 3) others

/-- COLLECTIVE_TIMEOUT: a rank does not answer within 10 ms, and the request ends with FAULT and CAUSE 0x0D (R457). -/
def execCollectiveTimeout (e : EngineId) (s : State) : Out State :=
  s.engineRow "COLLECTIVE_TIMEOUT" (e.parish == 3)
    (s.serveReq e 256 (fun _ => true) collNotice fun q bs s =>
      if !(collRec bs).ok bs then .ok (.plain .badrec, s)
      else .ok (s.endFault (if q.ctx.ccid ≠ 0 then 0x10 else 0x0D)))

end Sys2Proof.Machine
end

