-- ==== Sys2Proof/Machine/Control.lean ====
section
/-! DEFINITION. Branches, calls and jumps (spec 04 R111 to R114). -/

namespace Sys2Proof.Machine

/-- A retired instruction that transfers control (R114). -/
def State.goto (s : State) (target : Word) : State :=
  { s with hart := ({ s.hart with pc := target } : Hart).count .plain }

/-- A conditional branch: B is read before A (R51), and the displacement counts halfwords from the branch
itself (R111). -/
def State.branch (s : State) (len : Nat) (a b : GReg) (disp : Word) (rel : Word → Word → Bool) : Out State :=
  match s.blocked [b, a] 0 with
  | some t => .next t
  | none =>
    let y := s.hart.src [] b
    let x := s.hart.src [b] a
    .next (if rel x y then (s.pop [b, a]).goto (s.hart.pc + shlW disp 1) else s.finishNone [b, a] len)

/-- CALL and LCALL: the link is written, then control transfers (R112). -/
def State.callTo (s : State) (len : Nat) (a : GReg) (disp : Word) : Out State :=
  match s.blocked [] a with
  | some t => .next t
  | none => .next ((s.setDest a (s.hart.pc + BitVec.ofNat 64 len)).goto (s.hart.pc + shlW disp 1))


/-- BEQ (R111). -/
def execBeq (a b : GReg) (d : BitVec 14) (s : State) : Out State := s.branch 4 a b (imm14 d) fun x y => x == y

/-- BEQ, long form (R111). -/
def execBeqL (a b : GReg) (d : BitVec 32) (s : State) : Out State := s.branch 8 a b (imm32 d) fun x y => x == y

/-- BNE (R111). -/
def execBne (a b : GReg) (d : BitVec 14) (s : State) : Out State := s.branch 4 a b (imm14 d) fun x y => x != y

/-- BNE, long form (R111). -/
def execBneL (a b : GReg) (d : BitVec 32) (s : State) : Out State := s.branch 8 a b (imm32 d) fun x y => x != y

/-- BLT (R111). -/
def execBlt (a b : GReg) (d : BitVec 14) (s : State) : Out State := s.branch 4 a b (imm14 d) fun x y => decide (s64 x < s64 y)

/-- BLT, long form (R111). -/
def execBltL (a b : GReg) (d : BitVec 32) (s : State) : Out State := s.branch 8 a b (imm32 d) fun x y => decide (s64 x < s64 y)

/-- BGE (R111). -/
def execBge (a b : GReg) (d : BitVec 14) (s : State) : Out State := s.branch 4 a b (imm14 d) fun x y => decide (s64 y ≤ s64 x)

/-- BGE, long form (R111). -/
def execBgeL (a b : GReg) (d : BitVec 32) (s : State) : Out State := s.branch 8 a b (imm32 d) fun x y => decide (s64 y ≤ s64 x)

/-- BLTU (R111). -/
def execBltu (a b : GReg) (d : BitVec 14) (s : State) : Out State := s.branch 4 a b (imm14 d) fun x y => decide (u64 x < u64 y)

/-- BLTU, long form (R111). -/
def execBltuL (a b : GReg) (d : BitVec 32) (s : State) : Out State := s.branch 8 a b (imm32 d) fun x y => decide (u64 x < u64 y)

/-- BGEU (R111). -/
def execBgeu (a b : GReg) (d : BitVec 14) (s : State) : Out State := s.branch 4 a b (imm14 d) fun x y => decide (u64 y ≤ u64 x)

/-- BGEU, long form (R111). -/
def execBgeuL (a b : GReg) (d : BitVec 32) (s : State) : Out State := s.branch 8 a b (imm32 d) fun x y => decide (u64 y ≤ u64 x)

/-- CBNZ (R59, R111): BNE of `^` against g0. -/
def execCbnz (d : BitVec 10) (s : State) : Out State := s.branch 2 s.hart.lds 0 (d.signExtend 64) fun x y => x != y

/-- CBEZ (R59, R111): BEQ of `^` against g0. -/
def execCbez (d : BitVec 10) (s : State) : Out State := s.branch 2 s.hart.lds 0 (d.signExtend 64) fun x y => x == y

/-- CALL (R112). -/
def execCall (a : GReg) (d : BitVec 19) (s : State) : Out State := s.callTo 4 a (d.signExtend 64)

/-- LCALL (R112). -/
def execLcall (a : GReg) (d : BitVec 32) (s : State) : Out State := s.callTo 8 a (imm32 d)

/-- JUMPR reads gB before it writes the link (R113). -/
def execJumpr (a b : GReg) (i : BitVec 14) (s : State) : Out State :=
  match s.blocked [b] a with
  | some t => .next t
  | none => .next (((s.pop [b]).setDest a (s.hart.pc + 4)).goto (s.hart.src [] b + imm14 i))

end Sys2Proof.Machine
end

