-- ==== Sys2Proof/Machine/Protocol.lean ====
section
/-! DEFINITION. The homes, message by message (spec 06 R187 to R194, R481, R482, R488; 05 R159; 14 R449, R453, R454):
each row of the table is one message that a home or a parish L2 handles. Messages between one parish and one home
about one line keep their order (log 25). -/

namespace Sys2Proof.Machine

/-! ### Messages on their way -/

/-- Whether a message goes from a home to a parish. -/
def CohMsg.down : CohMsg → Bool
  | .invAck _ _ => false
  | .fwdData _ _ => false
  | _ => true

/-- The oldest message in one direction between a parish and the home of a line. -/
def State.nextMsg (s : State) (down : Bool) (pp line : Nat) : Option CohMsg :=
  s.coh.inflight.find? fun m => m.down == down && m.pp == pp && m.line == line

/-- A message has arrived. -/
def State.unsend (s : State) (m : CohMsg) : State :=
  { s with coh := { s.coh with inflight := dropFirst (fun x => x == m) s.coh.inflight } }

/-- Whether a line is one of memory that caches hold, and the die of its home is there. -/
def State.homeUp (s : State) (line : Nat) : Bool :=
  (s.region (lineAddr line)).cacheable && !s.lostDies.contains (lineHome line)

/-- Whether a parish and the home of a line reach one another: both dies are there, and the links between them are ACTIVE
(R187, R200). -/
def State.wired (s : State) (pp line : Nat) : Bool :=
  s.homeUp line && decide (pp < Config.parishCount s.member) && !s.lostDies.contains (s.dieOf pp) &&
    s.reaches (s.dieOf pp) (lineHome line)

/-! ### Operations that a home performs on its line (R157, R159) -/

/-- The kind of an atomic by its code in F[5:2] (R66). -/
def amoKindOf : Nat → AmoKind
  | 0 => .add
  | 1 => .and
  | 2 => .or
  | 3 => .xor
  | 4 => .min
  | 5 => .max
  | 6 => .minu
  | 7 => .maxu
  | 8 => .swap
  | 9 => .fadd
  | _ => .cas

/-- The bytes that an operation writes, if it writes. -/
def State.homeBytes (s : State) (addr : Nat) : HomeOp → Option (List Byte)
  | .load _ => none
  | .store data => some data
  | .amo op dbl src exp =>
    let n := if dbl then 8 else 4
    ((amoNew (amoKindOf op) dbl (s.memNum addr n) (src.toNat % 2 ^ (8 * n)) (exp.toNat % 2 ^ (8 * n))).1).map (bytesOf n)

/-- Number of bytes that an operation reaches. -/
def homeOpSize : HomeOp → Nat
  | .load n => n
  | .store data => data.length
  | .amo _ dbl _ _ => if dbl then 8 else 4

/-- Whether an operation lies in one line, and its atomic is one of R66 with natural alignment (R145). -/
def homeOpFits (addr : Nat) (op : HomeOp) : Bool :=
  decide (0 < homeOpSize op ∧ addr % lineSize (lineOf addr) + homeOpSize op ≤ lineSize (lineOf addr)) &&
    match op with
    | .amo k _ _ _ => decide (k ≤ 10) && addr % (homeOpSize op) == 0
    | _ => true

/-- Whether some cache holds a line in part, as only lines of sectored memory are held (R194). -/
def State.heldInSectors (s : State) (line : Nat) : Bool :=
  (s.coh.l2.any fun e => e.1.2 == line && e.2.valid != wholeLine line) || s.coh.well.any fun e => e.1 == line && e.2 != 0b1111

/-- The sectors that an operation at the home brings to the well cache: those that it reaches, of a line held in sectors,
and otherwise the line (R194; log 53). -/
def State.lineSectors (s : State) (line addr n : Nat) : BitVec 4 :=
  if s.heldInSectors line then sectorBits line addr n else 0b1111

/-- Those of an operation on one line. -/
def State.homeSectors (s : State) (addr n : Nat) : BitVec 4 := s.lineSectors (lineOf addr) addr n

/-- Bytes written at the home: sectors `v` into the well cache, which is dirty from there on (R159), and the new page of a
migration (R214; log 44). -/
def State.homeStore (s : State) (addr : Nat) (bs : List Byte) (v : BitVec 4) : State :=
  (s.noteWellDirty (lineOf addr) v (s.lineKept (lineOf addr))).putBytes addr bs

/-- The atomic unit performs an operation; a sector with poison is left as it is (R149). An atomic that writes nothing
brings the line to the well cache all the same (R159). -/
def State.homePerform (s : State) (addr : Nat) (op : HomeOp) (v : BitVec 4) : State :=
  match op with
  | .amo _ _ _ _ =>
    if (sectorsOf addr (homeOpSize op)).any fun x => s.poison.contains x then s
    else match s.homeBytes addr op with | some bs => s.homeStore addr bs v | none => s.wellPut (lineOf addr) v
  | _ => match s.homeBytes addr op with | some bs => s.homeStore addr bs v | none => s

/-! ### Serving a request (R191, R482) -/

/-- The parishes that receive INV for a transaction (R191, R465). -/
def State.invTargets (s : State) (t : Tx) : List Nat :=
  s.invited t.line fun p => match t.req with | .far _ _ => false | _ => p == t.pp

/-- The data that a home sends comes from the well cache, or passes through it (R191). -/
def State.sendData (s : State) (pp line : Nat) (own pend : Bool) : State :=
  (s.wellPut line 0b1111).send (.data pp line own pend)

/-- The L2 of a parish no longer owns a line: the home has its data (R194). -/
def State.disown (s : State) (pp line : Nat) : State :=
  match s.coh.l2Of pp line with
  | some x => { s with coh := s.coh.setL2 pp line { x with owned := false, dirty := false } }
  | none => s

/-- The requester owns the line from here on, and a message tells it so; that of a lost die owns nothing (R465). -/
def State.ownedFor (s : State) (t : Tx) (m : CohMsg) : State :=
  (s.setDir t.line (if s.partyLost t.pp then Dir.reset else Dir.owned t.pp)).send m

/-- What the home does once every acknowledgement has arrived, or none was needed (R191, R192, R194, R159). The sectors
that a far operation brings are those that the caches held before their copies went. -/
def State.settleTx (s : State) (t : Tx) : State :=
  match t.req with
  | .gets => s.setDir t.line { s.coh.dirOf t.line with busy := false, ackcnt := 0, reqp := 0 }
  | .getx => s.ownedFor t (.complete t.pp t.line true)
  | .upg => s.ownedFor t (.complete t.pp t.line true)
  | .far addr op => (s.homePerform addr op (s.homeSectors addr (homeOpSize op))).setDir t.line Dir.reset
  | .sectored addr data =>
    let s := (s.writeBack t.line).disown t.pp t.line
    ((s.homeStore addr data (sectorBits t.line addr data.length)).setDir t.line
      (if s.partyLost t.pp then Dir.reset else { Dir.reset with st := .S, ptrs := [ptrCode t.pp] })).send (.complete t.pp t.line false)

/-- What a transaction that ends by a store at the home asks of the home of a page that the line's own migrates to
(R214). -/
def State.mirrored (s : State) (t : Tx) : Held :=
  match t.req with
  | .far addr op => if (s.homeBytes addr op).isSome then s.touchMirror (lineOf addr) else .ok s
  | .sectored addr _ => s.touchMirror (lineOf addr)
  | _ => .ok s

/-- A transaction in progress has nothing left to wait for but the home of the new page (R214). -/
def State.later (s : State) (t : Tx) : State := { s with coh := { s.coh with settling := s.coh.settling ++ [t] } }

/-- A request that needs no answer completes at once, or once the home of the new page can take its store (R191, R214). -/
def State.settleFirst (s : State) (t : Tx) : State :=
  match s.mirrored t with
  | .ok u => u.settleTx t
  | .error u => ((s.waitedBy u).begin t 0).later t

/-- The entry is S: INV goes to the copies, and the line goes to a requester that needs its data (R191). With no copy
to remove, COMPLETE goes with the data. -/
def State.invalidateFor (s : State) (t : Tx) (needsData : Bool) : State :=
  let ps := s.invTargets t
  let s := if ps.isEmpty then s else ps.foldl (fun s p => s.send (.inv p t.line)) (s.begin t ps.length)
  let s := if needsData then s.sendData t.pp t.line true (!ps.isEmpty) else s
  if ps.isEmpty then
    (if needsData then s.setDir t.line (Dir.owned t.pp) else s.settleFirst t)
  else s

/-- The home serves a request on a line that is not BUSY (R191). -/
def State.startTx (s : State) (t : Tx) : State :=
  let d := s.coh.dirOf t.line
  let owner := s.lineOwner t.line
  -- OWNED by a parish other than the requester
  let other : Option Nat := match t.req with
    | .far _ _ => owner
    | _ => owner.filter fun q => q != t.pp
  let forward (q : Nat) : State := (s.begin t 0).send (.fwd q t.line)
  match t.req, d.st, other with
  | .gets, .I, _ => (s.setDir t.line (Dir.owned t.pp)).sendData t.pp t.line true false
  | .gets, .S, _ => (s.setDir t.line (d.addSharer t.pp)).sendData t.pp t.line false false
  | .gets, .O, none => (s.setDir t.line (Dir.owned t.pp)).sendData t.pp t.line true false
  | .upg, .S, _ => s.invalidateFor t (!d.records t.pp)
  | .getx, .S, _ => s.invalidateFor t true
  | .far _ _, .S, _ => s.invalidateFor t false
  | .sectored _ _, .S, _ => s.invalidateFor t false
  | .far _ _, _, none => s.settleFirst t
  | .sectored _ _, _, none => s.settleFirst t
  | _, .O, some q => forward q
  | _, _, _ => (s.setDir t.line (Dir.owned t.pp)).sendData t.pp t.line true false

/-- A request reaches the home: it waits while the home cannot begin, in arrival order (R191, R481, R449, R467). -/
def State.request (s : State) (t : Tx) : State :=
  if s.homeBusy t.line || s.coh.waiting.any fun x => x.line == t.line then
    { s with coh := { s.coh with waiting := s.coh.waiting ++ [t] } }
  else s.startTx t

/-- The requests that wait for a line are served as it falls free. -/
def State.pump (s : State) (line : Nat) : Nat → State
  | 0 => s
  | n + 1 =>
    if s.homeBusy line then s
    else
      match s.coh.waiting.find? fun x => x.line == line with
      | none => s
      | some t =>
        (({ s with coh := { s.coh with waiting := dropFirst (fun x => x == t) s.coh.waiting } } : State).startTx t).pump line n

/-- The requests that wait for a line, as many as there are. -/
def State.pumpAll (s : State) (line : Nat) : State := s.pump line (s.coh.waiting.length + 1)

/-- Whether a parish has a request on a line at the home (R195 merges its misses to one). -/
def State.requesting (s : State) (pp line : Nat) : Bool :=
  (s.coh.active ++ s.coh.waiting).any fun t => t.line == line && t.missOf pp

/-- Whether a parish may ask for a line now: its table has a free entry (R195). -/
def State.mayAsk (s : State) (pp line : Nat) : Bool :=
  s.wired pp line && s.runs pp && !s.requesting pp line && !s.missesFull pp && !alHas (pp, line) s.coh.evict && (s.nextMsg true pp line).isNone

/-- GETS (R191). -/
def execGets (pp line : Nat) (s : State) : Out State :=
  if !s.mayAsk pp line || alHas (pp, line) s.coh.l2 then .refused (.notEnabled "GETS")
  else .next (s.request { line := line, pp := pp, req := .gets })

/-- GETX (R191). -/
def execGetx (pp line : Nat) (s : State) : Out State :=
  if !s.mayAsk pp line || alHas (pp, line) s.coh.l2 then .refused (.notEnabled "GETX")
  else .next (s.request { line := line, pp := pp, req := .getx })

/-- UPG: a sharer asks for ownership without data (R191, R482). -/
def execUpg (pp line : Nat) (s : State) : Out State :=
  match s.coh.l2Of pp line with
  | some x =>
    if x.owned || !s.mayAsk pp line then .refused (.notEnabled "UPG")
    else .next (s.request { line := line, pp := pp, req := .upg })
  | none => .refused (.notEnabled "UPG")

/-! ### Evictions (R191, R193, R481) -/

/-- Whether an L2 may evict a line: it holds it, is not pending-own, and has no request for it (R192, R193). -/
def State.mayEvict (s : State) (pp line : Nat) (owned : Bool) : Bool :=
  match s.coh.l2Of pp line with
  | some x => x.owned == owned && !x.pendingOwn && s.wired pp line && !s.requesting pp line
  | none => false

/-- The L2 moves a line to its eviction buffer, the L1s above it lose it, and the L2 sends the notice, which the home
answers with PUT-ACK (R188, R193). -/
def State.evictLine (s : State) (pp line : Nat) : State :=
  let dirty := ((s.coh.l2Of pp line).map fun x => x.dirty).getD false
  let s := (s.recallL1 line).dropL1 (fun c => s.ppOf c == pp) line
  ({ s with coh := { s.coh.delL2 pp line with evict := alSet (pp, line) dirty s.coh.evict } } : State).send (.putAck pp line)

/-- PUTS (R191, R193): a parish that the entry does not record, or that the transaction in progress has sent an INV or
FWD, is answered and otherwise ignored. -/
def execPuts (pp line : Nat) (s : State) : Out State :=
  if !s.mayEvict pp line false then .refused (.notEnabled "PUTS")
  else
    let d := s.coh.dirOf line
    let s1 := s.evictLine pp line
    .next (if d.busy then s1 else s1.setDir line (d.puts pp))

/-- PUTX (R191, R193). -/
def execPutx (pp line : Nat) (s : State) : Out State :=
  if !s.mayEvict pp line true then .refused (.notEnabled "PUTX")
  else
    let d := s.coh.dirOf line
    let s1 := s.evictLine pp line
    if d.busy || d.st != .O || !d.records pp then .next s1
    else .next ((s1.writeBack line).setDir line Dir.reset)

/-- PUT_ACK: the L2 frees its eviction buffer's entry (R193). -/
def execPutAck (pp line : Nat) (s : State) : Out State :=
  if s.nextMsg true pp line = some (.putAck pp line) then
    let s := s.unsend (.putAck pp line)
    .next { s with coh := { s.coh with evict := alDel (pp, line) s.coh.evict } }
  else .refused (.notEnabled "PUT_ACK")

/-! ### Invalidation (R192) -/

/-- INV: the L2 removes the line from itself and its L1s and answers with INV-ACK, whether or not it holds the line; for
a parish that is not there, its die's power proxy answers (R192, R471). -/
def execInv (pp line : Nat) (s : State) : Out State :=
  if s.nextMsg true pp line = some (.inv pp line) ∧ s.wired pp line then
    let s := (s.unsend (.inv pp line)).dropL1 (fun c => s.ppOf c == pp) line
    .next (({ s with coh := s.coh.delL2 pp line } : State).send (.invAck pp line))
  else .refused (.notEnabled "INV")

/-- The transaction in progress on a line. -/
def State.activeTx (s : State) (line : Nat) : Option Tx := s.coh.active.find? fun t => t.line == line

/-- A transaction ends, and the requests behind it are served. -/
def State.endTx (s : State) (t : Tx) : State :=
  ({ s with coh := { s.coh with active := dropFirst (fun x => x == t) s.coh.active } } : State).pumpAll t.line

/-- A transaction in progress completes, now or once the home of the new page can take its store (R192, R214). -/
def State.settle (s : State) (t : Tx) : State :=
  match s.mirrored t with
  | .ok u => (u.settleTx t).endTx t
  | .error u => (s.waitedBy u).later t

/-- A transaction that waited for the home of a new page completes; none while all still wait, and wake nothing more. -/
def State.settleNext (s : State) : Option State :=
  s.coh.settling.findSome? fun t =>
    match s.mirrored t with
    | .ok u => some ((({ u with coh := { u.coh with settling := dropFirst (fun x => x == t) u.coh.settling } } : State).settleTx t).endTx t)
    | .error u => s.ifWoken (s.waitedBy u)

/-- One acknowledgement is counted; at zero the home completes the transaction (R192). -/
def State.countAck (s : State) (line : Nat) : State :=
  let d := s.coh.dirOf line
  match s.activeTx line with
  | some t =>
    let u := s.setDir line { d with ackcnt := d.ackcnt - 1 }
    if d.ackcnt ≤ 1 then u.settle t else u
  | none => s

/-- INV_ACK (R192). -/
def execInvAck (pp line : Nat) (s : State) : Out State :=
  if s.nextMsg false pp line = some (.invAck pp line) ∧ s.wired pp line then .next ((s.unsend (.invAck pp line)).countAck line)
  else .refused (.notEnabled "INV_ACK")

/-! ### Forwards (R191, R193, R159) -/

/-- The owner answers a FWD: for GETS it keeps a shared copy, and otherwise none; from its eviction buffer it answers
with the buffered data (R191, R193). -/
def execFwd (line : Nat) (s : State) : Out State :=
  match s.coh.inflight.find? fun m => match m with | .fwd _ l => l == line | _ => false with
  | some (.fwd q l) =>
    if s.nextMsg true q l ≠ some (.fwd q l) ∨ !s.wired q l then .refused (.notEnabled "FWD")
    else
      let keep : Bool := match s.activeTx l with | some t => t.req == .gets | none => false
      let s1 := (s.unsend (.fwd q l)).recallL1 l
      let s2 : State :=
        if alHas (q, l) s.coh.l2 then
          if keep then { s1 with coh := s1.coh.setL2 q l { L2.reset with valid := wholeLine l } }
          else { (s1.dropL1 (fun c => s1.ppOf c == q) l) with coh := s1.coh.delL2 q l }
        else s1
      .next (s2.send (.fwdData q l))
  | _ => .refused (.notEnabled "FWD")

/-- The line returns from its owner, and the transaction completes: for GETS the well cache is written, and for GETX the
line goes on to the requester, dirty as it is (R191, R194, R159). One whose requester is lost leaves the data at the home
(R465). -/
def State.returned (s : State) (q : Nat) (t : Tx) : State :=
  let lost := s.partyLost t.pp
  let onward : State := ((if lost then s.writeBack t.line else s).ownedFor t (.data t.pp t.line true false)).endTx t
  match t.req with
  | .gets =>
    let d : Dir := { Dir.reset with st := .S, ptrs := if lost then [ptrCode q] else [ptrCode q, ptrCode t.pp] }
    (((s.writeBack t.line).setDir t.line d).sendData t.pp t.line false false).endTx t
  | .getx => onward
  | .upg => onward
  | _ => (s.writeBack t.line).settle t

/-- FWD_DATA (R191). -/
def execFwdData (line : Nat) (s : State) : Out State :=
  match s.coh.inflight.find? fun m => match m with | .fwdData _ l => l == line | _ => false with
  | some (.fwdData q l) =>
    if !s.wired q l then .refused (.notEnabled "FWD_DATA")
    else
      (match s.activeTx l with
       | some t => .next ((s.unsend (.fwdData q l)).returned q t)
       | none => .refused (.notEnabled "FWD_DATA"))
  | _ => .refused (.notEnabled "FWD_DATA")

/-! ### Answers at the requester (R192) -/

/-- DATA_REPLY: the L2 receives the line, and holds it pending-own while COMPLETE is still to come (R192). The reply waits
while an L2 that is full has no line that it may evict (R24). -/
def execDataReply (pp line : Nat) (s : State) : Out State :=
  match s.nextMsg true pp line with
  | some (.data p l own pend) =>
    if !s.wired p l then .refused (.notEnabled "DATA_REPLY")
    else
      let s := s.unsend (.data p l own pend)
      match s.makeRoom p l with
      | none => .refused (.notEnabled "DATA_REPLY")
      | some s =>
        let x : L2 := { L2.reset with owned := own, dirty := own && alHas l s.coh.below, pendingOwn := pend, valid := wholeLine l }
        .next { s with coh := s.coh.setL2 p l x }
  | _ => .refused (.notEnabled "DATA_REPLY")

/-- COMPLETE: the L2 leaves pending-own, or a sharer that asked with UPG owns the line (R192, R482). A sectored store
that completes leaves the writer a sharer, whose copy is no longer ahead of the home (R194). -/
def execComplete (pp line : Nat) (s : State) : Out State :=
  match s.nextMsg true pp line with
  | some (.complete p l own) =>
    if !s.wired p l then .refused (.notEnabled "COMPLETE")
    else
      let s := s.unsend (.complete p l own)
      .next { s with coh := match s.coh.l2Of p l with
                | some y => s.coh.setL2 p l { y with owned := own, pendingOwn := false, ahead := [] }
                | none => s.coh }
  | _ => .refused (.notEnabled "COMPLETE")

/-! ### Atomics, sectored stores and agents without copies (R159, R194, R488, R454) -/

/-- A write or an atomic reaches the home (R159, R488). -/
def State.farRequest (s : State) (addr : Nat) (op : HomeOp) : State := s.request { line := lineOf addr, pp := 0, req := .far addr op }

/-- FAR_ATOMIC (R159). -/
def execFarAtomic (addr : Nat) (op : HomeOp) (s : State) : Out State :=
  if !s.homeUp (lineOf addr) || !homeOpFits addr op then .refused (.notEnabled "FAR_ATOMIC") else .next (s.farRequest addr op)

/-- The writer's L2 takes the bytes of a sectored store into its own copy of the sector when the store is accepted
(R194). -/
def State.takeAhead (s : State) (pp addr : Nat) (data : List Byte) : State :=
  match s.coh.l2Of pp (lineOf addr) with
  | some x =>
    let v := sectorBits (lineOf addr) addr data.length
    if x.valid &&& v == v then { s with coh := s.coh.setL2 pp (lineOf addr) { x with ahead := x.ahead ++ [(addr, data)] } } else s
  | none => s

/-- SECTORED_STORE (R194): the bytes lie in one sector. -/
def execSectoredStore (pp addr : Nat) (data : List Byte) (s : State) : Out State :=
  if !s.wired pp (lineOf addr) || !s.runs pp || data.isEmpty || decide (32 < addr % 32 + data.length) ||
      s.requesting pp (lineOf addr) || alHas (pp, lineOf addr) s.coh.evict then
    .refused (.notEnabled "SECTORED_STORE")
  else .next ((s.takeAhead pp addr data).request { line := lineOf addr, pp := pp, req := .sectored addr data })

/-- Whether a read at a home is served now, links to an owner apart: the home can begin (R191, R449, R467). -/
def State.homeServes (s : State) (addr len : Nat) : Bool :=
  s.homeUp (lineOf addr) && len != 0 && decide (addr % lineSize (lineOf addr) + len ≤ lineSize (lineOf addr)) &&
    !s.homeBusy (lineOf addr)

/-- A read at the home, which forwards it to an owner, over links that must be ACTIVE (R488, R200). -/
def State.serveRead (s : State) (name : String) (addr len : Nat) : Out State :=
  if !s.homeServes addr len then .refused (.notEnabled name)
  else
    match s.homeReaches (lineOf addr) (s.forwardTo (lineOf addr)) with
    | .ok t => .next t
    | .error t => s.heldRow name t

/-- HOME_READ (R488): a read by an agent that holds no copy. An owner returns its data and keeps its copy and its state,
and every directory entry is unchanged. It waits while the home cannot begin (R191, R449). -/
def execHomeRead (addr len : Nat) (s : State) : Out State := s.serveRead "HOME_READ" addr len

/-- HOME_WRITE (R488): a write by an agent that holds no copy, performed as a far atomic acts. -/
def execHomeWrite (addr : Nat) (data : List Byte) (s : State) : Out State :=
  if !s.homeUp (lineOf addr) || !homeOpFits addr (.store data) then .refused (.notEnabled "HOME_WRITE")
  else .next (s.farRequest addr (.store data))

/-- SCALE_UP_REQUEST (R454, R158): a peer's load, store or atomic is performed at the home here: the window of this device
maps its HBM. -/
def execScaleUpRequest (addr : Nat) (op : HomeOp) (s : State) : Out State :=
  if !lineInHbm (lineOf addr) || !s.homeUp (lineOf addr) || !homeOpFits addr op then .refused (.notEnabled "SCALE_UP_REQUEST")
  else
    match op with
    | .load n => s.serveRead "SCALE_UP_REQUEST" addr n
    | _ => .next (s.farRequest addr op)

/-- BISNP_RESPONSE (R449): the host gives up the granule, and the requests that waited are served. -/
def execBisnpResponse (addr : Nat) (s : State) : Out State :=
  if s.coh.snoop.contains (addr / 64) then
    .next (({ s with coh := { s.coh with snoop := s.coh.snoop.filter fun g => g != addr / 64 } } : State).pumpAll (addr / 128))
  else .refused (.notEnabled "BISNP_RESPONSE")

/-- BISNP (R453): the memory device behind a shared entry asks for a half. Every copy of it in the package is recalled,
dirty data is written back first, and the unit responds. The device may then perform another agent's write of the half,
whose bytes come with it. -/
def execBisnp (q : BackInv) (s : State) : Out State :=
  let line := lineOf q.addr
  let fits := match q.data with | some bs => bs.length == 64 | none => true
  match s.region q.addr with
  | .cxl i =>
    if (alGet RangeEntry.reset i s.ranges).shared && fits && !s.lineBusy line then
      let s := ((s.writeBack line).dropCopies line)
      .next (match q.data with
        | some bs => { s with mem := writeBytes s.mem (s.cell (lineAddr line)) bs }
        | none => s)
    else .refused (.notEnabled "BISNP")
  | _ => .refused (.notEnabled "BISNP")

/-- CHANNEL_SWITCH_END (R467): the channel serves again, and first the requests that waited at the homes. -/
def execChannelSwitchEnd (wd ch : Nat) (s : State) : Out State :=
  if s.switching.contains (wd, ch) then
    let t : State := { s with switching := dropFirst (fun x => x == (wd, ch)) s.switching }
    .next (((t.coh.waiting.map fun x => x.line).eraseDups).foldl State.pumpAll t)
  else .refused (.notEnabled "CHANNEL_SWITCH_END")

/-! ### The next message -/

/-- A message arrives where it goes. -/
def State.deliver (s : State) (m : CohMsg) : Out State :=
  match m with
  | .inv p l => execInv p l s
  | .invAck p l => execInvAck p l s
  | .fwd _ l => execFwd l s
  | .fwdData _ l => execFwdData l s
  | .data p l _ _ => execDataReply p l s
  | .complete p l _ => execComplete p l s
  | .putAck p l => execPutAck p l s

end Sys2Proof.Machine
end

