-- ==== Sys2Proof/Machine/Messages.lean ====
section
/-! DEFINITION. Messages (spec 12 R402 to R411; 06 R212, R213): MSGOPEN and MSGPOLL, the way from a departure
buffer to an arrival queue, replies, dispatch, handlers and strays, and the launch window. -/

namespace Sys2Proof.Machine

/-! ### Sending (R402, R403) -/

/-- The destination that a word in the layout of SY.HID names (R402). -/
def destOf (w : Word) : CoreId :=
  { die := (w.extractLsb' 13 4).toNat, parish := (w.extractLsb' 8 5).toNat, core := (w.extractLsb' 3 5).toNat }

/-- Whether MSGOPEN takes cause 0x0B (R402). -/
def State.openRefused (s : State) (core : Bool) (d n : Word) : Bool :=
  s.hart.open'.isSome || n == 0 || decide (32 < n.toNat) || !Config.coreExists s.member (destOf d) ||
    (!core && decide (Config.hartsOf (Config.classOf s.member (destOf d)) ≤ (d.extractLsb' 0 3).toNat))

/-- MSGOPEN (R402). -/
def execMsgopen (b c : GReg) (core : Bool) (s : State) : Out State :=
  match s.blocked [b, c] 0 with
  | some t => .next t
  | none =>
    let d := s.hart.src [] b
    let n := s.hart.src [b] c
    if s.openRefused core d n then .next (s.trap 0x0B 0)
    else
      let m : OpenMsg :=
        { dest := destOf d
          hart := if core then none else some (d.extractLsb' 0 3).toNat
          words := List.replicate n.toNat none
          taken := 0 }
      let s1 := s.finishNone [b, c] 4
      .next { s1 with hart := { s1.hart with open' := some m } }

/-- MSGPOLL (R404). -/
def execMsgpoll (a : GReg) (s : State) : Out State :=
  match s.blocked [] a with
  | some t => .next t
  | none => .next (s.finish [] a (BitVec.ofNat 64 s.hart.words.length) 4)

/-- WFM (R132): parks until a word may be read, and pops nothing. -/
def execWfm (s : State) : Out State := .next (if s.hart.words.isEmpty then s.stall else s.finishNone [] 4)

/-! ### Arrival (R403, R405, R213) -/

/-- Words that stand in the arrival queue of a core: those of messages not yet dispatched, and the unread words of
messages delivered to its harts (R404). -/
def State.arrivalUsed (s : State) (c : CoreId) : Nat :=
  (s.core c).arrival.foldl (fun n m => n + m.words.length) 0 +
    (s.places.filter fun p => p.core == c).foldl (fun n p => n + (s.hartAt p).wordsHere) 0

/-- Whether a message is of two words with word 0 zero, addressed to a hart (R403). -/
def Msg.passes (m : Msg) : Bool := m.hart.isSome && m.words.length == 2 && m.words.headD 1 == 0 && !m.reeve

/-- The sleeping hart that takes a message as its reply, when the message reaches its core (R213, R405). -/
def State.replyTo (s : State) (m : Msg) : Option (Place × Asleep) :=
  match m.hart with
  | some k =>
    if m.passes then
      let p : Place := { core := m.dest, hart := k }
      (match (s.hartAt p).wait with
       | .asleep f => some (p, f)
       | _ => none)
    else none
  | none => none

/-- The reply reaches a sleeping hart (R213): the access runs again, or the hart takes cause 0x05 or 0x06. -/
def State.reply (s : State) (p : Place) (f : Asleep) (v : Word) : State :=
  if v = 0 then
    let h := s.hartAt p
    s.setHart p (({ h with wait := .running } : Hart).unhold h.status.priv)
  else s.trapAt p (if v = 2 then 0x06 else 0x05) f.addr f.acc f.vec

/-- A message leaves the buffer of its core; a launch slot is free again (R411). -/
def State.undepart (s : State) (c : CoreId) (m : Msg) : State :=
  let s := s.setCore c { s.core c with depart := dropFirst (fun x => x == m) (s.core c).depart }
  match m.slot with
  | some k => { s with posts := alSet k.toNat (s.postReg k.toNat &&& 0x1F00) s.posts }
  | none => s

/-- Whether the release of a message waits: it leaves the parish while a store is performed only at PARISH (R182, R183;
log 71). -/
def State.sendWaits (s : State) (c : CoreId) (m : Msg) : Bool :=
  m.slot.isNone && s.ppOf c != s.ppOf m.dest && s.storesPending .device


/-- Move one message if it can move now (R183, R403, R405, R471, R200): a held one sets PEND or wakes the links that it
needs, one for a lost die is dropped, a reply goes straight to its hart, and any other needs room. -/
def State.sendOne (s : State) (c : CoreId) (m : Msg) : Option State :=
  let pp := s.ppOf m.dest
  if s.lostDies.contains m.dest.die then some (s.undepart c m)
  else if !s.runs pp then (if (s.parish pp).pw.pend then none else some (s.setPend pp))
  else if s.sendWaits c m then none
  else if !s.reaches c.die m.dest.die then s.ifWoken (s.wake c.die m.dest.die)
  else
    match s.replyTo m with
    | some (p, f) => some ((s.undepart c m).reply p f (m.words.getD 1 0))
    | none =>
      if 64 < s.arrivalUsed m.dest + m.words.length then none
      else
        let s := s.undepart c m
        some (s.setCore m.dest { s.core m.dest with arrival := (s.core m.dest).arrival ++ [m] })

/-- The next message to leave the buffer of a core (R403): a 2-word message with word 0 zero passes ahead of the
others, which leave in the order in which they departed. While it waits for room or a link, the others may leave (log
87). -/
def State.sendNext (s : State) (c : CoreId) : Option State :=
  let ms := (s.core c).depart
  match (ms.filter Msg.passes).findSome? (s.sendOne c) with
  | some t => some t
  | none =>
    match (ms.filter fun m => !m.passes).head? with
    | some m => s.sendOne c m
    | none => none

/-- MESSAGE_DEPARTURE (R403). -/
def execMessageDeparture (c : CoreId) (s : State) : Out State :=
  match s.sendNext c with
  | some t => .next t
  | none => .refused (.notEnabled "MESSAGE_DEPARTURE")

/-! ### Dispatch (R405 to R407, R212) -/

/-- The check of R406 on a handler address. -/
inductive WindowCheck where
  | passes | waits
  | fails (reason : Nat)
  deriving DecidableEq, Repr

/-- The check of a handler address against the window of its core (R406). -/
def Core.checkHandler (c : Core) (a : Word) : WindowCheck :=
  if c.howner.getLsbD 63 = false then .fails 2
  else if !c.hen then .waits
  else if a.extractLsb' 0 3 = 0 ∧ (c.hbase &&& ~~~(7 : Word)) ≤ a ∧ a ≤ (c.hlimit &&& ~~~(7 : Word)) then .passes
  else .fails 1

/-- Drop the head of an arrival queue. -/
def State.unqueue (s : State) (c : CoreId) : State :=
  s.setCore c { s.core c with arrival := (s.core c).arrival.drop 1 }

/-- Start a handler in a free context (R407, R212): a new identity, no parent, and the words that it may read. -/
def State.startHandler (s : State) (p : Place) (pc : Word) (level : Priv) (ctx : Ctx) (prio : Nat)
    (g4 g5 g6 : Word) (words : List Word) : State :=
  let (id, s) := s.newTasks (s.ppOf p.core) 1
  let (t, s) := s.tick
  let h := Hart.starting pc level ctx id prio t
  s.setHart p
    { ((h.writeG 4 g4).writeG 5 g5).writeG 6 g6 with
      mixctl := withOrigin mixctlReset (Config.classOf s.member p.core)
      words := words
      wordsHere := words.length }

/-- A stray message (R407): its handler starts at SUPER, or it is discarded. -/
def State.stray (s : State) (c : CoreId) (m : Msg) (reason : Nat) : Option State :=
  let k := s.core c
  if k.hstray.extractLsb' 3 61 = 0 then
    some ((s.setCore c { k with drops := bump16 k.drops }).unqueue c)
  else
    match s.freeContext c false with
    | none => none
    | some p =>
      if !s.tableRoom (s.ppOf c) 1 then none
      else
        let s := (s.setCore c { k with strays := if k.strays = 0xFFFFFFFF then k.strays else k.strays + 1 }).unqueue c
        some (s.startHandler p (k.hstray &&& ~~~(7 : Word)) .super k.strayCtx 3 (BitVec.ofNat 64 reason) m.sender
          (BitVec.ofNat 64 m.words.length) m.words)

/-- The context that a fault message takes on a reeve core: the one that is kept, when it is free, and any other
free one otherwise (R212). -/
def State.reeveContext (s : State) (c : CoreId) : Option Place :=
  let k := Config.hartsOf (Config.classOf s.member c)
  let kept : Place := { core := c, hart := k - 1 }
  if s.isFree kept then some kept else s.freeContext c false

/-- A handler task starts at a context (R407); while the parish's live-task table has no entry for it, its message waits
(log 79). -/
def State.handler (s : State) (c : CoreId) (p : Place) (m : Msg) : Option State :=
  if !s.tableRoom (s.ppOf c) 1 then none
  else
    some ((s.unqueue c).startHandler p (m.words.headD 0) .task (s.core c).winCtx 2
      (BitVec.ofNat 64 (m.words.length - 1)) m.sender 0 (m.words.drop 1))

/-- Dispatch of the head of an arrival queue (R405); `none` while it waits. A context that is reserved for a co-scheduled
group is not free (R400; log 80). -/
def State.dispatchMsg (s : State) (c : CoreId) (m : Msg) : Option State :=
  let a := m.words.headD 0
  if m.reeve then
    match s.reeveContext c with
    | some p =>
      if !s.tableRoom (s.ppOf c) 1 then none
      else
        some ((s.unqueue c).startHandler p a .super { (s.pdata (s.ppOf c)).reeveCtx with frm := 0 } 3 3 m.sender 0
          (m.words.drop 1))
    | none => none
  else if a = 0 then s.stray c m 3
  else
    match (s.core c).checkHandler a with
    | .waits => none
    | .fails r => s.stray c m r
    | .passes =>
      match m.hart with
      | none => (match s.freeContext c false with | some p => s.handler c p m | none => none)
      | some k =>
        let p : Place := { core := c, hart := k }
        if s.isFree p then
          (if (s.taskContexts c).contains k && !s.isReserved p then s.handler c p m else none)
        else
          let h := s.hartAt p
          some ((s.unqueue c).setHart p { h with words := h.words ++ m.words, wordsHere := h.wordsHere + m.words.length })

/-- The next dispatch of a core (R405); a parish that does not run dispatches nothing (R471), and the C-cores of a
device in recovery stay in the ROM (R459). -/
def State.dispatchNext (s : State) (c : CoreId) : Option State :=
  if !s.runs (s.ppOf c) || s.recovery || s.lostDies.contains c.die then none
  else
    match (s.core c).arrival with
    | m :: _ => s.dispatchMsg c m
    | [] => none

/-- MESSAGE_DISPATCH (R405). -/
def execMessageDispatch (c : CoreId) (s : State) : Out State :=
  match s.dispatchNext c with
  | some t => .next t
  | none => .refused (.notEnabled "MESSAGE_DISPATCH")

/-! ### Launch (R410, R411, R489) -/

/-- POST: a write of a POST register (R411). -/
def execPost (slot : BitVec 4) (v : Word) (s : State) : Out State := .next (s.writePost slot.toNat v)

/-- The 8-byte units of a host write to the message window, in ascending address order (R489). -/
def State.writeWindow (s : State) (off : Nat) : List Word → State
  | [] => s
  | v :: t => (s.devWrite off v).writeWindow (off + 8) t

/-- Cut bytes into 8-byte words. -/
def wordsOf : Nat → List Byte → List Word
  | 0, _ => []
  | n + 1, bs => BitVec.ofNat 64 (numOf (bs.take 8)) :: wordsOf n (bs.drop 8)

/-- A write of the host through BAR0 (R446, R489): whole, naturally aligned 8-byte units of the message window; anything
else completes with Unsupported Request and writes nothing. -/
def State.bar0Write (s : State) (off : Nat) (data : List Byte) : State :=
  if data.isEmpty || data.length % 8 != 0 || off % 8 != 0 || decide (0x1080 < off + data.length) then
    { s with hostOut := s.hostOut ++ [.unsupported] }
  else s.writeWindow off (wordsOf (data.length / 8) data)

/-- HOST_BAR0_WRITE (R446, R489). -/
def execHostBar0Write (off : Nat) (data : List Byte) (s : State) : Out State := .next (s.bar0Write off data)

end Sys2Proof.Machine
end

