-- ==== Sys2Proof/Machine/Steward.lean ====
section
/-! DEFINITION. The Stewards and the Carter (spec 12 R396 to R400; 04 R137 to R143): placement, lending,
pre-emption, co-scheduled groups, the mix window, and the Carter queue. Times are not modelled (log 8): an event
row stands for the moment at which the Steward acts. -/

namespace Sys2Proof.Machine

/-! ### Where a record may start (R396) -/

/-- Whether a record runs on a compute context. -/
def TaskRec.compute (r : TaskRec) : Bool :=
  match r.resume with
  | some h => h.compute
  | none => r.desc.extractLsb' 58 2 != 0

/-- Whether a core class takes a record: its KIND, or, for a task that has run, what its frame needs (R142,
R396). -/
def TaskRec.fits (r : TaskRec) (k : CoreClass) : Bool :=
  match r.resume with
  | some h => canTake k h.needs h.compute
  | none =>
    match (r.desc.extractLsb' 58 2).toNat, k with
    | 0, _ => true
    | 1, .C => false
    | 1, _ => true
    | 2, .V => true
    | 3, .T => true
    | _, _ => false

/-- Whether dispatch of the message at the head of a core's arrival queue takes a free context now: it does so before
placement does (R396, R405). -/
def State.headTakes (s : State) (c : CoreId) : Bool :=
  match s.dispatchNext c with
  | some t => decide (s.places.length < t.places.length)
  | none => false

/-- The free contexts of a core that a record may take (R396). -/
def State.contextsFor (s : State) (r : TaskRec) (c : CoreId) : List Place :=
  let k := Config.classOf s.member c
  let ps := ((s.taskContexts c).map fun i => ({ core := c, hart := i } : Place)).filter fun p => s.isFree p && !s.isReserved p
  if !r.fits k || s.headTakes c then [] else if r.compute then ps.take (Config.computeLimit k - s.computeOn c) else ps

/-- The cores of a parish in the order in which the Steward tries them: the core that the task came from, and
then the others, ascending (R396). -/
def State.coresFor (s : State) (r : TaskRec) (pp : Nat) : List CoreId :=
  match Config.parishPlace s.member pp with
  | none => []
  | some (d, p) =>
    let all := coresIn s.member d p
    match r.left with
    | some c => (all.filter fun x => x == c) ++ all.filter fun x => x != c
    | none => all

/-- Number of harts that a record stands for. -/
def TaskRec.count (r : TaskRec) : Nat :=
  match r.resume with
  | some _ => 1
  | none => (r.desc.extractLsb' 60 4).toNat + 1

/-- The contexts of a parish that a record takes, when there are enough (R396, R400). -/
def State.placesFor (s : State) (r : TaskRec) (pp : Nat) : Option (List Place) :=
  if !s.runs pp || s.lostDies.contains (s.dieOf pp) then none
  else
    let ps := ((s.coresFor r pp).flatMap (s.contextsFor r)).take r.count
    if ps.length = r.count then some ps else none

/-! ### Starting a record -/

/-- The kill notice of a marked task is pending when it starts (R401). -/
def State.takeNotice (s : State) (h : Hart) (mark : Bool) : Hart × State :=
  let k := mark || match s.taskEntry h.taskId with | some e => e.kill | none => false
  ({ h with pend2 := h.pend2 || k }, s.updTask h.taskId fun e => { e with kill := false })

/-- Start a record in the contexts given (R390, R399, R400). A task that resumes on another core restarts its
window counts (R138). -/
def State.startRecord (s : State) (r : TaskRec) (ps : List Place) (spawnedAt : Nat) : State :=
  let (t, s) := s.tick
  match r.resume, ps with
  | some h, p :: _ =>
    let h1 := if r.left = some p.core then h else h.moved false
    let (h2, s) := s.takeNotice { h1 with placedAt := t, wait := .running } r.kill
    s.occupy p h2 (r.left != some p.core)
  | _, _ =>
    let n := r.count
    let pp := (ps.head?.map fun p => s.ppOf p.core).getD 0
    let s := if n = 1 then s else
      let d := s.pdata spawnedAt
      s.setPdata spawnedAt { d with gangs := d.gangs ++
        [{ id := r.id, size := n, gen := 0, live := BitVec.ofNat 16 (2 ^ n - 1), arr := 0, parish := pp }] }
    (ps.zipIdx).foldl (fun s (x : Place × Nat) =>
      let h := r.start x.2 (Config.classOf s.member x.1.core) t
      let h := if n = 1 then h else
        { h with gang := some { id := r.id, rank := x.2, size := n, home := spawnedAt, count := 0 } }
      let (h, s) := s.takeNotice h r.kill
      s.occupy x.1 h false) s

/-- Remove a record from a queue. -/
def State.dequeue (s : State) (pp : Nat) (r : TaskRec) : State :=
  let d := s.pdata pp
  s.setPdata pp { d with queue := dropFirst (fun x => x.id == r.id) d.queue }

/-- A placement from a level counts at every lower level that holds a ready record (R398). -/
def ParishData.countLift (d : ParishData) (level : Nat) : ParishData :=
  { d with lift := Vector.ofFn fun (i : Fin 3) =>
      let c := d.lift.getD i 0
      if i.val < level ∧ d.queue.any (fun x => x.level == i.val) then Nat.min (2 ^ 20) (c + 1) else c }

/-- The records of a queue from the most urgent level down, in the order in which they became ready (R395,
R397). -/
def ParishData.ready (d : ParishData) : List TaskRec :=
  [3, 2, 1, 0].flatMap fun l => d.queue.filter fun r => r.level == l

/-- The parish where a gang was spawned: HOME of its identities. -/
def TaskRec.spawnedAt (r : TaskRec) : Nat := homeOfTask r.id

/-- Place a ready record of parish `pp` in contexts of parish `at'` (R396). -/
def State.placeRecord (s : State) (pp : Nat) (r : TaskRec) (ps : List Place) : State :=
  let s := s.dequeue pp r
  let d := s.pdata pp
  (s.setPdata pp (d.countLift r.level)).startRecord r ps r.spawnedAt

/-! ### Co-scheduled groups (R364, R400) -/

/-- The groups of a record: those of the task that it resumes, and the gang that it starts (R400). -/
def State.groupsOfRecord (s : State) (r : TaskRec) : List GroupKey :=
  match r.resume with
  | some h => s.groupsOf h
  | none => if r.count = 1 then [] else [.gang r.id.toNat]

/-- The groups of every task of the package, task by task. -/
def State.allGroups (s : State) : List (List GroupKey) :=
  ((s.places.map fun p => s.groupsOf (s.hartAt p)) ++
    (s.parishes.flatMap fun e => (e.2.data.queue ++ e.2.data.overflow).map s.groupsOfRecord) ++
    (s.carter.map fun f => s.groupsOf f.hart)).filter fun l => !l.isEmpty

/-- Two lists of groups have one in common. -/
def meets (a b : List GroupKey) : Bool := a.any fun g => b.contains g

/-- Groups that share members with those given, and so on: together they are scheduled as one (R364, R400). -/
def joined (all : List (List GroupKey)) : Nat → List GroupKey → List GroupKey
  | 0, gs => gs
  | n + 1, gs => joined all n (gs ++ (((all.filter (meets gs)).flatMap id).filter fun g => !gs.contains g).eraseDups)

/-- All the groups that are scheduled with one. -/
def State.clique (s : State) (g : GroupKey) : List GroupKey := joined s.allGroups s.allGroups.length [g]

/-- The group whose members a Steward takes next: the one for which it holds reservations, and otherwise the one that
became ready first; one whose reservation it has released comes after the others (R400; log 84). -/
def State.groupInTurn (s : State) (pp : Nat) : Option GroupKey :=
  let x := s.parish pp
  match x.reserved with
  | some (g, _) => some g
  | none =>
    let rs := (s.pdata pp).queue.filter fun r => !(s.groupsOfRecord r).isEmpty
    let tried (r : TaskRec) : Bool := meets x.released (s.groupsOfRecord r)
    let first (rs : List TaskRec) : Option GroupKey :=
      (rs.foldl (fun (b : Option TaskRec) r => match b with | some x => if r.since < x.since then some r else b | none => some r) none).bind
        fun r => (s.groupsOfRecord r).head?
    match first (rs.filter fun r => !tried r) with
    | some g => some g
    | none => (x.released.find? fun g => rs.any fun r => (s.groupsOfRecord r).contains g).orElse fun _ => first rs

/-- The contexts that the Steward of a parish holds for a record (R400). -/
def State.reservedFor (s : State) (pp : Nat) (r : TaskRec) : List Place :=
  match (s.parish pp).reserved with
  | some (_, rs) => (rs.filter fun e => e.id == r.id).map fun e => e.place
  | none => []

/-- Whether a record may start in one placement: it is of no group, or a gang that has not started, holds nothing, and has
its turn (R396, R400). -/
def State.startsAlone (s : State) (pp : Nat) (r : TaskRec) : Bool :=
  (s.groupsOfRecord r).isEmpty ||
    (r.resume.isNone && (s.parish pp).reserved.isNone && s.groupInTurn pp == (s.groupsOfRecord r).head?)

/-- Reserve a context for a member of the group in turn (R400). -/
def State.reserve (s : State) (pp : Nat) (r : TaskRec) : Option State :=
  match s.groupInTurn pp with
  | none => none
  | some g =>
    let x := s.parish pp
    let rs := match x.reserved with | some (_, rs) => rs | none => []
    if !s.runs pp || !meets (s.clique g) (s.groupsOfRecord r) || decide (r.count ≤ (s.reservedFor pp r).length) then none
    else
      (((s.coresFor r pp).flatMap (s.contextsFor r)).head?).map fun p =>
        s.setParish pp { x with reserved := some (g, rs ++ [{ id := r.id, place := p, compute := r.compute }]) }

/-- KIND of a record (R387). -/
def TaskRec.kind (r : TaskRec) : Nat := (r.desc.extractLsb' 58 2).toNat

/-- Whether a member of a group holds all the contexts that it needs: it waits for the others, and no more stands before the
records behind it (R400; log 77). -/
def State.seated (s : State) (pp : Nat) (r : TaskRec) : Bool :=
  !(s.groupsOfRecord r).isEmpty && decide (r.count ≤ (s.reservedFor pp r).length)

/-- The records before which none of their level and KIND stands (R397). -/
def oldestOfEach : List TaskRec → List (Nat × Nat) → List TaskRec
  | [], _ => []
  | r :: t, seen =>
    if seen.contains (r.level, r.kind) then oldestOfEach t seen else r :: oldestOfEach t ((r.level, r.kind) :: seen)

/-- The records of a queue that a Steward may place or lend now, the most urgent first (R397). -/
def State.candidates (s : State) (pp : Nat) : List TaskRec :=
  oldestOfEach ((s.pdata pp).ready.filter fun r => !s.seated pp r) []

/-- A hart that was pre-empted and kept its context, and is scheduled with no other, goes on there (R322). -/
def State.resumeKept (s : State) (pp : Nat) : Option State :=
  (s.places.find? fun p => s.ppOf p.core == pp && (s.hartAt p).wait == .preempted && (s.groupsOf (s.hartAt p)).isEmpty).map
    fun p => s.setHart p { s.hartAt p with wait := .running }

/-- The first ready record of a parish that a placement can serve, and the state after it: the record starts, or,
for a member of a co-scheduled group, a context is reserved (R396, R397, R400); and otherwise a hart that kept its
context. -/
def State.tryPlace (s : State) (pp : Nat) : Option State :=
  match (s.candidates pp).findSome? fun r =>
    match (if s.startsAlone pp r then s.placesFor r pp else none) with
    | some ps => some (s.placeRecord pp r ps)
    | none => if (s.groupsOfRecord r).isEmpty then none else s.reserve pp r with
  | some t => some t
  | none =>
    -- each ready member of the group in turn gets its context, whatever record stands before it
    match ((s.pdata pp).ready.filter fun r => !(s.groupsOfRecord r).isEmpty).findSome? (s.reserve pp) with
    | some t => some t
    | none => s.resumeKept pp

/-- PLACEMENT (R396). -/
def execPlacement (pp : Nat) (s : State) : Out State :=
  match (if s.runs pp then s.tryPlace pp else none) with
  | some t => .next t
  | none => .refused (.notEnabled "PLACEMENT")

/-- The parishes that a Steward asks, in order (R396): those of its die from its own upward, going round, and
then those of other dies by number of links and parish number. -/
def State.lenders (s : State) (pp : Nat) : List Nat :=
  match Config.parishPlace s.member pp with
  | none => []
  | some (d, p) =>
    let n := Config.parishesOf s.member d
    let base := Config.firstParish s.member d
    ((List.range (n - 1)).map fun i => base + (p + 1 + i) % n) ++
      (otherDies s.member d).flatMap fun e =>
        (List.range (Config.parishesOf s.member e)).map fun i => Config.firstParish s.member e + i

/-- Whether a Steward has a free context (R396). -/
def State.hasFree (s : State) (pp : Nat) : Bool :=
  match Config.parishPlace s.member pp with
  | some (d, p) => !s.lostDies.contains d && (coresIn s.member d p).any fun c => (s.freeContext c false).isSome
  | none => false

/-- What a parish lends to an asker: its most urgent record that the asker can place, and that it cannot place itself
(R396, R397). -/
def State.lendsTo (s : State) (q pp : Nat) : Option State :=
  (s.candidates q).findSome? fun r =>
    if s.startsAlone q r && (s.placesFor r q).isNone then (s.placesFor r pp).map fun ps => s.placeRecord q r ps
    else none

/-- Ask parishes in order: the first that has something to lend ends the search, and a request to one that is not in RUN, or
behind a link that sleeps, is held, and sets its PEND or wakes the link (R200, R396, R471; log 66). `none` when nothing comes
of it. -/
def State.askLenders (s : State) (pp : Nat) (asked : Bool) : List Nat → Option State
  | [] => if asked then some s else none
  | q :: t =>
    if s.lostDies.contains (s.dieOf q) then s.askLenders pp asked t
    else if !s.reaches (s.dieOf pp) (s.dieOf q) then
      (match s.ifWoken (s.wake (s.dieOf pp) (s.dieOf q)) with
       | some u => u.askLenders pp true t
       | none => s.askLenders pp asked t)
    else if s.runs q then (match s.lendsTo q pp with | some u => some u | none => s.askLenders pp asked t)
    else if (s.parish q).pw.pend then s.askLenders pp asked t
    else (s.setPend q).askLenders pp true t

/-- LEND_REQUEST (R396): a Steward with a free context and no record that it can place asks the others, and the record
that one lends starts in the asker's parish. -/
def State.lend (s : State) (pp : Nat) : Option State :=
  if !s.runs pp || !s.hasFree pp || (s.tryPlace pp).isSome then none
  else s.askLenders pp false (s.lenders pp)

/-- LEND_REQUEST (R396). -/
def execLendRequest (pp : Nat) (s : State) : Out State :=
  match s.lend pp with
  | some t => .next t
  | none => .refused (.notEnabled "LEND_REQUEST")

/-- OVERFLOW_RETURN (R395): the oldest record of the overflow area moves to the queue. -/
def execOverflowReturn (pp : Nat) (s : State) : Out State :=
  let d := s.pdata pp
  match d.overflow with
  | r :: t =>
    if d.queue.length < 1024 then
      let (n, s1) := s.tick
      .next (s1.setPdata pp { d with queue := d.queue ++ [{ r with since := n, slot := none }], overflow := t })
    else .refused (.notEnabled "OVERFLOW_RETURN")
  | [] => .refused (.notEnabled "OVERFLOW_RETURN")

/-- LEVEL_LIFT (R398): the oldest ready record of the level moves behind those of the level above. -/
def execLevelLift (pp : Nat) (level : Fin 3) (s : State) : Out State :=
  let d := s.pdata pp
  match d.queue.find? fun r => r.level == level.val with
  | some r =>
    if d.lift.getD level.val 0 < 2 ^ 20 then .refused (.notEnabled "LEVEL_LIFT")
    else
      .next (s.setPdata pp { d with
        queue := dropFirst (fun x => x.id == r.id) d.queue ++ [{ r with level := level.val + 1 }]
        lift := d.lift.setIfInBounds level.val 0 })
  | none => .refused (.notEnabled "LEVEL_LIFT")

/-- The waiting records of a group, with the parishes that hold them. -/
def State.groupRecords (s : State) (gs : List GroupKey) : List (Nat × TaskRec) :=
  s.parishes.flatMap fun (e : Nat × Parish) =>
    ((e.2.data.queue ++ e.2.data.overflow).filter fun r => meets gs (s.groupsOfRecord r)).map fun r => (e.1, r)


/-- The harts of a group. -/
def State.groupHarts (s : State) (gs : List GroupKey) : List Place := s.places.filter fun p => meets gs (s.groupsOf (s.hartAt p))

/-- GROUP_START (R400): every unplaced member holds a reservation, none is still to be pre-empted or in the Carter queue,
and all start in one step. A pinned member starts in the context that it kept (R322). -/
def State.groupStart (s : State) (g : GroupKey) : Option State :=
  let gs := s.clique g
  let rs := s.groupRecords gs
  let harts := s.groupHarts gs
  let kept := harts.filter fun p => (s.hartAt p).wait == .preempted
  if (rs.any fun x => decide ((s.reservedFor x.1 x.2).length < x.2.count)) || (harts.any fun p => (s.hartAt p).evict) ||
      (s.carter.any fun f => meets gs (s.groupsOf f.hart)) || (rs.isEmpty && kept.isEmpty) then none
  else
    let start (s : State) (x : Nat × TaskRec) : State :=
      match (s.parish x.1).reserved with
      | some (g', es) =>
        let es' := es.filter fun e => e.id != x.2.id
        (s.setParish x.1 { s.parish x.1 with reserved := if es'.isEmpty then none else some (g', es') }).placeRecord x.1 x.2
          (s.reservedFor x.1 x.2)
      | none => s
    let t := kept.foldl (fun s p => s.setHart p { s.hartAt p with wait := .running }) (rs.foldl start s)
    some { t with parishes := t.parishes.map fun e => (e.1, { e.2 with released := e.2.released.filter fun x => !gs.contains x }) }

/-- GROUP_START (R400). -/
def execGroupStart (g : GroupKey) (s : State) : Out State :=
  match s.groupStart g with
  | some t => .next t
  | none => .refused (.notEnabled "GROUP_START")

/-- RESERVATION_RELEASE (R400). -/
def execReservationRelease (pp : Nat) (s : State) : Out State :=
  match (s.parish pp).reserved with
  | some (g, _) =>
    let x := s.parish pp
    .next (s.setParish pp { x with reserved := none, released := (x.released.filter fun y => y != g) ++ [g] })
  | none => .refused (.notEnabled "RESERVATION_RELEASE")

/-! ### Pre-emption (R137, R399) -/

/-- Whether the Steward may pre-empt a hart now (R137): it runs at TASK, and is not asleep on a reeve. -/
def Hart.yields (h : Hart) : Bool :=
  h.status.priv == .task &&
    match h.wait with
    | .asleep _ => false
    | .lockup => false
    | .preempted => false
    | .vacant => false
    | _ => true

/-- The hart of a place leaves its context for its parish queue (R399); a pinned hart keeps its context and goes
on only there (R322). -/
def State.preemptAt (s : State) (p : Place) : State :=
  let h := (s.hartAt p).unpark
  let s := s.vacating p
  if h.mat.grantRows ≠ 0 then s.setHart p { h.closeConvoy with wait := .preempted, evict := false, urgent := false }
  else (s.enqueue (s.ppOf p.core) (s.recordOf h p.core)).setHart p Hart.vacant

/-- Whether a convoy of the hart's may run, which an urgent pre-emption can stop between groups of elements (R137,
R267). -/
def Hart.midConvoy (h : Hart) : Bool := h.vec.queue.any fun c => !c.held && c.closed && c.done.isNone

/-- Pre-empt a hart at its next pre-emption point (R137): now; when it is back at TASK; or, urgently, in the convoy that it
runs. -/
def State.evictAt (s : State) (urgent : Bool) (p : Place) : State :=
  let h := s.hartAt p
  if h.yields && !(urgent && h.midConvoy) then s.preemptAt p else s.setHart p { h with evict := true, urgent := urgent || h.urgent }

/-- Pre-empting a member of a co-scheduled group pre-empts every hart that is scheduled with it (R364, R400). -/
def State.preemptGroup (s : State) (urgent : Bool) (p : Place) : State :=
  match s.groupsOf (s.hartAt p) with
  | [] => s.evictAt urgent p
  | g :: _ => ((s.groupHarts (s.clique g)).filter fun q => q != p).foldl (State.evictAt · urgent) (s.evictAt urgent p)

/-- The victim of a ready record of a parish (R399): a hart of lower priority that could make room for it, of the
lowest priority, and among those the one placed earliest. -/
def State.victim (s : State) (pp : Nat) (r : TaskRec) : Option Place :=
  let ok := s.places.filter fun p =>
    let h := s.hartAt p
    s.ppOf p.core == pp && h.yields && decide (h.prio < r.prio) && h.mat.grantRows == 0 &&
      r.fits (Config.classOf s.member p.core) &&
      (!r.compute || h.compute || decide (s.computeOn p.core < Config.computeLimit (Config.classOf s.member p.core)))
  ok.foldl (fun best p =>
    match best with
    | none => some p
    | some q =>
      let a := s.hartAt p
      let b := s.hartAt q
      if a.prio < b.prio ∨ (a.prio = b.prio ∧ a.placedAt < b.placedAt) then some p else some q) none

/-- Whether some place of R396 can take a record of a parish: contexts of the parish, with those that it holds, or, when it
may be lent, of a parish that would ask for it (R400). -/
def State.placeable (s : State) (r : TaskRec) (pp : Nat) : Bool :=
  decide (r.count ≤ (s.reservedFor pp r).length + ((s.coresFor r pp).flatMap (s.contextsFor r)).length) ||
    (s.startsAlone pp r && (List.range (Config.parishCount s.member)).any fun q => (s.placesFor r q).isSome)

/-- PREEMPTION (R399): the most urgent ready record that no place can take, and the hart that gives way, urgently when the
record's priority is 3. -/
def execPreemption (pp : Nat) (s : State) : Out State :=
  let w := (if s.runs pp then (s.pdata pp).ready else []).findSome? fun r =>
    if s.placeable r pp then none else (s.victim pp r).map fun p => (r, p)
  match w with
  | some (r, p) => .next (s.preemptGroup (r.prio == 3) p)
  | none => .refused (.notEnabled "PREEMPTION")

/-! ### The mix window (R138, R143) -/

/-- The end of a window of the current hart. -/
def State.endWindow (s : State) : State := { s with hart := s.hart.windowEnd s.cclass }

/-- WINDOW (R138): 65,536 TASK instructions have retired. -/
def execWindow (s : State) : Out State :=
  if s.hart.winCount < 65536 then .refused (.notEnabled "WINDOW") else .next s.endWindow

/-- The nearest free context of a class, for a hart of the kind given that comes from a core (R133, R141, R143). -/
def State.findClassFrom (s : State) (c : CoreId) (k : CoreClass) (needs : List Cls) (compute : Bool) : Option Place :=
  (nearParishes s.member c).findSome? fun q =>
    if Config.dieClass s.member q.1 = some k && !s.lostDies.contains q.1 &&
        s.runs (Config.packageParish s.member q.1 q.2) && canTake k needs compute then
      (nearCores s.member c q.1 q.2).findSome? fun x => s.freeContext x compute
    else none

/-- As `findClassFrom`, for the current hart, which keeps its kind. -/
def State.findOfClass (s : State) (k : CoreClass) : Option Place :=
  s.findClassFrom s.here.core k s.hart.needs s.hart.compute

/-- MIX_MIGRATION (R143): the move asked for, at a pre-emption point, by R139 from step 3. With no context free it is
retried at the next window's end, and so is one that a grant forbids (log 60). -/
def execMixMigration (s : State) : Out State :=
  match s.hart.moveTo with
  | none => .refused (.notEnabled "MIX_MIGRATION")
  | some k =>
    if !s.hart.yields then .refused (.notEnabled "MIX_MIGRATION")
    else if s.hart.mat.grantRows ≠ 0 || k == s.cclass then .next { s with hart := { s.hart with moveTo := none } }
    else if !s.canLeave then .next s.stall
    else
      match s.findOfClass k with
      | some p => .next (match s.linkWait p.core.die with | some t => t | none => s.moveTo p false)
      | none => .next { s with hart := { s.hart with moveTo := none } }

/-! ### Migration (R139, R141) -/

/-- MIGRATION_TRAP (R139): the event by which a hart that decodes an instruction of a class that its core lacks is
moved. It is the step that `gate` makes before every meaning. -/
def execMigrationTrap (cls : Cls) (enc : Word) (s : State) : Out State :=
  if s.carriesHere cls then .refused (.notEnabled "MIGRATION_TRAP") else .next (s.migrationTrap cls enc)

/-- The context that a waiting frame can take now (R141); an exact target waits for that core (R133). -/
def State.frameContext (s : State) (f : Frame) : Option Place :=
  match f.exact with
  | some c => if s.runs (s.ppOf c) then s.freeContext c f.compute else none
  | none =>
    match f.cls with
    | some k => s.findClassFrom f.origin k f.needs f.compute
    | none => s.findContext f.origin f.needs f.compute

/-- The first frame of the Carter queue that can be placed, with its context. -/
def State.nextFrame (s : State) : List Frame → Option (Frame × Place)
  | [] => none
  | f :: t => match s.frameContext f with | some p => some (f, p) | none => s.nextFrame t

/-- Whether other members of a hart's co-scheduled group wait in queues (R364, R400). -/
def State.groupWaits (s : State) (h : Hart) : Bool :=
  match s.groupsOf h with
  | [] => false
  | g :: _ => !(s.groupRecords (s.clique g)).isEmpty

/-- CARTER_QUEUE_PLACEMENT (R141): first in, first out for each set of needs. A member of a co-scheduled group whose others
wait does not run before them (R400). The frame waits for the links on its way (R200). -/
def execCarterQueuePlacement (s : State) : Out State :=
  match s.nextFrame s.carter with
  | some (f, p) =>
    if !s.reaches f.origin.die p.core.die then s.heldRow "CARTER_QUEUE_PLACEMENT" (s.wake f.origin.die p.core.die)
    else
    let h := if f.origin = p.core then { f.hart with compute := f.hart.compute || f.compute } else f.hart.moved f.compute
    let w : Wait := if s.groupWaits f.hart then .preempted else .running
    .next (({ s with carter := dropFirst (fun x => x == f) s.carter } : State).occupy p { h with wait := w } (f.origin != p.core))
  | none => .refused (.notEnabled "CARTER_QUEUE_PLACEMENT")

end Sys2Proof.Machine
end

