-- ==== Sys2Proof/Machine/Power.lean ====
section
/-! DEFINITION. Parish power control (spec 14 R469 to R472): the PW. registers, the transitions of R470, drain,
save and restore, and link sleep. -/

namespace Sys2Proof.Machine

def State.power (s : State) (pp : Nat) : Power := (s.parish pp).pw
def State.setPower (s : State) (pp : Nat) (w : Power) : State := s.setParish pp { s.parish pp with pw := w }

/-- Code of a state (R470). -/
def PwState.code : PwState → Nat
  | .run => 0 | .drain => 1 | .quiesce => 2 | .saving => 3 | .saved => 4 | .stopped => 5
  | .ret => 6 | .off => 7 | .powered => 8 | .restoring => 9

/-- Whether PSEL names a parish that has PW. registers (R469). -/
def State.hasPower (s : State) (pp : Nat) : Bool := decide (2 ≤ pp ∧ pp < Config.parishCount s.member)

/-- The harts of a parish. -/
def State.placesIn (s : State) (pp : Nat) : List Place := s.places.filter fun p => s.ppOf p.core == pp

/-- The contexts that keep a parish from being drained (R471). A locked-up hart does not: R129 lets a power-off start
it again (log 24). -/
def State.occupied (s : State) (pp : Nat) : List Place := (s.placesIn pp).filter fun p => (s.hartAt p).wait != .lockup

/-! ### DRAIN and RUN (R470, R471) -/

/-- The Steward moves its records, in order, to the host parish, once the links to it are ACTIVE (R200, R471). -/
def State.moveRecords (s : State) (pp : Nat) : State :=
  let d := s.pdata pp
  if (d.queue ++ d.overflow).isEmpty then s
  else if s.queueParish pp = pp then s.wake (s.dieOf pp) (s.dieOf (s.hostParish pp))
  else (d.queue ++ d.overflow).foldl (fun s r => s.enqueue pp r) (s.setPdata pp { d with queue := [], overflow := [] })

/-- The Steward of a parish in DRAIN moves records that a link had held. None where it has none, or they still wait. -/
def State.serveDrains (s : State) : Option State :=
  (s.parishes.find? fun e => e.2.pw.st == .drain && !s.lostDies.contains (s.dieOf e.1) &&
    !(e.2.data.queue ++ e.2.data.overflow).isEmpty && s.queueParish e.1 != e.1).map fun e => s.moveRecords e.1

/-- Whether a Carter frame waits for a core of a parish (R133, R471). -/
def State.frameFor (s : State) (pp : Nat) : Bool :=
  s.carter.any fun f => match f.exact with | some c => s.ppOf c == pp | none => false

/-- QREQ := 1 in RUN: the parish enters DRAIN (R470, R471). Its TASK harts are pre-empted urgently, with those that are
scheduled with them (R400), but for pinned harts; the Steward moves its records, and holds no contexts. -/
def State.quiesce (s : State) (pp : Nat) : State :=
  let w := s.power pp
  let s := (s.setPower pp { w with qreq := true, st := .drain, pend := w.pend || s.frameFor pp }).moveRecords pp
  let s := s.setParish pp { s.parish pp with reserved := none }
  ((s.placesIn pp).filter fun p => (s.hartAt p).mat.grantRows == 0).foldl
    (fun s p => if s.isFree p then s else s.preemptGroup true p) s

/-- The parish enters RUN (R469, R470): held traffic moves again, and the requests for it are off. -/
def State.enterRun (s : State) (pp : Nat) : State :=
  let s := s.setPower pp { s.power pp with qreq := false, ack := false, st := .run, wake := false, pend := false }
  (s.placesIn pp).foldl (fun s p => s.setHart p { s.hartAt p with evict := false, urgent := false }) s

/-- QREQ := 1 (R470). -/
def State.writeQreq (s : State) (pp : Nat) (v : Bool) : Option State :=
  let w := s.power pp
  if w.qreq = v then some s
  else
    match w.st, v with
    | .run, true => some (s.quiesce pp)
    | .drain, false => some (s.enterRun pp)
    | .quiesce, false => some (s.enterRun pp)
    | .saved, false => some (s.enterRun pp)
    | _, _ => none

/-- Whether a parish in DRAIN is drained (R471). -/
def State.isDrained (s : State) (pp : Nat) : Bool :=
  (s.power pp).st == .drain && (s.occupied pp).isEmpty && (s.pdata pp).queue.isEmpty && (s.pdata pp).overflow.isEmpty &&
    s.cores.all fun (e : CoreId × Core) => s.ppOf e.1 != pp || e.1.die == 0 || e.2.depart.isEmpty

/-- QUIESCE_REQUEST (R470). -/
def execQuiesceRequest (pp : Nat) (s : State) : Out State :=
  if s.hasPower pp && (s.power pp).st == .run then .next (s.quiesce pp) else .refused (.notEnabled "QUIESCE_REQUEST")

/-- QUIESCE_CANCEL (R470). -/
def execQuiesceCancel (pp : Nat) (s : State) : Out State :=
  if s.hasPower pp && ((s.power pp).st == .drain || (s.power pp).st == .quiesce || (s.power pp).st == .saved) then
    .next (s.enterRun pp)
  else .refused (.notEnabled "QUIESCE_CANCEL")

/-- DRAINED (R470, R471). -/
def execDrained (pp : Nat) (s : State) : Out State :=
  if s.hasPower pp && s.isDrained pp then .next (s.setPower pp { s.power pp with st := .quiesce, ack := true })
  else .refused (.notEnabled "DRAINED")

/-! ### SAVE and RESTORE (R470) -/

/-- Cells of a run of bytes; those that read as unwritten have no cell. -/
def runCells : Nat → List Byte → List Host.Cell
  | _, [] => []
  | a, x :: t => if x = unwritten then runCells (a + 1) t else (a, x) :: runCells (a + 1) t

/-- Write a long run of bytes in one pass. -/
def writeRun (m : List Host.Cell) (a : Nat) (bs : List Byte) : List Host.Cell :=
  (m.filter fun c => decide (c.1 < a)) ++ runCells a bs ++ m.filter fun c => decide (a + bs.length ≤ c.1)

/-- Bytes of the save area (R469). -/
def saveSize : Nat := 524288

/-- Whether the save area lies in HBM (R470). -/
def Power.saveInHbm (w : Power) : Bool := decide (w.saveptr.toNat + saveSize ≤ 2 ^ 39)

/-- The lines of a parish L2. -/
def State.linesIn (s : State) (pp : Nat) : List Nat := (s.coh.l2.filter fun e => e.1.1 == pp).map fun e => e.1.2

/-- One line leaves the L2 through PUTS or PUTX (R470, R191), unless a transaction on it is in progress or a link wakes
(R200). -/
def State.flushOut (s : State) (pp line : Nat) : State :=
  let d := s.dieOf pp
  if !s.reaches d (lineHome line) then s.wake d (lineHome line)
  else if s.lineBusy line || s.storePending line then s
  else s.evictWhole pp line

/-- The parish L2 gives up the lines that can go (R470). -/
def State.flushL2 (s : State) (pp : Nat) : State := (s.linesIn pp).foldl (fun s l => s.flushOut pp l) s

/-- Every TLB and stream translation of the parish is empty (R470). -/
def State.emptyTlbs (s : State) (pp : Nat) : State :=
  let s := s.setParish pp { s.parish pp with tlb := [] }
  let s := { s with cores := s.cores.map fun (e : CoreId × Core) => if e.1.die != 0 && s.ppOf e.1 == pp then (e.1, { e.2 with tlb := [] }) else e }
  (s.placesIn pp).foldl (fun s p => s.setHart p (s.hartAt p).noPages) s

/-- What a parish retains: its tables, its reeve registers and its arrival queues (R470). -/
def State.retained (s : State) (pp : Nat) : ParishData :=
  { s.pdata pp with
    arrivals := (s.cores.filter fun (e : CoreId × Core) => e.1.die != 0 && s.ppOf e.1 == pp && !e.2.arrival.isEmpty).map fun e => (e.1, e.2.arrival) }

/-- OP SAVE (R470): SAVING, with MODE recorded; the L2 and the TLBs give up what they hold. -/
def State.save (s : State) (pp : Nat) (off : Bool) : State :=
  let w := s.power pp
  ((s.flushL2 pp).emptyTlbs pp).setPower pp { w with st := .saving, done := false, err := false, modeOff := off }

/-- A long run of bytes as device stores (R470): from a die at the homes of its lines, in the new page of a migration too,
and without the poison of whole sectors (R149, R214, R488). -/
def State.putRun (s : State) (die a : Nat) (bs : List Byte) : Held :=
  ((linesOf a bs.length).foldl (fun (o : Held) l => o.bind fun s => s.farFrom die l 0b1111 true) (.ok s)).bind fun s =>
    let mirror (m : List Host.Cell) (i : Nat) : List Host.Cell :=
      match s.mirrorOf (a + 128 * i) with
      | some b => writeBytes m (s.cell b) ((bs.drop (128 * i)).take 128)
      | none => m
    let m := writeRun s.mem a bs
    let m' := if s.migs.isEmpty then m else (List.range (bs.length / 128)).foldl mirror m
    .ok (({ s with mem := m' } : State).unpoison a bs.length)

/-- The retained state goes to the save area, whose layout is the device's own (R470; log 16). -/
def State.writeArea (s : State) (pp : Nat) : Held :=
  let (k, s) := s.draw
  let w := s.power pp
  (s.putRun (s.dieOf pp) w.saveptr.toNat ((List.range saveSize).map fun i => Config.freeByte (k * saveSize + i))).bind fun s =>
    .ok (s.setParish pp { s.parish pp with saved := some (s.retained pp) })

/-- Whether a save area fails each access to it: it lies outside HBM, or a line of it is homed on a lost W-die (R465,
R470). -/
def State.areaFails (s : State) (w : Power) : Bool :=
  !w.saveInHbm || (!s.lostDies.isEmpty && (linesOf w.saveptr.toNat saveSize).any fun l => s.lostDies.contains (lineHome l))

/-- SAVE_END (R470): the L2 is empty, and for OFF the save area holds the retained state; an area that fails its accesses
fails the save. -/
def execSaveEnd (pp : Nat) (s : State) : Out State :=
  let w := s.power pp
  let t := s.flushL2 pp
  if !(s.hasPower pp && w.st == .saving) then .refused (.notEnabled "SAVE_END")
  else if !(t.linesIn pp).isEmpty then s.heldRow "SAVE_END" t
  else if w.modeOff && t.areaFails w then .next (t.setPower pp { w with st := .quiesce, done := true, err := true })
  else
    match (if w.modeOff then t.writeArea pp else .ok t) with
    | .error u => s.heldRow "SAVE_END" u
    | .ok u => .next (u.setPower pp { w with st := .saved, done := true, fresh := false })

/-- Replace what a parish retains, with its arrival queues. -/
def State.putRetained (s : State) (pp : Nat) (d : ParishData) : State :=
  let s := s.setPdata pp { d with arrivals := [] }
  let s := { s with cores := s.cores.map fun (e : CoreId × Core) =>
      if e.1.die != 0 && s.ppOf e.1 == pp then (e.1, { e.2 with arrival := [] }) else e }
  d.arrivals.foldl (fun s (x : CoreId × List Msg) => s.setCore x.1 { s.core x.1 with arrival := x.2 }) s

/-- The registers of a parish's cores stand at reset (R470); a core keeps its arrival queue. -/
def State.resetCores (s : State) (pp : Nat) : State :=
  { s with cores := s.cores.map fun (e : CoreId × Core) =>
      if e.1.die != 0 && s.ppOf e.1 == pp then (e.1, { Core.reset with arrival := e.2.arrival }) else e }

/-- OP RESTORE starts (R470). -/
def State.startRestore (s : State) (pp : Nat) : State :=
  s.setPower pp { s.power pp with st := .restoring, done := false, err := false }

/-- Whether a restore from the save area fails: its sectors hold poison, or its accesses fail (R465; log 16). -/
def State.restoreFails (s : State) (pp : Nat) : Bool :=
  let w := s.power pp
  w.modeOff && !w.fresh &&
    (s.areaFails w || s.poison.any fun x => decide (w.saveptr.toNat ≤ x * 32 ∧ x * 32 < w.saveptr.toNat + saveSize))

/-- What the reads of a restore ask of the links and homes of the save area (R200, R470). -/
def State.restoreReads (s : State) (pp : Nat) : Held :=
  let w := s.power pp
  if w.modeOff && !w.fresh && !s.restoreFails pp then
    (linesOf w.saveptr.toNat saveSize).foldl (fun (o : Held) l => o.bind fun s => s.homeRead (s.dieOf pp) l) (.ok s)
  else .ok s

/-- The records of gangs that have not started and whose identities have their HOME in a parish take the kill mark: each
member takes the notice when it starts (R401, R470). -/
def State.markGangs (s : State) (pp : Nat) : State :=
  let mine (r : TaskRec) : Bool := !r.single && homeOfTask r.id == pp
  let f (r : TaskRec) : TaskRec := if mine r then { r with kill := true } else r
  let s1 := (s.parishes.flatMap fun e => (e.2.data.overflow.filter mine).map fun r => (e.1, r)).foldl
    (fun s (x : Nat × TaskRec) => s.putSlot x.1 x.2.slot 28 (bytesOf 1 (x.2.prio + 4 * x.2.level + 16 + 32 * x.2.cosched.toNat))) s
  { s1 with parishes := s1.parishes.map fun (e : Nat × Parish) =>
      (e.1, { e.2 with data := { e.2.data with queue := e.2.data.queue.map f, overflow := e.2.data.overflow.map f } }) }

/-- The end of a restore (R470): from the save area for OFF, from retention for RET, and from nothing for a FRESH
parish; one that fails leaves the tables empty, and the tasks of the parish take cause 0x02. -/
def State.endRestore (s : State) (pp : Nat) : State :=
  let w := s.power pp
  let fails := s.restoreFails pp
  let w' := { w with st := .quiesce, ack := true, done := true, err := fails }
  if w.fresh then ((s.putRetained pp ParishData.reset).resetCores pp).setPower pp w'
  else if fails then
    let ids := ((s.parish pp).saved.getD ParishData.reset).tasks.filterMap fun e => if e.ended then none else some e.id
    ((ids.foldl State.notify (s.putRetained pp ParishData.reset)).markGangs pp).setPower pp w'
  else if w.modeOff then (s.putRetained pp ((s.parish pp).saved.getD ParishData.reset)).setPower pp w'
  else s.setPower pp w'

/-- RESTORE_END (R470). -/
def execRestoreEnd (pp : Nat) (s : State) : Out State :=
  if s.hasPower pp && (s.power pp).st == .restoring then
    match s.restoreReads pp with
    | .error t => s.heldRow "RESTORE_END" t
    | .ok t => .next (t.endRestore pp)
  else .refused (.notEnabled "RESTORE_END")

/-- SAVE (R470): OP SAVE in QUIESCE, with the MODE of PW.CTL of the hart that issues it. -/
def execSave (pp : Nat) (s : State) : Out State :=
  if s.hasPower pp && (s.power pp).st == .quiesce then .next (s.save pp s.hart.pwMode) else .refused (.notEnabled "SAVE")

/-- RESTORE (R470): OP RESTORE in POWERED, clocked. -/
def execRestore (pp : Nat) (s : State) : Out State :=
  if s.hasPower pp && (s.power pp).st == .powered && (s.power pp).clken then .next (s.startRestore pp)
  else .refused (.notEnabled "RESTORE")

/-! ### Clocks and rails (R470, R472) -/

/-- A write of PW.CLKEN (R470); none when the table does not accept it. -/
def State.writeClken (s : State) (pp : Nat) (v : Bool) : Option State :=
  let w := s.power pp
  if w.clken = v then some s
  else
    match w.st, v with
    | .saved, false => some (s.setPower pp { w with clken := false, st := .stopped })
    | .stopped, true => some (s.setPower pp { w with clken := true, st := .saved })
    | .powered, true => some (s.setPower pp { w with clken := true })
    | _, _ => none

/-- A write of PW.RAILEN (R470); none when the table does not accept it. -/
def State.writeRailen (s : State) (pp : Nat) (ret main : Bool) : Option State :=
  let w := s.power pp
  if w.enRet = ret ∧ w.enMain = main then some s
  else
    match w.st with
    | .stopped => if !main && ret == !w.modeOff then some (s.setPower pp { w with enRet := ret, enMain := main }) else none
    | .ret => if ret && main then some (s.setPower pp { w with enRet := ret, enMain := main }) else none
    | .off => if ret && main then some (s.setPower pp { w with enRet := ret, enMain := main }) else none
    | _ => none

/-- Whether a parish is in RET or OFF (R472). -/
def State.isDown (s : State) (pp : Nat) : Bool := (s.power pp).st == .ret || (s.power pp).st == .off

/-- Whether every parish of a compute die is in RET or OFF. -/
def State.dieDown (s : State) (d : Nat) : Bool :=
  (List.range (Config.parishesOf s.member d)).all fun i => s.isDown (Config.packageParish s.member d i)

/-- The links of a compute die, with whether the die at the other end allows SLEEP. -/
def State.linksOf (s : State) (d : Nat) : List LinkId :=
  [.green d, .well (2 * d + 6), .well (2 * d + 7)] ++
    (([1, 2, 3, 4].filter fun e => neighbours d e && s.dieDown e).map fun e => linkOf d e)

/-- Whether a link may enter SLEEP (R472). -/
def State.maySleep (s : State) : LinkId → Bool
  | .well w => s.dieDown (ownerOf w)
  | .compute d e => s.dieDown d && s.dieDown e
  | .green d => s.dieDown d

/-- The links of a compute die whose parishes are all down enter SLEEP (R472). -/
def State.linkSleep (s : State) (d : Nat) : State :=
  if s.dieDown d then
    { s with links := (s.linksOf d).foldl (fun l x => if alGet .active x l = .lost then l else alSet x .sleep l) s.links }
  else s

/-- What a parish loses when its main rail falls (R129, R470; log 24): its harts, the registers of its cores, and for
OFF its retained state. -/
def State.railDown (s : State) (pp : Nat) (off : Bool) : State :=
  let s := ((s.placesIn pp).foldl (fun s p => s.setHart p Hart.vacant) s).resetCores pp
  if off then s.putRetained pp ParishData.reset else s

/-- RAIL_SETTLED (R470): RAILOK reaches the commanded value; a lost die is not brought back (R465). -/
def execRailSettled (pp : Nat) (s : State) : Out State :=
  let w := s.power pp
  if !s.hasPower pp || (w.okRet == w.enRet && w.okMain == w.enMain) || s.lostDies.contains (s.dieOf pp) then
    .refused (.notEnabled "RAIL_SETTLED")
  else
    let w1 := { w with okRet := w.enRet, okMain := w.enMain }
    match w.st with
    | .stopped =>
      if w1.okMain then .next (s.setPower pp w1)
      else
        let s1 := (s.railDown pp w.modeOff).setPower pp { w1 with st := if w.modeOff then .off else .ret }
        .next (s1.linkSleep (s.dieOf pp))
    | .ret | .off =>
      .next (s.setPower pp (if w1.okRet && w1.okMain then { w1 with st := .powered } else w1))
    | _ => .next (s.setPower pp w1)

/-! ### The PW. registers (R469) -/

/-- PW.CTL of the hart (R469). -/
def Hart.pwCtl (h : Hart) : Word :=
  (0#47 ++ BitVec.ofBool h.seqerr ++ 0#7 ++ BitVec.ofBool h.pwMode ++ h.pwSel : BitVec 64)

/-- Note a write that R470 refuses. -/
def State.seqError (s : State) : State := { s with hart := { s.hart with seqerr := true } }

/-- A write of PW.CTL (R469, R470): SEQERR, MODE and PSEL first, and then OP on the parish that PSEL names. -/
def State.writePwCtl (s : State) (v : Word) : State :=
  let h := { s.hart with
    seqerr := s.hart.seqerr && !v.getLsbD 16
    pwMode := v.getLsbD 8
    pwSel := v.extractLsb' 0 8 }
  let s := { s with hart := h }
  let pp := h.pwSel.toNat
  match (v.extractLsb' 12 2).toNat with
  | 1 => if s.hasPower pp && (s.power pp).st == .quiesce then s.save pp h.pwMode else s.seqError
  | 2 => if s.hasPower pp && (s.power pp).st == .powered && (s.power pp).clken then s.startRestore pp else s.seqError
  | _ => s

/-- A read of PW.QREQ to PW.STATE (R469). -/
def State.readPw (s : State) (num : Nat) : Word :=
  let pp := s.hart.pwSel.toNat
  let w := s.power pp
  if !s.hasPower pp then 0
  else
    match num with
    | 0x301 => ofBool w.qreq
    | 0x302 =>
      let pinned := ((s.placesIn pp).filter fun p => (s.hartAt p).mat.grantRows != 0).length
      BitVec.ofNat 64 (pinned * 65536 + Nat.min 255 (s.occupied pp).length * 256) ||| ofBool w.ack
    | 0x303 => w.saveptr
    | 0x304 => (ofBool w.err <<< 1) ||| ofBool w.done
    | 0x305 => ofBool w.clken
    | 0x306 => (ofBool w.enRet <<< 1) ||| ofBool w.enMain
    | 0x307 => (ofBool w.okRet <<< 1) ||| ofBool w.okMain
    | 0x308 => (ofBool w.pend <<< 1) ||| ofBool w.wake
    | 0x309 => (ofBool w.fresh <<< 9) ||| (ofBool w.modeOff <<< 8) ||| BitVec.ofNat 64 w.st.code
    | _ => 0

/-- WAKE_REQUEST: REQ of PW.WAKE is set by writing 1 (R469). A parish that already runs has nothing to wake. -/
def State.requestWake (s : State) (pp : Nat) : State := s.setPower pp { s.power pp with wake := true }

/-- A write of PW.QREQ to PW.WAKE (R469, R470). -/
def State.writePw (s : State) (num : Nat) (v : Word) : State :=
  let pp := s.hart.pwSel.toNat
  let w := s.power pp
  if !s.hasPower pp then s.seqError
  else
    match num with
    | 0x301 => (s.writeQreq pp (v.getLsbD 0)).getD s.seqError
    | 0x303 =>
      if w.st = .saving ∨ w.st = .restoring then s
      else s.setPower pp { w with saveptr := v &&& 0xFFFFFFFFF0000 }
    | 0x305 => (s.writeClken pp (v.getLsbD 0)).getD s.seqError
    | 0x306 => (s.writeRailen pp (v.getLsbD 1) (v.getLsbD 0)).getD s.seqError
    | 0x308 => if v.getLsbD 0 then s.requestWake pp else s
    | _ => s

/-- WAKE_REQUEST (R469). -/
def execWakeRequest (pp : Nat) (s : State) : Out State :=
  if s.hasPower pp then .next (s.requestWake pp) else .refused (.notEnabled "WAKE_REQUEST")

/-- CLKEN_WRITE (R470): a write that the table does not accept sets SEQERR. -/
def execClkenWrite (pp : Nat) (v : Word) (s : State) : Out State :=
  if s.hasPower pp then .next ((s.writeClken pp (v.getLsbD 0)).getD s.seqError) else .next s.seqError

/-- RAILEN_WRITE (R470): a write that the table does not accept sets SEQERR. -/
def execRailenWrite (pp : Nat) (v : Word) (s : State) : Out State :=
  if s.hasPower pp then .next ((s.writeRailen pp (v.getLsbD 1) (v.getLsbD 0)).getD s.seqError) else .next s.seqError

end Sys2Proof.Machine
end

