-- ==== Sys2Proof/Machine/Ras.lean ====
section
/-! DEFINITION. Soft errors, links and waits (spec 14 R462 to R464, R466; 06 R199, R200, R204; 05 R168; 14 R472): the
rows by which a unit reports an error, a link changes its state, and a parked hart reads again. -/

namespace Sys2Proof.Machine

/-! ### Reports (R462 to R464) -/

/-- UNIT of a MEM.RASLOG entry (R464). -/
def rasCode : RasUnit → Nat
  | .hbm => 0
  | .well => 1
  | .directory => 2
  | .l2 => 3
  | .l1 => 4
  | .croftStore => 5
  | .regFile => 6
  | .link => 7

/-- Mark a sector poisoned (R149, R462). -/
def State.poisonSector (s : State) (x : Nat) : State := if s.poison.contains x then s else { s with poison := x :: s.poison }

/-- A sector is poisoned because of a unit, and MEM.RASLOG takes an entry (R464). -/
def State.poisonFor (u : RasUnit) (s : State) (x : Nat) : State := (s.poisonSector x).logRas 2 (rasCode u) (x * 32)

/-- Whether R463 counts the unit's errors in windows. -/
def rasCounted : RasUnit → Bool
  | .hbm => true
  | .well => true
  | .l2 => true
  | .link => true
  | _ => false

/-- W.HASHSEL's byte after a sub-slice of W-die `w` retires (R204). -/
def retiredByte (b i : Nat) : Nat :=
  match b / 64 with
  | 0 => 64 + i
  | 1 => 128 + i * 8 + b % 8
  | _ => b

/-- A sub-slice retires: its dirty lines are written back, and then W.HASHSEL changes (R204, R463; log 83). A third
retirement sends every access past the well cache, which then holds nothing. -/
def State.retireSlice (s : State) (w i : Nat) : State :=
  let sh := 8 * (w - 8)
  let b := s.hashsel.toNat / 2 ^ sh % 256
  let all := decide (2 ≤ (s.retired.filter fun x => x.1 == .well && 8 + x.2 / 8 % 8 == w).length)
  let stays (line : Nat) : Bool := !(homeOf (line * 128) == w && (all || subSlice s.hashsel (line * 128) == i))
  (s.wellKeep stays).setHash (BitVec.ofNat 64 (s.hashsel.toNat - b * 2 ^ sh + retiredByte b i * 2 ^ sh))

/-- How many units of the kind and set are retired: the ways of an L2 set are numbered 16 to a set (R463). -/
def State.retiredIn (s : State) (u : RasUnit) (set : Nat) : Nat := (s.retired.filter fun x => x.1 == u && x.2 / 16 == set).length

/-- A way of an L2 set is disabled (R463): the line that it holds goes, and the L2 holds one line less. -/
def State.disableWay (s : State) (n loc : Nat) : State :=
  let pp := wayParish n
  let l := lineOf loc
  let s := if alHas (pp, l) s.coh.l2 && !s.lineBusy l && !s.storePending l && s.reaches (s.dieOf pp) (lineHome l) then s.evictWhole pp l else s
  s.shrink pp (s.l2Room pp) 1

/-- What retiring a unit does (R463): an HBM row is remapped to a spare, or its sectors are poisoned; a sub-slice leaves
the hash; a way is disabled, or, past four, its line is poisoned; a lane is repaired. -/
def State.retireUnit (s : State) (u : RasUnit) (n loc : Nat) : State :=
  match u with
  | .hbm => if Config.spareRow n then s else (Config.rowSectors loc).foldl (State.poisonFor .hbm) s
  | .well => s.retireSlice (8 + n / 8 % 8) (n % 8)
  | .l2 =>
    if s.retiredIn .l2 (n / 16) < 4 then s.disableWay n loc
    else (List.range 4).foldl (fun s i => State.poisonFor .l2 s (loc / 128 * 4 + i)) s
  | _ => s

/-- CORRECTED_ERROR (R463, R464): the unit counts it; at 8 in one window the unit is retired. Register files correct
nothing (R461). -/
def execCorrectedError (u : RasUnit) (unitNo loc : Nat) (s : State) : Out State :=
  let s1 := s.logRas 0 (rasCode u) loc
  if u = .regFile then .refused (.notEnabled "CORRECTED_ERROR")
  else if !rasCounted u || s.retired.contains (u, unitNo) then .next s1
  else
    let n := alGet 0 (u, unitNo) s.counts + 1
    let s2 := { s1 with counts := alSet (u, unitNo) n s1.counts }
    if n < 8 then .next s2
    else .next ({ (s2.retireUnit u unitNo loc) with retired := (u, unitNo) :: s2.retired } |>.logRas 1 (rasCode u) loc)

/-- RAS_WINDOW: a unit's window ends, and its count restarts (R463). -/
def execRasWindow (u : RasUnit) (unitNo : Nat) (s : State) : Out State :=
  .next { s with counts := alDel (u, unitNo) s.counts }

/-- Whether a task is held as a Carter frame: in a Carter queue, or in a queue of a parish. -/
def State.framed (s : State) (id : BitVec 32) : Bool :=
  s.carter.any (fun f => f.hart.taskId == id) ||
    s.parishes.any fun e => (e.2.data.queue ++ e.2.data.overflow).any fun r => r.id == id && r.resume.isSome

/-- PARITY_ERROR: a parity error of a hart's registers or queues, or of a Carter frame, sends cause 0x02 to the task
(R461, R462). -/
def execParityError (p : ParityAt) (s : State) : Out State :=
  match p with
  | .hart p =>
    if s.places.contains p then .next (s.setHart p { s.hartAt p with pend2 := true }) else .refused (.notEnabled "PARITY_ERROR")
  | .frame id => if s.framed id then .next (s.markKill id) else .refused (.notEnabled "PARITY_ERROR")

/-- UNCORRECTABLE_ERROR: the data is marked poisoned and carried on, and MEM.RASLOG takes an entry (R462, R464). -/
def execUncorrectableError (u : RasUnit) (addr : Nat) (s : State) : Out State :=
  match u with
  | .regFile => .refused (.notEnabled "UNCORRECTABLE_ERROR")
  | _ => .next ((s.poisonSector (addr / 32)).logRas 2 (rasCode u) addr)

/-! ### Links (R199, R200, R472) -/

/-- Whether the link exists (R20). -/
def linkExists : LinkId → Bool
  | .well w => decide (8 ≤ w ∧ w ≤ 15)
  | .compute d e => decide (1 ≤ d ∧ d < e ∧ e ≤ 4) && neighbours d e
  | .green d => decide (1 ≤ d ∧ d ≤ 4)

/-- The two dies of a link, as MEM.RASLOG names them (R464; log 26). -/
def linkLoc : LinkId → Nat
  | .well w => ownerOf w * 16 + w
  | .compute d e => d * 16 + e
  | .green d => d

/-- A link carries traffic, and nothing waits for its wake. -/
def State.linkUp (s : State) (l : LinkId) : State :=
  ({ s with links := alSet l .active s.links, waking := s.waking.filter fun x => x.1 != l } : State).freeHeld

/-- LINK_ACTIVE: a link that a held request wakes reaches ACTIVE, and the requests that it held go on (R200). -/
def execLinkActive (l : LinkId) (s : State) : Out State :=
  if linkExists l && (s.linkState l == .doze || s.linkState l == .sleep) && s.waking.any fun x => x.1 == l then .next (s.linkUp l)
  else .refused (.notEnabled "LINK_ACTIVE")

/-- LINK_DOZE: a link without traffic for 20,000 cycles enters DOZE, and SLEEP when every parish of the compute die at
its end is in RET or OFF (R472). -/
def execLinkDoze (l : LinkId) (s : State) : Out State :=
  match linkExists l, s.linkState l with
  | true, .active => .next { s with links := alSet l (if s.maySleep l then .sleep else .doze) s.links }
  | _, _ => .refused (.notEnabled "LINK_DOZE")

/-! ### Parked harts (R166 to R168) -/

/-- A parked WAITM reads again (R168). -/
def State.reread (s : State) (p : Place) : State := s.setHart p { s.hartAt p with wait := .running }

/-- WAKE_NOTICE: a write of a watched location wakes the hart, which reads again (R168). -/
def execWakeNotice (p : Place) (s : State) : Out State :=
  match (s.hartAt p).wait with
  | .watching _ true => .next (s.reread p)
  | _ => .refused (.notEnabled "WAKE_NOTICE")

/-- WATCH_POLL: a WAITM without a watch entry reads again (R168). -/
def execWatchPoll (p : Place) (s : State) : Out State :=
  match (s.hartAt p).wait with
  | .watching _ false => .next (s.reread p)
  | _ => .refused (.notEnabled "WATCH_POLL")

/-- PEER_TIMEOUT: the next access of a hart or an engine to a peer window has no response in 10 ms: it takes cause 0x0D,
or the request ends with FAULT and CAUSE 0x0D (R454). -/
def execPeerTimeout (a : Agent) (s : State) : Out State :=
  match a with
  | .hart p => if s.places.contains p then .next { s with timeout := some a } else .refused (.notEnabled "PEER_TIMEOUT")
  | .engine e =>
    if (kickSlot (0x20000 + (e.die * 128 + e.parish * 32 + e.core) * 8)) == some e then .next { s with timeout := some a }
    else .refused (.notEnabled "PEER_TIMEOUT")

end Sys2Proof.Machine
end

