-- ==== Sys2Proof/Machine/HostPort.lean ====
section
/-! DEFINITION. The host interface (spec 14 R445 to R453, R458 to R460, R488 to R490): reset, configuration, BAR2, the
function table, CXL extents, key slots and the root of trust. -/

namespace Sys2Proof.Machine

/-- COLD_RESET (R458): everything is at its reset value but for what a reset does not reach: the member, the bytes of
memory (log 17), the leaf index in nonvolatile storage (R460), and the model's own schedule and counters. Whether the
firmware image passes the ROM's check, or the device stays in recovery, is a free value (R459; log 6). -/
def execColdReset (s : State) : Out State :=
  let (k, s) := s.draw
  .next { State.resetOf s.member with
    mem := s.mem, poison := s.poison, leaf := s.leaf, hostOut := s.hostOut, turns := s.turns, free := s.free
    clock := s.clock, recovery := Config.imageFails k }

/-! ### The CCID of a page (R206, R447) -/

/-- The roots of the page tables that a context of the package holds (R202, R386, R212). -/
def State.roots (s : State) : List Word :=
  ((s.places.map fun p => (s.hartAt p).ptroot) ++ (s.carter.map fun f => f.hart.ptroot) ++
    (s.cores.flatMap fun e => [e.2.winCtx.ptroot, e.2.strayCtx.ptroot]) ++
    s.parishes.flatMap fun e => e.2.data.reeveCtx.ptroot ::
      (e.2.data.queue ++ e.2.data.overflow).flatMap fun r => r.ctx.ptroot :: (match r.resume with | some h => [h.ptroot] | none => [])).eraseDups

/-- The CCIDs of the leaves below a table that map the 64 KiB page of a physical address (R206, R207). Only entries
that hold a written byte can be valid. -/
def State.leafCcids (s : State) (pa : Nat) : Nat → Nat → Nat → List (BitVec 8)
  | 0, _, _ => []
  | fuel + 1, level, table =>
    let base := s.cell table
    let es := ((s.mem.filter fun c => decide (base ≤ c.1 ∧ c.1 < base + 8192)).map fun c => c.1 / 8 * 8).eraseDups
    es.flatMap fun a =>
      let pte : Word := BitVec.ofNat 64 (readNum s.mem a 8)
      let span := 16 + 10 * (4 - level)
      if !pte.getLsbD 0 then []
      else if pte.extractLsb' 1 3 == 0 then
        (if level < 4 then s.leafCcids pa fuel (level + 1) ((pte.extractLsb' 13 39).toNat * 8192) else [])
      else if level ≠ 1 ∧ (pte.extractLsb' 0 52).toNat / 2 ^ span = pa / 2 ^ span then [pte.extractLsb' 52 8]
      else []

/-- The CCIDs that the leaves of the package give a page (log 27). -/
def State.pageCcids (s : State) (pa : Nat) : List (BitVec 8) :=
  (s.roots.flatMap fun r => s.leafCcids pa 4 1 ((r.extractLsb' 13 39).toNat * 8192)).eraseDups

/-- Whether a host access through a function to a page of one CCID is accepted (R447). -/
def Func.accepts (f : Func) (c : BitVec 8) : Bool := c == 0 || (c != 0xFF && f.ccid == c && f.state == .run && f.ide)

/-- The 64 KiB pages of a run of bytes. -/
def pageNumbers (a n : Nat) : List Nat := (List.range ((a % 65536 + n + 65535) / 65536)).map fun i => a / 65536 + i

/-- Whether a host access is accepted on every page that it reaches (R447). -/
def State.hostAccepts (s : State) (f a n : Nat) : Bool :=
  (pageNumbers a n).all fun p => (s.pageCcids (p * 65536)).all (s.func f).accepts

/-! ### Accesses of the host (R446, R449, R489, R490) -/

/-- Whether an access lies in the aperture of a function (R446). -/
def State.inAperture (s : State) (f off n : Nat) : Bool :=
  decide (0 < n) && decide (off + n ≤ 2 ^ 39) && decide (off + n ≤ (s.func f).bar2)

/-- The homes of a run of bytes serve the host now, or its request waits (R191, R200, R488). -/
def State.homesServe (s : State) (a n : Nat) : Held :=
  (linesOf a n).foldl (fun (o : Held) l => o.bind fun s => if s.homeUp l then s.homeRead 0 l else .error s) (.ok s)

/-- A write at the homes of its lines, by an agent that holds no copy (R488). -/
def State.writeAtHomes (s : State) (a : Nat) (bs : List Byte) : Held :=
  ((linesOf a bs.length).foldl (fun (o : Held) l =>
    o.bind fun s => if s.homeUp l then s.farFrom 0 l (s.lineSectors l a bs.length) true else .error s) (.ok s)).bind fun s =>
      .ok (s.putBytes a bs)

/-- The function whose rights an access has: CXL.mem is PF0's (log 56). -/
def viaFunc : HostVia → Nat
  | .bar2 f => f.toNat
  | _ => 0

/-- Whether an access lies in what the host reaches this way (R446, R449). -/
def State.hostReaches (s : State) (via : HostVia) (off n : Nat) : Bool :=
  match via with
  | .bar0 => false
  | .bar2 f => s.inAperture f.toNat off n
  | .mem keep => decide (0 < n ∧ off + n ≤ 2 ^ 39) && (!keep || (off % 64 == 0 && n % 64 == 0))

/-- The granules that the host holds and another agent must have back before an access of the host (R449): not its own,
of an access as CXL.mem. -/
def snoopFor (snoop : List Nat) (via : HostVia) (off n : Nat) : List Nat :=
  match via with
  | .mem _ => snoop.filter fun g => !(decide (off < g * 64 + 64) && decide (g * 64 < off + n))
  | _ => snoop

/-- HOST_WRITE (R446, R447, R449, R490). One that needs a line homed on a lost W-die is never served (R465; log 90). -/
def execHostWrite (via : HostVia) (off : Nat) (data : List Byte) (s : State) : Out State :=
  if via = .bar0 then .next (s.bar0Write off data)
  else if !s.hostReaches via off data.length then .next { s with hostOut := s.hostOut ++ [.unsupported] }
  else if !s.hostAccepts (viaFunc via) off data.length then .next s
  else
    let u : State := { s with coh := { s.coh with snoop := snoopFor s.coh.snoop via off data.length } }
    match u.writeAtHomes off data with
    | .ok t => .next { t with coh := { t.coh with snoop := s.coh.snoop } }
    | .error t => s.heldRow "HOST_WRITE" t

/-- What BAR0 maps: the words of the message window and the POST registers, in whole words (R446, R489). -/
def State.bar0Words (s : State) (off n : Nat) : Option (List Byte) :=
  if 0 < n ∧ off % 8 = 0 ∧ n % 8 = 0 ∧ off + n ≤ 0x1080 then
    some ((List.range (n / 8)).flatMap fun i => bytesOf 8 (s.devRead (off + 8 * i)).toNat)
  else none

/-- The filter's entries in a host's read that it keeps: its granules, and no more than 1,048,576 in all; the oldest
beyond them are back-invalidated (R449). -/
def keepGranules (snoop : List Nat) (off n : Nat) : List Nat :=
  let new := (List.range (n / 64)).map fun i => off / 64 + i
  let all := (snoop.filter fun g => !new.contains g) ++ new
  all.drop (all.length - 2 ^ 20)


/-- HOST_READ (R446, R447, R449, R490): through BAR0, BAR2, or as CXL.mem, where the host may keep the granules. One that
needs a line homed on a lost W-die is never served (R465; log 90). -/
def execHostRead (via : HostVia) (off : Nat) (len : Nat) (s : State) : Out State :=
  let answer (a : HostAnswer) : Out State := .next { s with hostOut := s.hostOut ++ [a] }
  match via with
  | .bar0 => (match s.bar0Words off len with | some bs => answer (.data bs) | none => answer .unsupported)
  | _ =>
    if !s.hostReaches via off len then answer .unsupported
    else if !s.hostAccepts (viaFunc via) off len then answer .abort
    else
      let v : State := { s with coh := { s.coh with snoop := snoopFor s.coh.snoop via off len } }
      match v.homesServe off len with
      | .error t => s.heldRow "HOST_READ" t
      | .ok _ =>
        if (sectorsOf off len).any fun x => s.poison.contains x then answer .poisoned
        else
          let t : State := { s with hostOut := s.hostOut ++ [.data (s.memBytes off len)] }
          match via with
          | .mem true => .next { t with coh := { t.coh with snoop := keepGranules t.coh.snoop off len } }
          | _ => .next t

/-- HOST_CONFIG_WRITE: the size of a function's BAR2 aperture, at most 512 GiB (R446). -/
def execHostConfigWrite (f : BitVec 4) (size : Nat) (s : State) : Out State :=
  if size ≤ 2 ^ 39 then .next (s.setFunc f.toNat { s.func f.toNat with bar2 := size })
  else .refused (.notEnabled "HOST_CONFIG_WRITE")

/-! ### Functions (R446, R447) -/

/-- The transitions of TDISP (log 28): lock, start, an error, and the stop from any state. -/
def tdispStep : Tdisp → Tdisp → Bool
  | .unlocked, .locked => true
  | .locked, .run => true
  | .locked, .error => true
  | .run, .error => true
  | _, .unlocked => true
  | _, _ => false

/-- TDISP_MESSAGE (R446, R447). -/
def execTdispMessage (f : BitVec 4) (state : Tdisp) (s : State) : Out State :=
  let x := s.func f.toNat
  if tdispStep x.state state then .next (s.setFunc f.toNat { x with state := state })
  else .refused (.notEnabled "TDISP_MESSAGE")

/-- Functions other than one whose IDE stream is keyed. -/
def State.keyedBeside (s : State) (f : Nat) : Nat := (s.funcs.filter fun e => e.1 != f && e.2.ide).length

/-- IDE_KM: at most 8 selective streams (R446, R447). -/
def execIdeKm (f : BitVec 4) (keyed : Bool) (s : State) : Out State :=
  if keyed && decide (8 ≤ s.keyedBeside f.toNat) then .refused (.notEnabled "IDE_KM")
  else .next (s.setFunc f.toNat { s.func f.toNat with ide := keyed })

/-! ### CXL extents and key slots (R433, R452) -/

/-- EXTENT_REMOVE (R452): from here on the range is absent for every agent. -/
def execExtentRemove (i : BitVec 6) (s : State) : Out State :=
  if (s.rangeEntry i.toNat).valid then .next (s.removeExtent i.toNat) else .refused (.notEnabled "EXTENT_REMOVE")

/-- EXTENT_REMOVED (R452): once the last request issued before the removal has completed, VALID clears, and REMOVE then
reads 0. -/
def execExtentRemoved (i : BitVec 6) (s : State) : Out State :=
  let e := s.rangeEntry i.toNat
  if e.valid && e.remove && (!s.cxlHeld.any fun x => x.ext == i.toNat) && !s.copiesIn e then
    .next (s.setRange i.toNat { e with valid := false, remove := false })
  else .refused (.notEnabled "EXTENT_REMOVED")

/-- KEY_WRITE (R433): a write of a word of KEY clears VALID. -/
def execKeyWrite (slot : BitVec 6) (word : Fin 4) (v : Word) (s : State) : Out State := .next (s.writeKeyWord slot.toNat word.val v)

/-! ### The root of trust (R460) -/

/-- SPDM_MEASUREMENT (R460): the next index is durable before the signature leaves; after 2^20 the answer is an error. -/
def execSpdmMeasurement (s : State) : Out State :=
  if s.leaf < 2 ^ 20 then
    .next { s with leaf := s.leaf + 1, hostOut := s.hostOut ++ [.signature s.leaf (Config.freeSignature s.leaf)] }
  else .next { s with hostOut := s.hostOut ++ [.spdmError] }

/-- SPDM_DEBUG_REQUEST (R460): asynchronous cause 0x01 at the hart named. -/
def execSpdmDebugRequest (p : Place) (s : State) : Out State :=
  if s.places.contains p then .next (s.setHart p { s.hartAt p with pend1 := true })
  else .refused (.notEnabled "SPDM_DEBUG_REQUEST")

end Sys2Proof.Machine
end

