-- ==== Sys2Proof/Machine/Aes.lean ====
section
/-! DEFINITION. AES-256 in Galois/Counter Mode (spec 13 R432, and NIST SP 800-38D and FIPS 197, which it names), with a
96-bit IV and a 128-bit tag, on lists of bytes. -/

namespace Sys2Proof.Machine

/-! ### The cipher (FIPS 197) -/

/-- Sixteen entries of the substitution table, the first in the low byte. -/
def sboxRow : Nat → Nat
  | 0 => 0x76ABD7FE2B670130C56F6BF27B777C63
  | 1 => 0xC072A49CAFA2D4ADF04759FA7DC982CA
  | 2 => 0x1531D871F1E5A534CCF73F362693FDB7
  | 3 => 0x75B227EBE28012079A059618C323C704
  | 4 => 0x842FE329B3D63B52A05A6E1B1A2C8309
  | 5 => 0xCF584C4A39BECB6A5BB1FC20ED00D153
  | 6 => 0xA89F3C507F02F94585334D43FBAAEFD0
  | 7 => 0xD2F3FF1021DAB6BCF5389D928F40A351
  | 8 => 0x73195D643D7EA7C41744975FEC130CCD
  | 9 => 0xDB0B5EDE14B8EE4688902A22DC4F8160
  | 10 => 0x79E4959162ACD3C25C2406490A3A32E0
  | 11 => 0x08AE7A65EAF4566CA94ED58D6D37C8E7
  | 12 => 0x8A8BBD4B1F74DDE8C6B4A61C2E2578BA
  | 13 => 0x9E1DC186B95735610EF6034866B53E70
  | 14 => 0xDF2855CEE9871E9B948ED9691198F8E1
  | 15 => 0x16BB54B00F2D99416842E6BF0D89A18C
  | _ => 0

/-- The substitution of one byte. -/
def subByte (x : Byte) : Byte := BitVec.ofNat 8 (sboxRow (x.toNat / 16) / 2 ^ (8 * (x.toNat % 16)))

/-- Multiplication by x in the field. -/
def xtime (x : Byte) : Byte := (x <<< 1) ^^^ (if x.getLsbD 7 then 0x1B else 0)

/-- Bytewise exclusive or. -/
def xorBytes (a b : List Byte) : List Byte := List.zipWith (fun x y => x ^^^ y) a b

/-- The next word of the key schedule; the words so far stand newest first, and `i` is its number. -/
def keyWord (ws : List (List Byte)) (i : Nat) (rcon : Byte) : List Byte :=
  let t := ws.headD []
  let t :=
    if i % 8 = 0 then
      match t with
      | a :: b => xorBytes ((b ++ [a]).map subByte) [rcon, 0, 0, 0]
      | [] => []
    else if i % 8 = 4 then t.map subByte
    else t
  xorBytes (ws.getD 7 []) t

/-- The key schedule from word `i` on. -/
def keySchedule (ws : List (List Byte)) (i : Nat) (rcon : Byte) : Nat → List (List Byte)
  | 0 => ws
  | n + 1 => keySchedule (keyWord ws i rcon :: ws) (i + 1) (if i % 8 = 0 then xtime rcon else rcon) n

/-- The 15 round keys of 16 bytes. -/
def roundKeys (key : List Byte) : List (List Byte) :=
  let ws := (keySchedule ((List.range 8).reverse.map fun i => (key.drop (4 * i)).take 4) 8 1 52).reverse
  (List.range 15).map fun r => ((ws.drop (4 * r)).take 4).flatten

/-- Rows rotate: byte r + 4c comes from r + 4 (c + r). -/
def shiftRows (s : List Byte) : List Byte := (List.range 16).map fun i => s.getD (i % 4 + 4 * ((i / 4 + i % 4) % 4)) 0

/-- One column is mixed. -/
def mixColumn (a b c d : Byte) : List Byte :=
  [xtime a ^^^ (xtime b ^^^ b) ^^^ c ^^^ d, a ^^^ xtime b ^^^ (xtime c ^^^ c) ^^^ d, a ^^^ b ^^^ xtime c ^^^ (xtime d ^^^ d),
    (xtime a ^^^ a) ^^^ b ^^^ c ^^^ xtime d]

def mixColumns : List Byte → List Byte
  | a :: b :: c :: d :: t => mixColumn a b c d ++ mixColumns t
  | _ => []

/-- The rounds; the last one mixes no columns. -/
def aesRounds (s : List Byte) : List (List Byte) → List Byte
  | [] => s
  | [k] => xorBytes (shiftRows (s.map subByte)) k
  | k :: t => aesRounds (xorBytes (mixColumns (shiftRows (s.map subByte))) k) t

/-- One block under round keys. -/
def aesBlock (ks : List (List Byte)) (b : List Byte) : List Byte :=
  match ks with
  | k :: t => aesRounds (xorBytes b k) t
  | [] => b

/-! ### The mode (SP 800-38D) -/

/-- Bytes as a number, the first most significant. -/
def beNum (bs : List Byte) : Nat := bs.foldl (fun n b => n * 256 + b.toNat) 0

/-- The low `n` bytes of a number, the most significant first. -/
def beBytes (n v : Nat) : List Byte := (List.range n).map fun i => BitVec.ofNat 8 (v / 256 ^ (n - 1 - i))

/-- Multiplication in the field of GHASH. -/
def gfMul (x y : BitVec 128) : BitVec 128 :=
  ((List.range 128).foldl (fun (a : BitVec 128 × BitVec 128) i =>
    (if x.getLsbD (127 - i) then a.1 ^^^ a.2 else a.1,
     if a.2.getLsbD 0 then (a.2 >>> 1) ^^^ (0xE1#128 <<< 120) else a.2 >>> 1)) (0, y)).1

/-- Zeros that fill bytes to whole blocks. -/
def pad16 (bs : List Byte) : List Byte := bs ++ List.replicate ((16 - bs.length % 16) % 16) 0

/-- GHASH over whole blocks, `n` of them at most. -/
def ghash (h : BitVec 128) (y : BitVec 128) : Nat → List Byte → BitVec 128
  | 0, _ => y
  | n + 1, bs =>
    match bs with
    | [] => y
    | _ => ghash h (gfMul (y ^^^ BitVec.ofNat 128 (beNum (bs.take 16))) h) n (bs.drop 16)

/-- Block `i` of the key stream: the counter block is the IV and i + 1 (R432). -/
def gcmStream (ks : List (List Byte)) (iv : List Byte) (i : Nat) : List Byte := aesBlock ks (iv ++ beBytes 4 (i + 1))

/-- Sixteen bytes, or fewer at the end, of a text: block `i`, from 1 up. -/
def gcmCrypt (ks : List (List Byte)) (iv : List Byte) (i : Nat) (bs : List Byte) : List Byte := xorBytes bs (gcmStream ks iv i)

/-- The tag of a ciphertext with its additional data. -/
def gcmTag (ks : List (List Byte)) (iv aad ct : List Byte) : List Byte :=
  let h := BitVec.ofNat 128 (beNum (aesBlock ks (List.replicate 16 0)))
  let text := pad16 aad ++ pad16 ct ++ beBytes 8 (8 * aad.length) ++ beBytes 8 (8 * ct.length)
  xorBytes (beBytes 16 (ghash h 0 (text.length / 16) text).toNat) (gcmStream ks iv 0)

end Sys2Proof.Machine
end

