-- ==== Sys2Proof/Machine/SysReg.lean ====
section
/-! DEFINITION. System registers (spec 04 R118 to R125, R138; 03 R97; 06 R201 to R205; 07 R226, R227; 12 R384 to
R386; 14 R464, R466, R468, R469): which level may read or write each, what a read returns, and what a write does. -/

namespace Sys2Proof.Machine

/-! ### Rights (R118, R119) -/

/-- Rights over a register: the lowest level that may read it, and the lowest that may write it; 3 for none. -/
structure Rights where
  read : Nat
  write : Nat
  deriving DecidableEq, Repr

/-- The registers that are assigned, with the rights of each level (R119, R201, R226, R384, R466, R469). SY.HBASE and
SY.HLIMIT are checked again under R386. -/
def rightsOf (num : Nat) : Option Rights :=
  match num with
  | 0x000 => some ⟨0, 1⟩
  | 0x001 | 0x002 | 0x003 | 0x004 => some ⟨1, 1⟩
  | 0x005 => some ⟨1, 2⟩
  | 0x006 => some ⟨1, 1⟩
  | 0x008 | 0x009 | 0x00A => some ⟨0, 3⟩
  | 0x00B => some ⟨1, 1⟩
  | 0x00C => some ⟨0, 1⟩
  | 0x00D | 0x010 => some ⟨0, 3⟩
  | 0x011 => some ⟨0, 1⟩
  | 0x021 | 0x022 | 0x023 | 0x024 | 0x026 => some ⟨2, 2⟩
  | 0x030 | 0x031 | 0x032 | 0x033 => some ⟨0, 0⟩
  | 0x040 | 0x041 => some ⟨1, 1⟩
  | 0x042 => some ⟨0, 2⟩
  | 0x044 | 0x045 => some ⟨1, 2⟩
  | 0x060 | 0x061 => some ⟨0, 0⟩
  | 0x062 => some ⟨0, 1⟩
  | 0x063 => some ⟨1, 1⟩
  | 0x064 => some ⟨0, 3⟩
  | 0x068 => some ⟨1, 2⟩
  | 0x069 => some ⟨3, 1⟩
  | 0x100 => some ⟨1, 2⟩
  | 0x101 => some ⟨1, 1⟩
  | 0x102 => some ⟨1, 3⟩
  | 0x210 => some ⟨2, 3⟩
  | 0x211 => some ⟨3, 1⟩
  | 0x300 | 0x301 | 0x302 | 0x303 | 0x304 | 0x305 | 0x306 | 0x307 => some ⟨1, 2⟩
  | 0x308 => some ⟨1, 1⟩
  | 0x309 => some ⟨1, 3⟩
  | n => if 0x200 ≤ n ∧ n < 0x210 then some ⟨1, 2⟩ else none

/-! ### Layouts -/

/-- Code of a level (R117). -/
def Priv.code : Priv → BitVec 2
  | .task => 0
  | .super => 1
  | .firm => 2

/-- SY.STATUS (R120). -/
def Status.word (t : Status) : Word :=
  (0#51 ++ BitVec.ofBool t.fbusy ++ BitVec.ofBool t.sbusy ++ BitVec.ofBool t.fpaie ++ BitVec.ofBool t.spaie ++
    BitVec.ofBool t.faie ++ BitVec.ofBool t.saie ++ 0#1 ++ t.fpp.code ++ t.spp.code ++ t.priv.code : BitVec 64)

/-- A write of SY.STATUS (R120): PRIV is read-only, and SUPER leaves FIRM's fields alone. -/
def Status.write (t : Status) (v : Word) : Status :=
  let firm := t.priv == .firm
  { fbusy := if firm then v.getLsbD 12 else t.fbusy
    sbusy := v.getLsbD 11
    fpaie := if firm then v.getLsbD 10 else t.fpaie
    spaie := v.getLsbD 9
    faie := if firm then v.getLsbD 8 else t.faie
    saie := v.getLsbD 7
    fpp := if firm then (match (v.extractLsb' 4 2).toNat with | 1 => .super | 2 => .firm | _ => .task) else t.fpp
    spp := if v.extractLsb' 2 2 = 1 then .super else .task
    priv := t.priv }

/-- Writable fields of the cause registers (R121). -/
def causeMask : Word := 0xC000000000000BFF
/-- Writable fields of SY.TVEC and SY.FTVEC (R122). -/
def vecMask : Word := 0xFFFFFFFFFFFFFF01
/-- Writable fields of SY.TDELEG (R123). -/
def delegMask : Word := 0x600000000 ||| 0x1FFFE
/-- Writable fields of SY.MIXCTL (R138). -/
def mixMask : Word := 0xC000000000FFFFFF

/-- SY.LDS (R97). -/
def Hart.ldsWord (h : Hart) : Word := (0#43 ++ h.ldsF ++ 0#3 ++ h.ldsS ++ 0#3 ++ h.ldsT : BitVec 64)

/-- A field of SY.LDS as written: 31 stores 0 (R97). -/
def ldsField (v : BitVec 5) : BitVec 5 := if v = 31 then 0 else v

/-- A write of SY.LDS; SUPER leaves FIRMLD unchanged (R97). -/
def Hart.writeLds (h : Hart) (v : Word) : Hart :=
  { h with
    ldsT := ldsField (v.extractLsb' 0 5)
    ldsS := ldsField (v.extractLsb' 8 5)
    ldsF := if h.status.priv = .firm then ldsField (v.extractLsb' 16 5) else h.ldsF }

/-- Bits of a class in CORECL and MEMCL (R125). -/
def classBits (f : Cls → Bool) : BitVec 6 :=
  BitVec.ofBool (f .M) ++ BitVec.ofBool (f .E) ++ BitVec.ofBool (f .V) ++ BitVec.ofBool (f .S) ++ BitVec.ofBool (f .F) ++
    BitVec.ofBool (f .B)

/-- SY.CLASSES (R125). -/
def State.classesWord (s : State) : Word :=
  (0#32 ++ Config.memberCode s.member ++ 0#2 ++ classBits (Config.carries s.cclass) ++ 0#2 ++
    classBits (Config.memberHas s.member) : BitVec 64)

/-- SY.MIXCNT (R138). -/
def Hart.mixCnt (h : Hart) : Word := (h.nv ++ h.nm ++ h.nf ++ BitVec.ofNat 16 h.winCount : BitVec 64)

/-- SY.MSGSTAT (R385). -/
def State.msgStat (s : State) : Word :=
  let c := s.core s.here.core
  (c.strays ++ c.drops ++ 0#9 ++ BitVec.ofNat 7 (64 - s.arrivalUsed s.here.core) : BitVec 64)

/-- A byte of W.HASHSEL as written: SEL 0b11 stores 0b00, and a field that SEL does not need reads as zero (R204). -/
def hashByte (b : BitVec 8) : BitVec 8 :=
  match (b.extractLsb' 6 2).toNat with
  | 1 => b &&& 0xC7
  | 2 => b
  | _ => 0

/-- W.HASHSEL as written (R204). -/
def hashWord (v : Word) : Word :=
  (hashByte (v.extractLsb' 56 8) ++ hashByte (v.extractLsb' 48 8) ++ hashByte (v.extractLsb' 40 8) ++
    hashByte (v.extractLsb' 32 8) ++ hashByte (v.extractLsb' 24 8) ++ hashByte (v.extractLsb' 16 8) ++
    hashByte (v.extractLsb' 8 8) ++ hashByte (v.extractLsb' 0 8) : BitVec 64)

/-! ### Reads -/

/-- The value that SRD reads, for a register that the level may read. SY.CYCLE and MEM.RASLOG change as they are read:
see `readReg`. -/
def State.regValue (s : State) (num : Nat) : Word :=
  let h := s.hart
  let c := s.core s.here.core
  let d := s.pdata s.pp
  match num with
  | 0x000 => h.status.word
  | 0x001 => h.bankS.pc
  | 0x002 => h.bankS.cause
  | 0x003 => h.bankS.val
  | 0x004 => h.tvec
  | 0x005 => h.tdeleg
  | 0x006 => h.scratch
  | 0x008 => s.hid
  | 0x009 => h.taskId.setWidth 64
  | 0x00A => s.classesWord
  | 0x00B => h.ldsWord
  | 0x00C => h.mixctl
  | 0x00D => h.mixCnt
  | 0x010 => c.cycle
  | 0x011 => h.instret
  | 0x021 => h.bankF.pc
  | 0x022 => h.bankF.cause
  | 0x023 => h.bankF.val
  | 0x024 => h.ftvec
  | 0x026 => h.fscratch
  | 0x030 => h.fflags.setWidth 64
  | 0x031 => h.frm.setWidth 64
  | 0x032 => h.fenable.setWidth 64
  | 0x033 => h.seed.setWidth 64
  | 0x040 => h.asid.setWidth 64
  | 0x041 => h.ptroot
  | 0x042 => h.ccid.setWidth 64
  | 0x044 => d.reevemap
  | 0x045 => d.reevevec
  | 0x060 => c.hbase
  | 0x061 => c.hlimit ||| ofBool c.hen
  | 0x062 => c.howner
  | 0x063 => c.hstray
  | 0x064 => s.msgStat
  | 0x068 => d.stwovf
  | 0x100 => s.hashsel
  | 0x101 => h.diraddr
  | 0x102 => if lineInHbm (lineOf h.diraddr.toNat) then (s.coh.dirOf (lineOf h.diraddr.toNat)).word else 0
  | 0x300 => h.pwCtl
  | n =>
    if 0x200 ≤ n ∧ n < 0x210 then alGet 0 (n - 0x200) s.rates
    else s.readPw n

/-- The cycle counter of the current core passes an unknown number of cycles, and one (R44; log 5). -/
def State.advanceCycle (s : State) : State :=
  let (k, s) := s.draw
  let c := s.core s.here.core
  s.setCore s.here.core { c with cycle := c.cycle + 1 + Config.freeCycles k }

/-- A read of MEM.RASLOG pops one entry; an empty queue answers 0 (R464). -/
def State.popRas (s : State) : Word × State :=
  match s.raslog with
  | w :: t => (w, { s with raslog := t })
  | [] => (0, s)

/-- The read of a register, with what the read changes. -/
def State.readReg (s : State) (num : Nat) : Word × State :=
  match num with
  | 0x010 => let s := s.advanceCycle; (s.regValue num, s)
  | 0x210 => s.popRas
  | _ => (s.regValue num, s)

/-! ### Writes -/

/-- SY.HBASE (R385, R386): the window is disabled, its context recorded, and at TASK its owner is the writer. -/
def State.writeHbase (s : State) (v : Word) : State :=
  let c := s.core s.here.core
  s.setCore s.here.core { c with
    hbase := v &&& ~~~(7 : Word)
    hen := false
    winCtx := s.hart.ctx
    howner := if s.hart.status.priv = .task then (1#64 <<< 63) ||| s.hart.taskId.setWidth 64 else c.howner }

/-- SY.HLIMIT (R385): the window is enabled. -/
def State.writeHlimit (s : State) (v : Word) : State :=
  let c := s.core s.here.core
  s.setCore s.here.core { c with hlimit := v &&& ~~~(7 : Word), hen := true }

/-- SY.HSTRAY (R385, R386): the context is that of the writer, with SY.CCID 0 and SY.FRM 0 (R202, R227). -/
def State.writeHstray (s : State) (v : Word) : State :=
  let c := s.core s.here.core
  s.setCore s.here.core { c with hstray := v &&& ~~~(7 : Word), strayCtx := { s.hart.ctx with ccid := 0, frm := 0 } }

/-- SY.REEVEVEC (R203, R212): the reeve context is that of the writer. -/
def State.writeReevevec (s : State) (v : Word) : State :=
  s.setPdata s.pp { s.pdata s.pp with reevevec := v &&& ~~~(7 : Word), reeveCtx := { s.hart.ctx with frm := 0 } }

/-- SY.REEVEMAP (R203): on the G-die bits 31:16 store zero. -/
def State.writeReevemap (s : State) (v : Word) : State :=
  s.setPdata s.pp { s.pdata s.pp with reevemap := v &&& if s.here.core.die = 0 then 0xFFFF else 0xFFFFFFFF }

/-- The channels whose code changes, ascending from `32 h` (R466, R467). -/
def changedChannels (old new : Word) (base : Nat) : List Nat :=
  ((List.range 32).filter fun c => old.extractLsb' (2 * c) 2 != new.extractLsb' (2 * c) 2).map fun c => base + c

/-- MEM.RATE as written: 0b11 keeps a channel's code (R466). -/
def rateWord (old v : Word) : Word :=
  forN 32 (fun c w =>
    if v.extractLsb' (2 * c) 2 = 3 then w
    else (w &&& ~~~(3#64 <<< (2 * c))) ||| (((v.extractLsb' (2 * c) 2).setWidth 64) <<< (2 * c))) old

/-- A write of MEM.RATE (R466, R467): the channels whose code changes stop serving until they have switched, and a
read then returns the new rate. -/
def State.writeRate (s : State) (reg : Nat) (v : Word) : State :=
  let old := alGet 0 reg s.rates
  let new := rateWord old v
  let chs := (changedChannels old new (32 * (reg % 2))).map fun c => (8 + reg / 2, c)
  { s with rates := alSet reg new s.rates, switching := (s.switching.filter fun x => !chs.contains x) ++ chs }

/-- The entry of a page migration ends (R468). An entry freed early leaves the new page's bytes not defined (log 11). -/
def State.freeMigration (s : State) (m : Migration) : State :=
  let s := { s with migs := dropFirst (fun x => x.old == m.old) s.migs }
  if m.bits = BitVec.allOnes 512 then s
  else
    let (k, s) := s.draw
    { s with mem := writeRun s.mem (s.cell m.new) ((List.range 65536).map fun i => Config.freePage (k * 65536 + i)) }

/-- A write of MEM.MIGCTL (R468). -/
def State.writeMigctl (s : State) (v : Word) : State :=
  match s.migs.find? fun m => m.old == (v.extractLsb' 16 36).toNat * 65536 with
  | none => s
  | some m => if v.getLsbD 0 ∧ m.bits ≠ BitVec.allOnes 512 then s else s.freeMigration m

/-- What SWR does to a register that the level may write (R119, R132). -/
def State.writeReg (s : State) (num : Nat) (v : Word) : State :=
  let h := s.hart
  let put (h : Hart) : State := { s with hart := h }
  match num with
  | 0x000 => put { h with status := h.status.write v }
  | 0x001 => put { h with bankS := { h.bankS with pc := v } }
  | 0x002 => put { h with bankS := { h.bankS with cause := v &&& causeMask } }
  | 0x003 => put { h with bankS := { h.bankS with val := v } }
  | 0x004 => put { h with tvec := v &&& vecMask }
  | 0x005 => put { h with tdeleg := v &&& delegMask }
  | 0x006 => put { h with scratch := v }
  | 0x00B => put (h.writeLds v)
  | 0x00C => put { h with mixctl := (v &&& mixMask) ||| (h.mixctl &&& 0x3000000) }
  | 0x011 => put { h with instret := v }
  | 0x021 => put { h with bankF := { h.bankF with pc := v } }
  | 0x022 => put { h with bankF := { h.bankF with cause := v &&& causeMask } }
  | 0x023 => put { h with bankF := { h.bankF with val := v } }
  | 0x024 => put { h with ftvec := v &&& vecMask }
  | 0x026 => put { h with fscratch := v }
  | 0x030 => put { h with fflags := v.extractLsb' 0 5 }
  | 0x031 => put { h with frm := if 6 ≤ (v.extractLsb' 0 3).toNat then 0 else v.extractLsb' 0 3 }
  | 0x032 => put { h with fenable := v.extractLsb' 0 5 }
  | 0x033 => put { h with seed := if v.extractLsb' 0 32 = 0 then 0x5EEDC0DE else v.extractLsb' 0 32 }
  | 0x040 => put { h with asid := v.extractLsb' 0 16 }
  | 0x041 => put { h with ptroot := v &&& 0xFFFFFFFFFE000 }
  | 0x042 => put { h with ccid := v.extractLsb' 0 8 }
  | 0x044 => s.writeReevemap v
  | 0x045 => s.writeReevevec v
  | 0x060 => s.writeHbase v
  | 0x061 => s.writeHlimit v
  | 0x062 => s.setCore s.here.core { s.core s.here.core with howner := v &&& 0x80000000FFFFFFFF }
  | 0x063 => s.writeHstray v
  | 0x068 => s.setPdata s.pp { s.pdata s.pp with stwovf := v &&& 0xFFFFFFFFFFFFF }
  | 0x069 => s.kill (v.extractLsb' 0 32)
  | 0x100 => s.setHash (hashWord v)
  | 0x101 => put { h with diraddr := v &&& 0xFFFFFFFFFFF80 }
  | 0x211 => s.writeMigctl v
  | 0x300 => s.writePwCtl v
  | n => if 0x200 ≤ n ∧ n < 0x210 then s.writeRate (n - 0x200) v else s.writePw n v

/-- Registers whose write has a behaviour of its own, which other event rows name. -/
def ownWrite (num : Nat) : Bool :=
  [0x045, 0x060, 0x061, 0x063, 0x069, 0x211, 0x300].contains num || decide (0x200 ≤ num ∧ num < 0x210) ||
    decide (0x301 ≤ num ∧ num < 0x30A)

/-- Whether the write of a window register is refused at TASK: the window has another owner (R386). -/
def State.windowDenied (s : State) (num : Nat) : Bool :=
  let c := s.core s.here.core
  s.hart.status.priv == .task && (num == 0x060 || num == 0x061) && c.howner.getLsbD 63 &&
    c.howner.extractLsb' 0 32 != s.hart.taskId

/-! ### The event rows of register writes (the trap's value is a row's, log 67) -/

/-- TKILL (R401). -/
def execTkill (v : Word) (s : State) : Out State := .next (s.writeReg 0x069 v)
/-- HBASE_WRITE (R386): at TASK by another than the owner, cause 0x03. -/
def execHbaseWrite (v : Word) (s : State) : Out State :=
  .next (if s.windowDenied 0x060 then s.trap 0x03 (encBits (.swr 0 0x060)) else s.writeHbase v)
/-- HLIMIT_WRITE (R385, R386): at TASK by another than the owner, cause 0x03. -/
def execHlimitWrite (v : Word) (s : State) : Out State :=
  .next (if s.windowDenied 0x061 then s.trap 0x03 (encBits (.swr 0 0x061)) else s.writeHlimit v)
/-- HSTRAY_WRITE (R386). -/
def execHstrayWrite (v : Word) (s : State) : Out State := .next (s.writeHstray v)
/-- REEVEVEC_WRITE (R212). -/
def execReevevecWrite (v : Word) (s : State) : Out State := .next (s.writeReevevec v)
/-- REGISTER_WRITE (R8): a register without behaviour of its own takes its writable fields. -/
def execRegisterWrite (num : BitVec 12) (v : Word) (s : State) : Out State :=
  match rightsOf num.toNat with
  | some r => if r.write < 3 && !ownWrite num.toNat then .next (s.writeReg num.toNat v) else .refused (.notEnabled "REGISTER_WRITE")
  | none => .refused (.notEnabled "REGISTER_WRITE")
/-- RATE_WRITE (R466). -/
def execRateWrite (reg : BitVec 4) (v : Word) (s : State) : Out State := .next (s.writeRate reg.toNat v)
/-- RASLOG_READ (R464). -/
def execRaslogRead (s : State) : Out State := .next s.popRas.2
/-- MIGCTL_FREE (R468): bit 0 clear frees the entry that names the page. -/
def execMigctlFree (page : Nat) (s : State) : Out State :=
  .next (s.writeMigctl (BitVec.ofNat 64 (page % 2 ^ 36 * 65536)))
/-- MIGCTL_FREE_IF_COMPLETE (R468): bit 0 set frees an entry whose bits are all set. -/
def execMigctlFreeIfComplete (page : Nat) (s : State) : Out State :=
  .next (s.writeMigctl (BitVec.ofNat 64 (page % 2 ^ 36 * 65536 + 1)))

end Sys2Proof.Machine
end

