-- ==== Sys2Proof/Machine/System.lean ====
section
/-! DEFINITION. The system instructions (spec 04 R130 to R133; 06 R211; 07 R228). -/

namespace Sys2Proof.Machine

/-- Whether the hart's level is at least the one given. -/
def State.atLeast (s : State) (l : Priv) : Bool := decide (l.rank ≤ s.hart.status.priv.rank)

/-- SYSCALL: cause 0x0F (R132). -/
def execSyscall (code : BitVec 10) (s : State) : Out State := .next (s.trap 0x0F (code.setWidth 64))

/-- BREAK: cause 0x0E (R132). -/
def execBrk (code : BitVec 10) (s : State) : Out State := .next (s.trap 0x0E (code.setWidth 64))

/-- ERET (R130): the held work that the level entered admits restarts. -/
def execEret (s : State) : Out State :=
  match s.hart.status.priv with
  | .task => .next (s.trap 0x03 (encBits .eret))
  | _ =>
    let h := (s.hart.count .plain).eret
    .next { s with hart := h.unhold h.status.priv }

/-! ### System registers (R118, R132) -/

/-- The trap of a register access: 0x01 for a number that no chapter assigns, 0x03 for a right that the level lacks
(R118, R386). -/
def State.regTrap (s : State) (num : Nat) (rd wr : Bool) (enc : Word) : Option State :=
  match rightsOf num with
  | none => some (s.trap 0x01 enc)
  | some r =>
    let l := s.hart.status.priv.rank
    if (rd && decide (l < r.read)) || (wr && (decide (l < r.write) || s.windowDenied num)) then some (s.trap 0x03 enc)
    else none

/-- What an access of a register waits for: SY.FFLAGS and SY.SEED for the vector queue (R228), a read of W.DIRDATA for a
link that wakes (R200). -/
def State.regReady (s : State) (num : Nat) : Held :=
  let home := homeOf s.hart.diraddr.toNat
  if (num == 0x030 || num == 0x033) && s.hart.nextConvoy.isSome then .error s
  else if num == 0x102 && lineInHbm (lineOf s.hart.diraddr.toNat) && !s.lostDies.contains home then s.reachDie s.here.core.die home
  else .ok s

/-- The read of a register; the entry at a home that is lost is a free value (R205, R465). -/
def State.srdValue (s : State) (num : Nat) : Word × State :=
  if num = 0x102 ∧ lineInHbm (lineOf s.hart.diraddr.toNat) ∧ s.lostDies.contains (homeOf s.hart.diraddr.toNat) then
    let (k, s) := s.draw
    (Config.freeDir k, s)
  else s.readReg num

/-- SRD (R132). -/
def execSrd (a : GReg) (num : BitVec 12) (s : State) : Out State :=
  match s.regTrap num.toNat true false (encBits (.srd a num)) with
  | some t => .next t
  | none =>
    match s.blocked [] a with
    | some t => .next t
    | none =>
      match s.regReady num.toNat with
      | .error t => .next t.stall
      | .ok s =>
        let r := s.srdValue num.toNat
        .next (r.2.finish [] a r.1 4)

/-- A kill that is on its way waits (R200, R471). -/
def State.killHeld (s : State) (num : Nat) (v : Word) : Option State :=
  if num = 0x069 then s.killWait (v.extractLsb' 0 32) else none

/-- SWR (R132). -/
def execSwr (a : GReg) (num : BitVec 12) (s : State) : Out State :=
  match s.regTrap num.toNat false true (encBits (.swr a num)) with
  | some t => .next t
  | none =>
    match s.blocked [a] 0 with
    | some t => .next t
    | none =>
      match s.regReady num.toNat with
      | .error t => .next t.stall
      | .ok s =>
        let v := s.hart.src [] a
        match s.killHeld num.toNat v with
        | some t => .next t
        | none => .next (((s.pop [a]).writeReg num.toNat v).retire 4)

/-- SSWAP: the old value is read and gA written as one action, and then gA takes the old value (R132). -/
def execSswap (a : GReg) (num : BitVec 12) (s : State) : Out State :=
  match s.regTrap num.toNat true true (encBits (.sswap a num)) with
  | some t => .next t
  | none =>
    match s.blocked [a] a with
    | some t => .next t
    | none =>
      match s.regReady num.toNat with
      | .error t => .next t.stall
      | .ok s =>
        let v := s.hart.src [] a
        let r := s.srdValue num.toNat
        .next (((r.2.pop [a]).writeReg num.toNat v).finish [] a r.1 4)

/-! ### TLBINV (R132, R211) -/

/-- Whether TLBINV removes an entry. -/
def TlbEntry.goes (e : TlbEntry) (mode : Fin 3) (va : Word) (asid : BitVec 16) : Bool :=
  match mode with
  | 0 => e.page == va.toNat % 2 ^ 56 / 2 ^ e.span && (e.global || e.asid == asid)
  | 1 => !e.global && e.asid == asid
  | 2 => true

/-- A hart whose stream registers lose the matching translations. -/
def Hart.dropPages (h : Hart) (f : TlbEntry → Bool) : Hart :=
  { h with vec := { h.vec with w := h.vec.w.map fun x => { x with pages := x.pages.filter f } } }

/-- Remove the matching entries from every TLB and every stream register of the package (R211, R424). -/
def State.tlbInvalidate (s : State) (mode : Fin 3) (va : Word) (asid : BitVec 16) : State :=
  let stays (e : TlbEntry) : Bool := !e.goes mode va asid
  { s with
    hart := s.hart.dropPages stays
    others := s.others.map fun (e : Place × Hart) => (e.1, e.2.dropPages stays)
    cores := s.cores.map fun (e : CoreId × Core) => (e.1, { e.2 with tlb := e.2.tlb.filter stays })
    parishes := s.parishes.map fun (e : Nat × Parish) => (e.1, { e.2 with tlb := e.2.tlb.filter stays })
    engTlb := s.engTlb.map fun e => (e.1, e.2.filter stays) }

/-- Whether queued vector work stores to memory. -/
def VWork.stores : VWork → Bool
  | .store _ _ _ => true
  | .vfsave _ => true
  | _ => false

/-- Whether queued matrix work stores to memory. -/
def MWork.stores : MWork → Bool
  | .st _ _ _ => true
  | .extst _ _ _ _ _ => true
  | _ => false

/-- Whether TLBINV waits: for the hart's own older stores, and for accesses that used an entry and are not performed at
DEVICE (R211). -/
def State.tlbinvWaits (s : State) : Bool :=
  (s.hart.liveConvoys.any fun c => c.members.any fun m => m.work.stores) || (s.hart.liveMats.any fun m => m.work.stores) ||
    s.coh.l2.any fun e => e.2.pending

/-- TLBINV goes to every die, and waits for the links on the way (R199, R200, R211). -/
def State.tlbinvReaches (s : State) : Option State :=
  ([0, 1, 2, 3, 4] ++ (List.range 8).map (· + 8)).findSome? s.linkWait

/-- TLBINV (R131, R132). -/
def execTlbinv (b c : GReg) (mode : Fin 3) (s : State) : Out State :=
  if !s.atLeast .super then .next (s.trap 0x03 (encBits (.tlbinv b c mode)))
  else
    match s.blocked [b, c] 0 with
    | some t => .next t
    | none =>
      match s.tlbinvReaches with
      | some t => .next t
      | none =>
      if s.tlbinvWaits then .next s.stall
      else
        let va := s.hart.src [] b
        let asid := (s.hart.src [b] c).extractLsb' 0 16
        .next ((s.finishNone [b, c] 4).tlbInvalidate mode va asid)

/-! ### MIGRATE (R133) -/

/-- The move of MIGRATE to a class (R133). -/
def State.migrateClass (s : State) (k : CoreClass) : State :=
  match s.findOfClass k with
  | some p => s.moveTo p false
  | none => s.toCarter s.hart.needs s.hart.compute none (some k)

/-- The move of MIGRATE to a core (R133); a frame for a parish that is not in RUN is held, and sets its PEND (R471). -/
def State.migrateCore (s : State) (c : CoreId) : State :=
  match (if s.runs (s.ppOf c) then s.freeContext c s.hart.compute else none) with
  | some p => s.moveTo p false
  | none => (if s.runs (s.ppOf c) then s else s.setPend (s.ppOf c)).toCarter s.hart.needs s.hart.compute (some c)

/-- The class that CCLASS names. -/
def classOfCode (w : Word) : Option CoreClass :=
  match (w.extractLsb' 18 2).toNat with
  | 0 => some .C
  | 1 => some .V
  | 2 => some .T
  | _ => none

/-- MIGRATE (R133): the frame waits for the links to where it goes (R200). The cause register of its cause 0x06 holds ACC 0b00, as no access is made (R121; log 78). -/
def execMigrate (b : GReg) (s : State) : Out State :=
  match s.blocked [b] 0 with
  | some t => .next t
  | none =>
    let v := s.hart.src [] b
    let enc := encBits (.migrate b)
    let c := destOf v
    let done := Host.Outcome.next (s.finishNone [b] 4)
    if v.getLsbD 63 && s.hart.status.priv == .task then .next (s.trap 0x03 enc)
    else if s.hart.mat.grantRows ≠ 0 then .next (s.trap 0x0A enc)
    else if v.getLsbD 63 then
      if !Config.coreExists s.member c || (Config.classOf s.member c == .C && s.hart.compute) then .next (s.trap 0x06 v)
      else if c = s.here.core then done
      else if !s.canLeave then .next s.stall
      else
        match (if s.runs (s.ppOf c) && (s.freeContext c s.hart.compute).isSome then s.linkWait c.die else none) with
        | some t => .next t
        | none => .next ((s.finishNone [b] 4).migrateCore c)
    else
      match classOfCode v with
      | none => done
      | some k =>
        if !Config.hasCore s.member k || k == s.cclass || (k == .C && s.hart.compute) then done
        else if !s.canLeave then .next s.stall
        else
          match (s.findOfClass k).bind fun p => s.linkWait p.core.die with
          | some t => .next t
          | none => .next ((s.finishNone [b] 4).migrateClass k)

/-! ### PAUSE and HALT (R132) -/

/-- PAUSE: it completes, and the hart then issues nothing for gB[15:0] cycles. -/
def execPause (b : GReg) (s : State) : Out State :=
  match s.blocked [b] 0 with
  | some t => .next t
  | none =>
    let n := (s.hart.src [] b).extractLsb' 0 16
    let s1 := s.finishNone [b] 4
    .next (if n = 0 then s1 else { s1 with hart := { s1.hart with wait := .paused n.toNat } })

/-- HALT: it completes, and the hart then issues nothing until an asynchronous trap. -/
def execHalt (s : State) : Out State :=
  if !s.atLeast .super then .next (s.trap 0x03 (encBits .halt))
  else
    let s1 := s.finishNone [] 4
    .next { s1 with hart := { s1.hart with wait := .halted } }

/-- PAUSE_EXPIRY (R132). -/
def execPauseExpiry (p : Place) (s : State) : Out State :=
  let h := s.hartAt p
  match h.wait with
  | .paused _ => .next (s.setHart p { h with wait := .running })
  | _ => .refused (.notEnabled "PAUSE_EXPIRY")

/-! ### Asynchronous traps (R127, R128) -/

/-- ASYNC_TRAP (R128): a pending asynchronous cause that the level admits is taken at the boundary. -/
def execAsyncTrap (s : State) : Out State :=
  match s.hart.asyncDue with
  | some c => .next (({ (s.unheldFront s.here) with hart := s.hart.unpark.takeAsync c } : State).noteLockup)
  | none => .refused (.notEnabled "ASYNC_TRAP")

/-- ILLEGAL_INSTRUCTION (R84): the encoding at the pc is no instruction. -/
def execIllegalInstruction (enc : Word) (s : State) : Out State := .next (s.trap 0x01 enc)

end Sys2Proof.Machine
end

