-- ==== Sys2Proof/Machine/Lockhouse.lean ====
section
/-! DEFINITION. The Lockhouse's SEAL and OPEN (spec 13 R432 to R436). -/

namespace Sys2Proof.Machine

/-! ### Key slots (R432, R433) -/

/-- Whether a slot is usable by a context (R433, R435). -/
def KeySlot.usableBy (k : KeySlot) (c : BitVec 8) : Bool := k.valid && k.owner != 0 && k.owner != 0xFF && k.owner == c

/-- The IV of an operation with a counter (R432). -/
def KeySlot.iv (k : KeySlot) (c : Word) : List Byte := beBytes 4 k.salt.toNat ++ beBytes 8 c.toNat

/-- The round keys of a slot; byte 0 of KEY comes first (R433). -/
def KeySlot.rounds (k : KeySlot) : List (List Byte) := roundKeys (bytesOf 32 k.key.toNat)

/-- The crypto block of a record (R434). -/
structure CryptoBlock where
  slot : Nat
  ctr : Word
  tag : Word
  aad : List Byte
  deriving DecidableEq, Repr

def cryptoBlock (bs : List Byte) : CryptoBlock :=
  { slot := recField bs 96 1, ctr := wordOf bs 104, tag := wordOf bs 112, aad := (bs.drop 120).take (recField bs 97 1) }

/-! ### Page checks (R435, R436) -/

/-- The 64 KiB pieces of `n` bytes from `a` up: where each begins and how long it is. -/
def pagePieces (a : Word) : Nat → Nat → List (Word × Nat)
  | 0, _ => []
  | fuel + 1, n =>
    if n = 0 then []
    else
      let k := Nat.min n (65536 - a.toNat % 65536)
      (a, k) :: pagePieces (a + BitVec.ofNat 64 k) fuel (n - k)

/-- Pages that a buffer of up to 16 MiB can touch. -/
def bufferPages (a : Word) (n : Nat) : List (Word × Nat) := pagePieces a 258 n

/-- A page among others, in ascending address. -/
def insertPage (p : Word × Nat) : List (Word × Nat) → List (Word × Nat)
  | [] => [p]
  | q :: t => if p.1.toNat ≤ q.1.toNat then p :: q :: t else q :: insertPage p t

/-- Pages in ascending address (R436). -/
def byAddress (ps : List (Word × Nat)) : List (Word × Nat) := ps.foldr insertPage []

/-- The first page of a buffer that fails steps 1 to 6 of R147 for a context's CCID (R435, R436), and the state with
the A and D bits of those before it. -/
def State.checkPages (s : State) (w : Who) (h : How) : List (Word × Nat) → Got Unit
  | [] => .done () s
  | p :: t =>
    match s.checkMap w h p.1 p.2 with
    | .bad b => .bad b
    | .busy u => .busy u
    | .done _ s1 => s1.checkPages w h t

/-- The leaf of one destination page of an OPEN, by steps 1 and 3 of R147; none in the near window. -/
def State.heldLeaf (s : State) (w : Who) (p : Word × Nat) : Got (Option TlbEntry) :=
  if p.1.extractLsb' 56 8 ≠ 0 then .bad { cause := 0x05, addr := p.1, perm := false }
  else
    match s.locate w .engWrite (p.1.toNat, p.2) with
    | .bad b => .bad b
    | .busy t => .busy t
    | .done x t => .done x.leaf t

/-- The destination pages of an OPEN: mapped, by a level-4 leaf, held, and writable, in ascending address (R434,
R436). The answer is whether every leaf is of level 4. -/
def State.checkHeld (s : State) (w : Who) : List (Word × Nat) → Got Bool
  | [] => .done true s
  | p :: t =>
    match s.heldLeaf w p with
    | .bad b => .bad b
    | .busy u => .busy u
    | .done leaf u =>
      if leaf.any fun e => e.span != 16 then .done false u
      else
        match u.checkMap { w with ccid := 0xFF } .engWrite p.1 p.2 with
        | .bad b => .bad b
        | .busy v => .busy v
        | .done _ v => v.checkHeld w t

/-! ### The buffers, 16 bytes at a time -/

/-- What became of a run through a buffer: done, or a fault after so many bytes, with the ciphertext seen and the parts of
memory written. -/
structure Crypted where
  bad : Option Bad
  bytes : Nat
  cipher : List Byte
  wrote : List Piece
  s : State

/-- Encrypt or decrypt from block `i` (1 is the first) with `n` bytes left: read, combine with the key stream, and
write. `error` while it waits. -/
def State.cryptFrom (s : State) (rd wr : Who) (ks : List (List Byte)) (iv : List Byte) (src dst : Word) (sealing : Bool) :
    Nat → Nat → Nat → List Byte → List Piece → Except State Crypted
  | 0, i, _, c, u => .ok { bad := none, bytes := 16 * (i - 1), cipher := c, wrote := u, s := s }
  | fuel + 1, i, n, c, u =>
    if n = 0 then .ok { bad := none, bytes := 16 * (i - 1), cipher := c, wrote := u, s := s }
    else
      let off := BitVec.ofNat 64 (16 * (i - 1))
      match s.engRead rd (src + off) (Nat.min n 16) with
      | .busy t => .error t
      | .bad b => .ok { bad := some b, bytes := 16 * (i - 1), cipher := c, wrote := u, s := s }
      | .done bs s1 =>
        let out := gcmCrypt ks iv i bs
        match s1.engWritten wr (dst + off) out with
        | .busy t => .error t
        | .bad b => .ok { bad := some b, bytes := 16 * (i - 1), cipher := c, wrote := u, s := s1 }
        | .done ps s2 =>
          s2.cryptFrom rd wr ks iv src dst sealing fuel (i + 1) (n - 16) (c ++ (if sealing then out else bs)) (u ++ ps)

/-- Write zeros over the parts of memory that an OPEN has written, where its translations placed them (R436): no leaf is
read again. -/
def State.zeroAll (s : State) (die : Nat) : List Piece → Held
  | [] => .ok s
  | p :: t =>
    match s.engPut die [p] (List.replicate p.n 0) with
    | .done _ s1 => s1.zeroAll die t
    | .bad _ => s.zeroAll die t
    | .busy u => .error u

/-! ### SEAL (R435) -/

/-- The state in which NEXT of a slot is past a counter (R435, R436). -/
def State.spend (s : State) (slot : Nat) (c : Word) : State := s.setKey slot { s.keySlot slot with next := c + 1 }

/-- The CTR field of the record takes the counter: an 8-byte engine store at its physical address (R426, R435). -/
def State.writeCtr (s : State) (w : Who) (r : EngReq) (c : Word) : Got Unit :=
  let p := s.recordPiece w (r.rec' + 104) 8
  match s.recordFault w .engWrite (r.rec' + 104) 8 with
  | some b => .bad b
  | none => s.engPut w.die [p] (bytesOf 8 c.toNat)

/-- The encryption of a SEAL whose pages have passed their checks, and then its tag (R435). -/
def sealBuffer (w clear : Who) (k : KeySlot) (c : CopyRec) (x : CryptoBlock) (n : Nat) (s : State) : Worked :=
  let ks := k.rounds
  let iv := k.iv k.next
  (s.cryptFrom w clear ks iv c.src c.dst true (n / 16 + 1) 1 n [] []).bind fun z =>
    match z.bad with
    | some b => .ok (.failed b (Nat.min z.bytes n), z.s)
    | none =>
      match z.s.engWrite clear x.tag (gcmTag ks iv x.aad z.cipher) with
      | .busy t => .error t
      | .bad b => .ok (.failed b n, z.s)
      | .done _ s5 => .ok (.ok n, s5)

/-- The work of a SEAL record (R435). -/
def sealWork (e : EngineId) (r : EngReq) (bs : List Byte) (s : State) : Worked :=
  let c := copyRec bs
  let x := cryptoBlock bs
  let k := s.keySlot x.slot
  let n := c.lens.headD 0
  let w := r.who e
  let clear : Who := { w with ccid := 0 }
  if !c.sealed bs then .ok (.plain .badrec, s)
  else if r.level = .firm then .ok (.plain .priv, s)
  else if !k.usableBy r.ctx.ccid then .ok (.plain .nokey, s)
  else if k.next = BitVec.allOnes 64 then .ok (.plain .exhaust, s)
  else
    let s0 := s.spend x.slot k.next
    match s0.writeCtr w r k.next with
    | .busy t => .error t
    | .bad b => .ok (.failed b 0, s0)
    | .done _ s1 =>
      match s1.checkPages w .engRead (bufferPages c.src n) with
      | .busy t => .error t
      | .bad b => .ok (.failed b 0, s1)
      | .done _ s2 =>
        match s2.checkPages clear .engWrite (byAddress (bufferPages c.dst n ++ bufferPages x.tag 16)) with
        | .busy t => .error t
        | .bad b => .ok (.failed b 0, s2)
        | .done _ s3 => sealBuffer w clear k c x n s3

/-- SEAL (R435): a Lockhouse hart takes a SEAL record. -/
def execSealRecord (e : EngineId) (s : State) : Out State :=
  s.engineRow "SEAL" (e.parish == 2) (s.serveReq e 256 (fun bs => recField bs 0 1 == 2) copyNotice (sealWork e))

/-! ### OPEN (R436) -/

/-- The leaf of a destination page takes the owner's CCID, and the page leaves every TLB in the captured ASID (R436,
R211). -/
def State.release (s : State) (w : Who) (owner : BitVec 8) (va : Word) : Got Unit :=
  match s.walk w va.toNat with
  | .bad b => .bad b
  | .busy t => .busy t
  | .done e s1 =>
    let pte : Word := (e.pte &&& ~~~(0xFF#64 <<< 52)) ||| (owner.setWidth 64 <<< 52)
    match s1.farFrom w.die (lineOf e.pteAddr) 0b1111 true with
    | .error t => .busy t
    | .ok s2 => .done () ((s2.putBytes e.pteAddr (bytesOf 8 pte.toNat)).tlbInvalidate 0 va w.asid)

/-- The destination pages of an OPEN are released, one after another (R436). -/
def State.releaseAll (s : State) (w : Who) (owner : BitVec 8) : List (Word × Nat) → Got Unit
  | [] => .done () s
  | p :: t =>
    match s.release w owner p.1 with
    | .bad b => .bad b
    | .busy u => .busy u
    | .done _ u => u.releaseAll w owner t

/-- The decryption of an OPEN whose pages have passed their checks, its tag, and the release of its pages (R436); a leaf that
can no longer be read ends it as any fault after the first write. -/
def openBuffer (w : Who) (k : KeySlot) (c : CopyRec) (x : CryptoBlock) (n : Nat) (s : State) : Worked :=
  let ks := k.rounds
  let iv := k.iv x.ctr
  let clear : Who := { w with ccid := 0 }
  let heldBy : Who := { w with ccid := 0xFF }
  (s.cryptFrom clear heldBy ks iv c.src c.dst false (n / 16 + 1) 1 n [] []).bind fun z =>
    let undo (o : Ended) : Worked := (z.s.zeroAll w.die z.wrote).bind fun u => .ok (o, u)
    match z.bad with
    | some b => undo (.failed b 0)
    | none =>
      match z.s.engRead clear x.tag 16 with
      | .busy t => .error t
      | .bad b => undo (.failed b 0)
      | .done tag s3 =>
        if tag ≠ gcmTag ks iv x.aad z.cipher then undo (.plain .tagfail)
        else
          match (s3.spend x.slot x.ctr).releaseAll w k.owner (bufferPages c.dst n) with
          | .busy t => .error t
          | .bad b => undo (.failed b 0)
          | .done _ s4 => .ok (.ok n, s4)

/-- The work of an OPEN record (R436). -/
def openWork (e : EngineId) (r : EngReq) (bs : List Byte) (s : State) : Worked :=
  let c := copyRec bs
  let x := cryptoBlock bs
  let k := s.keySlot x.slot
  let n := c.lens.headD 0
  let w := r.who e
  if !c.sealed bs then .ok (.plain .badrec, s)
  else if r.level = .firm then .ok (.plain .priv, s)
  else if !k.usableBy r.ctx.ccid then .ok (.plain .nokey, s)
  else if x.ctr < k.next then .ok (.plain .replay, s)
  else if x.ctr = BitVec.allOnes 64 then .ok (.plain .exhaust, s)
  else
    match s.checkPages { w with ccid := 0 } .engRead (byAddress (bufferPages c.src n ++ bufferPages x.tag 16)) with
    | .busy t => .error t
    | .bad b => .ok (.failed b 0, s)
    | .done _ s1 =>
      match s1.checkHeld w (byAddress (bufferPages c.dst n)) with
      | .busy t => .error t
      | .bad b => .ok (.failed b 0, s1)
      | .done false s2 => .ok (.plain .badrec, s2)
      | .done true s2 => openBuffer w k c x n s2

/-- OPEN (R436): a Lockhouse hart takes an OPEN record. -/
def execOpenRecord (e : EngineId) (s : State) : Out State :=
  s.engineRow "OPEN" (e.parish == 2) (s.serveReq e 256 (fun bs => recField bs 0 1 == 3) copyNotice (openWork e))

end Sys2Proof.Machine
end

