-- ==== Sys2Proof/Machine/Loss.lean ====
section
/-! DEFINITION. The loss of a die (spec 14 R463 to R465; 06 R200; 11 R360), and the end of a link's retraining. -/

namespace Sys2Proof.Machine

/-- The dies that are lost with one (R465). -/
def lostWith (d : Nat) : List Nat := if 1 ≤ d ∧ d ≤ 4 then [d, 2 * d + 6, 2 * d + 7] else [d]

/-- The links that end at a die. -/
def linksAt (d : Nat) : List LinkId :=
  if d = 0 then [.green 1, .green 2, .green 3, .green 4]
  else if d ≤ 4 then
    [.green d, .well (2 * d + 6), .well (2 * d + 7)] ++ (([1, 2, 3, 4].filter fun e => neighbours d e).map fun e => linkOf d e)
  else [.well d]

/-! ### Tasks (R360, R465) -/

/-- A hart is lost in every moot that it holds a handle of (R360): the state after, in which the current hart is as it
was, and the hart without its handles. -/
def State.loseMootsOf (s : State) (h : Hart) : State × Hart :=
  let u := ({ s with hart := h } : State).leaveAll true
  ({ u with hart := s.hart }, u.hart)

/-- The hart at a place is lost in its moots. -/
def State.loseMoots (s : State) (p : Place) : State := let u := s.loseMootsOf (s.hartAt p); u.1.setHart p u.2

/-- A hart that holds no handle. -/
def Hart.noHandles (h : Hart) : Hart := { h with handles := Vector.replicate 8 none }

/-- A surviving parent takes the notice (R465). -/
def State.tellParent (s : State) (parent : BitVec 32) : State := if parent ≠ 0 ∧ s.isLive parent then s.notify parent else s

/-- Whether a task is lost with the dies given, by where its HOME table lies. -/
def State.homeLost (s : State) (ds : List Nat) (id : BitVec 32) : Bool := id != 0 && ds.contains (s.dieOf (homeOfTask id))

/-- The tasks whose hart, record or HOME table lies on a lost compute die are lost in their moots, the harts of lost
dies stop, and surviving parents are told (R465). A gang member that is lost so is no member that ends: its LIVE and ARR bits
stay in the gang's record (R379; log 52). -/
def State.loseTasks (s : State) (ds : List Nat) : State :=
  let gone (h : Hart) : Bool := s.homeLost ds h.taskId
  let here := s.places.filter fun p => ds.contains p.core.die
  let away := s.places.filter fun p => !ds.contains p.core.die && gone (s.hartAt p)
  let frames := s.carter.filter fun f => ds.contains f.origin.die || gone f.hart
  let recs := s.parishes.flatMap fun e =>
    (e.2.data.queue ++ e.2.data.overflow).filter fun r => ds.contains (s.dieOf e.1) || s.homeLost ds r.id
  let parents := ((here ++ away).map fun p => (s.hartAt p).parent) ++ (frames.map fun f => f.hart.parent) ++ recs.map fun r => r.parent
  let s1 := (here ++ away).foldl State.loseMoots s
  let s2 := ((recs.filterMap fun r => r.resume) ++ frames.map fun f => f.hart).foldl (fun s h => (s.loseMootsOf h).1) s1
  let s3 := here.foldl (fun s p => s.setHart p Hart.vacant) s2
  let keep (r : TaskRec) : TaskRec :=
    if s.homeLost ds r.id then { r with resume := r.resume.map Hart.noHandles } else r
  let s4 : State := { s3 with
    carter := (s3.carter.filter fun f => !ds.contains f.origin.die).map fun f =>
      if gone f.hart then { f with hart := f.hart.noHandles } else f
    parishes := s3.parishes.map fun e =>
      if ds.contains (s.dieOf e.1) then (e.1, { Parish.reset with pw := e.2.pw })
      else (e.1, { e.2 with data := { e.2.data with queue := e.2.data.queue.map keep, overflow := e.2.data.overflow.map keep } })
    cores := s3.cores.filter fun e => !ds.contains e.1.die
    crofts := s3.crofts.filter fun e => !ds.contains e.1.die }
  parents.foldl State.tellParent s4

/-! ### Lines (R465) -/

/-- The data of a line that a parish of a lost die owned is gone, and its sectors are poisoned. -/
def State.loseData (s : State) (line : Nat) : State :=
  let s := { s with coh := { s.coh with inner := alDel line s.coh.inner, below := alDel line s.coh.below } }
  (List.range (lineSize line / 32)).foldl (fun s i => State.poisonFor .well s (lineAddr line / 32 + i)) s

/-- The lines that a parish of the dies owns. -/
def State.ownedBy (s : State) (ds : List Nat) : List Nat :=
  ((s.coh.l2.filter fun e => e.2.owned && ds.contains (s.dieOf e.1.1)).map fun e => e.1.2) ++
    (s.coh.evict.filter fun e => ds.contains (s.dieOf e.1.1) && (s.coh.dirOf e.1.2).st == .O && (s.coh.dirOf e.1.2).records e.1.1).map fun e => e.1.2

/-- A line that a parish of a lost die held OWNED goes to state I, poisoned; a transaction that waited for its data starts
again from there. One in which the lost parish itself was to own the line goes on until its acknowledgements are in, and
then leaves the line in state I (R192, R465). -/
def State.loseOwner (s : State) (line : Nat) : State :=
  let s := s.loseData line
  match s.activeTx line with
  | none => s.setDir line Dir.reset
  | some t =>
    if (s.coh.dirOf line).ackcnt ≠ 0 then s
    else
      let u : State := { s.setDir line Dir.reset with coh := { (s.setDir line Dir.reset).coh with
        active := dropFirst (fun x => x == t) s.coh.active
        settling := s.coh.settling.filter fun x => x != t } }
      (if u.partyLost t.pp then u else u.startTx t).pumpAll line

/-- What a home does about the parishes of lost dies: an INV to one counts as answered at once, and a line that one
owned is lost (R465). -/
def State.loseSharers (s : State) (ds : List Nat) : State :=
  let gone (m : CohMsg) : Bool := ds.contains (s.dieOf m.pp)
  let asked := (s.coh.inflight.filter fun m => gone m && match m with | .fwd _ _ => true | .fwdData _ _ => true | _ => false).map CohMsg.line
  let owned := (s.ownedBy ds ++ asked).eraseDups
  let acks := (s.coh.inflight.filter fun m => gone m && match m with | .inv _ _ => true | .invAck _ _ => true | _ => false).map CohMsg.line
  let s1 : State := { s with coh := { s.coh with
    inflight := s.coh.inflight.filter fun m => !gone m
    l2 := s.coh.l2.filter fun e => !ds.contains (s.dieOf e.1.1)
    evict := s.coh.evict.filter fun e => !ds.contains (s.dieOf e.1.1)
    waiting := s.coh.waiting.filter fun t => !ds.contains (s.dieOf t.pp) || (match t.req with | .far _ _ => true | _ => false) } }
  let s2 := owned.foldl State.loseOwner s1
  acks.foldl State.countAck s2

/-- The lines homed on lost W-dies: copies go without write-back, and nothing waits for the home (R465). -/
def State.loseHomes (s : State) (ds : List Nat) : State :=
  let gone (line : Nat) : Bool := ds.contains (lineHome line)
  let f (e : CoreId × Core) : CoreId × Core :=
    (e.1, { e.2 with l1d := e.2.l1d.filter (fun x => !gone x.1), l1i := e.2.l1i.filter fun x => !gone x.1 })
  { s with cores := s.cores.map f, coh := { s.coh with
    inner := s.coh.inner.filter fun e => !gone e.1
    well := s.coh.well.filter fun e => !gone e.1
    dir := s.coh.dir.filter fun e => !gone e.1
    l2 := s.coh.l2.filter fun e => !gone e.1.2
    evict := s.coh.evict.filter fun e => !gone e.1.2
    inflight := s.coh.inflight.filter fun m => !gone m.line
    active := s.coh.active.filter fun t => !gone t.line
    settling := s.coh.settling.filter fun t => !gone t.line
    waiting := s.coh.waiting.filter fun t => !gone t.line
    below := s.coh.below.filter fun e => !gone e.1
    dram := s.coh.dram.filter fun e => !gone e.1 } }

/-- The moots homed on lost W-dies are broken (R360, R465). -/
def State.loseDeviceMoots (s : State) (ds : List Nat) : State :=
  (s.moots.filter fun m => ds.contains (mootHome m.name)).foldl (fun s m =>
    match s.moot .device m.name with
    | some x => s.checkMoot .device x.breakNow
    | none => s) s

/-! ### Engines (R465) -/

/-- The engine harts of lost W-dies with a request left: one for each walk queue, and those with kicks. -/
def State.lostWalks (s : State) : List EngineId :=
  ((s.walkQ.filter fun e => s.lostDies.contains e.1 && !e.2.isEmpty).map fun e => { die := e.1, parish := 1, core := 0 }) ++
    (s.kickQ.filter fun e => s.lostDies.contains e.1.die && e.1.parish == 1 && !e.2.isEmpty).map fun e => e.1

/-- The next request of a lost Quarrier ends with FAULT and CAUSE 0x0D, by a report that waits as any does (R422, R465,
R471). Lockhouse hart 0 makes it, and word 1 holds the record's physical address (log 89). -/
def State.failWalk (s : State) (e : EngineId) : Option State :=
  match s.nextReq e with
  | none => none
  | some (r, kick) =>
    let n := walkNotice (s.memBytes r.rec' 128)
    match s.endReq { die := 0, parish := 2, core := 0 } n fun s => (s.takeReq e kick).report { die := 0, parish := 2, core := 0 } r n
      { status := .fault, cause := 0x0D, count := 0, addr := BitVec.ofNat 64 r.rec' } with
    | .ok t => some t
    | .error t => s.ifWoken (s.waitedBy t)

/-- The next report of a lost Quarrier that can be made. -/
def State.failWalks (s : State) : Option State := s.lostWalks.findSome? s.failWalk

/-- The requests of a lost W-die's walk queue, and of its Quarrier's kick queues, end with FAULT and CAUSE 0x0D, now or when
the report can be made; the queues of a lost compute die's copy engine are gone with it. -/
def State.loseEngines (s : State) (ds : List Nat) : State :=
  let s1 : State := { s with
    copyQ := s.copyQ.filter fun e => !ds.contains e.1
    kickQ := s.kickQ.filter fun e => !ds.contains e.1.die || e.1.parish == 1
    lockWait := s.lockWait.filter fun e => !ds.contains e.1.die
    migrating := s.migrating.filter fun e => !ds.contains e.1.die }
  let n := (s.walkQ.map fun e => e.2.length).sum + (s.kickQ.map fun e => e.2.length).sum
  forN n (fun _ s => (s.failWalks).getD s) s1

/-! ### The loss -/

/-- A MEM.RASLOG entry of KIND 5; the spec does not say what its UNIT and LOC hold (R464, R465). -/
def State.logLoss (s : State) : State :=
  let (k, s) := s.draw
  if s.raslog.length ≥ 64 then { s with raslost := true }
  else
    let w : Word := (1#1 ++ BitVec.ofBool s.raslost ++ 5#3 ++ Config.freeRas k : BitVec 64)
    { s with raslog := s.raslog ++ [w], raslost := false }

/-- A die becomes lost, and the loss spreads (R465). -/
def State.loseDie (s : State) (d : Nat) : State :=
  let ds := (lostWith d).filter fun x => !s.lostDies.contains x
  let s1 : State := { s.logLoss with
    lostDies := s.lostDies ++ ds
    links := ((lostWith d).flatMap linksAt).foldl (fun l x => alSet x .lost l) s.links
    waking := s.waking.filter fun x => !((lostWith d).flatMap linksAt).contains x.1 }
  let s1 := s1.freeHeld
  if d = 0 then s1
  else ((((s1.loseTasks ds).loseSharers ds).loseHomes ds).loseDeviceMoots ds).loseEngines ds

/-- The die that is lost when a request has waited for a link: the one behind it, or the compute die at a link to the
G-die (R200, R465). -/
def dieLostWith (x : LinkId × Nat) : Nat := match x.1 with | .green d => d | _ => x.2

/-- Whether the die exists (R17). -/
def dieExists (d : Nat) : Bool := decide (d ≤ 4 ∨ (8 ≤ d ∧ d ≤ 15))

/-- DIE_LOST: a request that a link holds has waited 10 ms, and the die behind the link is lost (R200, R465). -/
def execDieLost (d : Nat) (s : State) : Out State :=
  if dieExists d && !s.lostDies.contains d && s.waking.any fun x => dieLostWith x == d then .next (s.loseDie d) else .refused (.notEnabled "DIE_LOST")

/-- The die that is lost with a link: the one that only it reaches, or the compute die at a link to the G-die; between
two compute dies none is, until a request has waited for it (R463, R465; log 26). -/
def dieBehind : LinkId → Option Nat
  | .well w => some w
  | .green d => some d
  | .compute _ _ => none

/-- LINK_RETRAIN: retraining ends, and the link resumes traffic, or is lost (R463, R464). -/
def execLinkRetrain (l : LinkId) (ok : Bool) (s : State) : Out State :=
  if !linkExists l || s.linkState l == .lost then .refused (.notEnabled "LINK_RETRAIN")
  else
    let s1 := s.logRas 4 (rasCode .link) (linkLoc l)
    if ok then .next s1
    else
      let s2 : State := { s1 with links := alSet l .lost s1.links }
      match dieBehind l with
      | some d => .next (if s2.lostDies.contains d then s2 else s2.loseDie d)
      | none => .next s2

end Sys2Proof.Machine
end

