-- ==== Sys2Proof/Machine/Transcend.lean ====
section
/-! DEFINITION. The special functions of VEC.UN on floating codes (spec 08 R278, R279): square root,
reciprocal, reciprocal square root, 2^c, log2 c and tanh c, each one rounding of the exact value. A value
that has no finite expansion is held as a magnitude cut below at more than 300 bits, with its sticky part
(log 14). -/

namespace Sys2Proof.Machine

/-! ### Fixed point -/

/-- Bits below the point. -/
def fxBits : Nat := 640

/-- The number 1. -/
def fxOne : Nat := 2 ^ fxBits

/-- A product. -/
def fxMul (a b : Nat) : Nat := a * b / fxOne

/-- Σ t/(2i+1) for the odd powers of z that follow `t`, with `n` terms left. -/
def atanhSum (z2 : Nat) : Nat → Nat → Nat → Nat
  | 0, _, _ => 0
  | n + 1, i, t => t / (2 * i + 1) + atanhSum z2 n (i + 1) (fxMul t z2)

/-- ln of p/q for 1 ≤ p/q ≤ 2, by 2 artanh((p − q)/(p + q)). -/
def fxLn (p q : Nat) : Nat :=
  let z := (p - q) * fxOne / (p + q)
  2 * atanhSum (fxMul z z) 210 0 z

/-- ln 2. -/
def fxLn2 : Nat := fxLn 2 1

/-- Σ x^i/i! for the terms that follow `t`, with `n` terms left. -/
def expSum (x : Nat) : Nat → Nat → Nat → Nat
  | 0, _, _ => 0
  | n + 1, i, t => t + expSum x n (i + 1) (fxMul t x / (i + 1))

/-- e^x for 0 ≤ x < 1. -/
def fxExp (x : Nat) : Nat := expSum x 130 0 fxOne

/-! ### Values -/

/-- A magnitude of `m` units of 2^e that lies above its cut. -/
def Ex.above (neg : Bool) (m : Nat) (e : Int) : Ex := { neg := neg, m := m, e := e, sticky := true }

/-- A magnitude as fixed point; the value is below 2^64. -/
def Ex.fx (x : Ex) : Nat :=
  let k := x.e + (fxBits : Int)
  if 0 ≤ k then x.m * 2 ^ k.toNat else x.m / 2 ^ (-k).toNat

/-- 1/c. -/
def Ex.recip (x : Ex) : Ex := Ex.div { neg := false, m := 1, e := 0, sticky := false } x

/-- 1/√c, c above zero: the root of 1/c, with its exponent made even. -/
def Ex.rsqrt (x : Ex) : Ex :=
  let odd := x.e % 2
  let m := x.m * 2 ^ odd.toNat
  let n := 2 ^ (2 * (200 + Nat.log2 m))
  let q := n / m
  let r := isqrt (Nat.log2 q / 2 + 1) q 0
  { neg := false, m := r, e := -((x.e - odd) / 2) - (200 + Nat.log2 m : Nat), sticky := r * r * m != n }

/-- 2^c, c not zero, for |c| < 2^14 or a greater c that is no integer. -/
def Ex.exp2 (x : Ex) : Ex :=
  let c := x.cut 0
  if !c.inexact then
    { neg := false, m := 1, e := if x.neg then -(c.lo : Int) else c.lo, sticky := false }
  else if x.top < -400 then
    -- so near 1 that only the side matters
    (if x.neg then Ex.above false (2 ^ 400 - 1) (-400) else Ex.above false (2 ^ 400) (-400))
  else
    let f := x.fx % fxOne
    let n : Int := if x.neg then -(c.lo : Int) - 1 else c.lo
    let g := if x.neg then fxOne - f else f
    Ex.above false (fxExp (fxMul g fxLn2)) (n - (fxBits : Int))

/-- log2 c, c above zero and not 1. -/
def Ex.log2 (x : Ex) : Ex :=
  let t := x.top
  let p := x.m
  let q := 2 ^ Nat.log2 x.m
  if p = q then Ex.ofInt t
  else
    let f := fxLn p q * fxOne / fxLn2
    if 0 ≤ t then Ex.above false (t.toNat * fxOne + f) (-(fxBits : Int))
    else
      -- t + f lies below zero: its magnitude is −t − f, cut below
      Ex.above true ((-t).toNat * fxOne - f - 1) (-(fxBits : Int))

/-- tanh c, c not zero. -/
def Ex.tanh (x : Ex) : Ex :=
  if x.top < -150 then Ex.above x.neg (x.m * 2 ^ 300 - 1) (x.e - 300)
  else if 8 < x.top then Ex.above x.neg (2 ^ 400 - 1) (-400)
  else
    -- (u − 1)/(u + 1) with u = e^(2c) = 2^n e^r
    let y := 2 * x.fx
    let n := y / fxLn2
    let u := fxExp (y % fxLn2) * 2 ^ n
    Ex.above x.neg ((u - fxOne) * fxOne / (u + fxOne)) (-(fxBits : Int))

/-! ### Operations on codes (R279) -/

/-- VRCP before rounding. -/
def fpRcpRaw : FpNum → Raw
  | .nan q => { num := .nan false, flags := snanFlag q }
  | .inf n => { num := .fin (Ex.zero n), flags := 0 }
  | .fin x =>
    if x.isZero then { num := .inf x.neg, flags := fDZ }
    else { num := .fin { x.recip with neg := x.neg }, flags := 0 }

/-- VRSQ before rounding. -/
def fpRsqRaw : FpNum → Raw
  | .nan q => { num := .nan false, flags := snanFlag q }
  | .inf true => { num := .nan false, flags := fNV }
  | .inf false => { num := .fin (Ex.zero false), flags := 0 }
  | .fin x =>
    if x.isZero then { num := .inf x.neg, flags := fDZ }
    else if x.neg then { num := .nan false, flags := fNV }
    else { num := .fin x.rsqrt, flags := 0 }

/-- VEXP2 before rounding. From 2^14 on the result overflows or lies below every format's smallest value; the fraction of
one that overflows still decides between its neighbours under stochastic rounding (R221). -/
def fpExp2Raw : FpNum → Raw
  | .nan q => { num := .nan false, flags := snanFlag q }
  | .inf n => { num := if n then .fin (Ex.zero false) else .inf false, flags := 0 }
  | .fin x =>
    if x.isZero then { num := .fin { neg := false, m := 1, e := 0, sticky := false }, flags := 0 }
    else if 14 ≤ x.top ∧ (x.neg = true ∨ (x.cut 0).inexact = false) then
      { num := .fin { neg := false, m := 1, e := if x.neg then -(2 ^ 14) else 2 ^ 14, sticky := false }, flags := 0 }
    else { num := .fin x.exp2, flags := 0 }

/-- VLOG2 before rounding. -/
def fpLog2Raw : FpNum → Raw
  | .nan q => { num := .nan false, flags := snanFlag q }
  | .inf true => { num := .nan false, flags := fNV }
  | .inf false => { num := .inf false, flags := 0 }
  | .fin x =>
    if x.isZero then { num := .inf true, flags := fDZ }
    else if x.neg then { num := .nan false, flags := fNV }
    else { num := .fin x.log2, flags := 0 }

/-- VTANH before rounding. -/
def fpTanhRaw : FpNum → Raw
  | .nan q => { num := .nan false, flags := snanFlag q }
  | .inf n => { num := .fin { neg := n, m := 1, e := 0, sticky := false }, flags := 0 }
  | .fin x => if x.isZero then { num := .fin x, flags := 0 } else { num := .fin x.tanh, flags := 0 }

/-- VSQRT to VTANH before rounding. -/
def fpSpecialRaw (op : VUnOp) (x : FpNum) : Raw :=
  match op with
  | .rcp => fpRcpRaw x
  | .rsq => fpRsqRaw x
  | .exp2 => fpExp2Raw x
  | .log2 => fpLog2Raw x
  | .tanh => fpTanhRaw x
  | _ => fpSqrtRaw x

/-- VSQRT to VTANH on a code (R279). -/
def fpSpecial (f : Fmt) (op : VUnOp) (mode : Mode) (draw : Nat) (c : Nat) : FRes :=
  (fpSpecialRaw op (fpValue f c)).round f mode draw

end Sys2Proof.Machine
end

