-- ==== Sys2Proof/Machine/Vector.lean ====
section
/-! DEFINITION. Vector groups, shapes and elements (spec 08 R241 to R250, R256, R259; 09 R302): what a member
of a convoy reads and writes, its operation tag, the checks of its start, and the arithmetic of one
element. -/

namespace Sys2Proof.Machine

/-! ### Widths and groups (R242, R243) -/

/-- Element width in bits. -/
def sewBits : Sew → Nat
  | .e8 => 8
  | .e16 => 16
  | .e32 => 32
  | .e64 => 64

/-- Registers of a group. -/
def grpRegs : Grp → Nat
  | .x1 => 1
  | .x2 => 2
  | .x4 => 4
  | .x8 => 8

/-- The grouping of a number of registers. -/
def grpOf (n : Nat) : Grp := if n ≤ 1 then .x1 else if n ≤ 2 then .x2 else if n ≤ 4 then .x4 else .x8

/-- VLMAX (R243). -/
def VCfg.vlmax (f : VCfg) : Nat := 2048 / sewBits f.sew * grpRegs f.grp

/-- Whether a field names a group (R244). -/
def aligned (g : Nat) (r : VReg) : Bool := r.toNat % g == 0

/-- The registers of the group of `g` at `r`. -/
def regsOf (r : VReg) (g : Nat) : List Nat := (List.range g).map fun i => r.toNat + i

/-- Whether two groups overlap. -/
def overlaps (r : VReg) (g : Nat) (r' : VReg) (g' : Nat) : Bool :=
  decide (r.toNat < r'.toNat + g') && decide (r'.toNat < r.toNat + g)

/-- The value of a vector register. -/
def Vec.reg (v : Vec) (i : Nat) : VR := v.v.getD i { bits := 0, tag := .raw, sew := .e8, grp := .x1 }

/-- The bits of a group, as one number. -/
def Vec.group (v : Vec) (r : VReg) (g : Nat) : Nat :=
  forN g (fun i n => n + (v.reg (r.toNat + i)).bits.toNat <<< (2048 * i)) 0

/-- Element `e` of a group's bits, at `w` bits (R243). -/
def elemOf (n w e : Nat) : Nat := n >>> (e * w) % 2 ^ w

/-- Replace `w` bits at a position. -/
def putBits (n pos w x : Nat) : Nat := n - ((n >>> pos % 2 ^ w) <<< pos) + ((x % 2 ^ w) <<< pos)

/-- A mask. -/
def Vec.mask (v : Vec) (m : Nat) : Nat := (v.m.getD m 0).toNat

/-- Replace a mask. -/
def Vec.setMask (v : Vec) (m : Nat) (x : Nat) : Vec := { v with m := v.m.setIfInBounds m (BitVec.ofNat 2048 x) }

/-- A stream register (R296). -/
def Vec.stream (v : Vec) (k : BitVec 3) : Stream := v.w.getD k.toNat { base := 0, stride := 0, cursor := 0, pages := [] }
def Vec.setStream (v : Vec) (k : BitVec 3) (x : Stream) : Vec := { v with w := v.w.setIfInBounds k.toNat x }

/-- DG of a register covers a byte of it (R241). -/
def raiseDg (dg : Vector Nat 32) (r byte : Nat) : Vector Nat 32 :=
  dg.setIfInBounds r (Nat.max (dg.getD r 0) (byte / 16 + 1))

/-- A group takes new bits, and its DG covers the bytes that were written. -/
def Vec.setGroup (v : Vec) (r : VReg) (g n : Nat) (dg : Vector Nat 32) : Vec :=
  { v with
    v := forN g (fun i t => t.setIfInBounds (r.toNat + i) { v.reg (r.toNat + i) with bits := BitVec.ofNat 2048 (n >>> (2048 * i)) }) v.v
    dg := dg }

/-! ### Shape records and tags (R245 to R247, R250) -/

/-- A shape record (R246). -/
structure Shape where
  tag : Tag
  sew : Sew
  grp : Grp
  deriving DecidableEq, Repr

abbrev Shapes := Vector Shape 32

/-- The shape records of the registers. -/
def Vec.shapes (v : Vec) : Shapes := v.v.map fun r => { tag := r.tag, sew := r.sew, grp := r.grp }

/-- A group's shape records take a new shape (R250). -/
def Shapes.record (sh : Shapes) (r : VReg) (g : Nat) (x : Shape) : Shapes :=
  forN g (fun i t => t.setIfInBounds (r.toNat + i) x) sh

/-- The same, on the registers. -/
def Vec.record (v : Vec) (r : VReg) (g : Nat) (x : Shape) : Vec :=
  { v with
    v := forN g (fun i t => t.setIfInBounds (r.toNat + i) { v.reg (r.toNat + i) with tag := x.tag, sew := x.sew, grp := x.grp }) v.v }

/-- The effective tag of a source group (R246). -/
def Shapes.eff (sh : Shapes) (f : VCfg) (r : VReg) : Tag :=
  let x := sh.getD r.toNat { tag := .raw, sew := .e8, grp := .x1 }
  if x.sew = f.sew ∧ x.grp = f.grp ∧ (regsOf r (grpRegs f.grp)).all fun i => sh.getD i x == x then x.tag else .raw

/-- The operation tag of some effective tags; none is cause 0x09 (R247). -/
def opTag (ts : List Tag) : Option Tag :=
  match (ts.filter fun t => t != .raw).eraseDups with
  | [] => some .raw
  | [t] => some t
  | us => if us.all fun t => t == .sint || t == .uint then some .sint else none

/-- The bitwise group (R248). -/
def VBin.bitwise : VBin → Bool
  | .and => true
  | .or => true
  | .xor => true
  | .shl => true
  | .shr => true
  | _ => false

/-- VNOT, VCLZ and VPOPC, of the bitwise group (R248). -/
def VUnOp.bitwise : VUnOp → Bool
  | .not => true
  | .clz => true
  | .popc => true
  | _ => false

/-- VSQRT to VTANH (R279). -/
def VUnOp.special : VUnOp → Bool
  | .sqrt => true
  | .rcp => true
  | .rsq => true
  | .exp2 => true
  | .log2 => true
  | .tanh => true
  | _ => false

/-- The format that a tag gives at a width (R245); none for an integer, and for e2m1x2. -/
def tagFmt (t : Tag) (s : Sew) : Option Fmt :=
  match t, s with
  | .float, .e16 => some .fp16
  | .float, .e32 => some .fp32
  | .float, .e64 => some .fp64
  | .bfloat, _ => some .bf16
  | .e4m3, _ => some .e4m3
  | .e5m2, _ => some .e5m2
  | _, _ => none

/-- The format of a conversion's source or destination (R280). -/
def cvtFmtOf (t : Tag) (s : Sew) : CvtFmt :=
  match t, s with
  | .float, .e16 => .fp16
  | .float, .e64 => .fp64
  | .float, _ => .fp32
  | .bfloat, _ => .bf16
  | .e4m3, _ => .e4m3
  | .e5m2, _ => .e5m2
  | .e2m1x2, _ => .e2m1
  | .sint, .e8 => .sint8
  | .sint, .e16 => .sint16
  | .sint, .e32 => .sint32
  | .sint, .e64 => .sint64
  | _, .e8 => .uint8
  | _, .e16 => .uint16
  | _, .e32 => .uint32
  | _, .e64 => .uint64

/-! ### The destination of a conversion (R280, R281) -/

/-- Conversions that one source element makes. -/
def VExpand.per : VExpand → Nat
  | .i4 => 2
  | _ => 1

def srcPer : Tag → Nat
  | .e2m1x2 => 2
  | _ => 1

/-- Bits of one destination value. -/
def dstBits (t : Tag) (s : Sew) : Nat :=
  match t with
  | .e2m1x2 => 4
  | _ => sewBits s

/-- The registers that hold `n` values of `b` bits: 1, 2, 4 or 8; none above 8. -/
def groupFor (n b : Nat) : Option Nat :=
  let bytes := (n * b + 7) / 8
  if bytes ≤ 256 then some 1
  else if bytes ≤ 512 then some 2
  else if bytes ≤ 1024 then some 4
  else if bytes ≤ 2048 then some 8
  else none

/-! ### What a member reads and writes (R262, R300) -/

def VSrc.index : VSrc → List VReg
  | ⟨_, .ix v _⟩ => [v]
  | _ => []

def VOpnd.srcs : VOpnd → List VSrc
  | .vec s => [s]
  | _ => []

/-- The vector sources that take part in the operation tag, with their modifiers. -/
def VWork.srcs : VWork → List VSrc
  | .bin _ _ c b => c :: b.srcs
  | .fma _ d c b => ⟨d, .none⟩ :: c :: b.srcs
  | .cmp _ _ _ c b => c :: b.srcs
  | .un _ _ c => [c]
  | .sel _ c b => [c, b]
  | .red _ _ _ c => [c]
  | .scan _ _ c => [c]
  | .compress _ c => [c]
  | .expand _ c => [c]
  | .reshape _ c _ => [c]
  | .extract _ c _ => [c]
  | .cvt _ c _ _ _ _ => [c]
  | .grow _ _ c => [c]
  | _ => []

/-- The element addresses of a member, when it has them. -/
def VWork.at? : VWork → Option VAt
  | .load _ a _ _ => some a
  | .store _ a _ => some a
  | _ => none

/-- The index groups of a memory member (R290). -/
def VAt.index : VAt → List VReg
  | .indexed _ v => [v]
  | _ => []

/-- Other groups a member reads: data, and indices. -/
def VWork.others : VWork → List VReg
  | .load _ a _ _ => a.index
  | .store s a _ => s :: a.index
  | w => w.srcs.flatMap VSrc.index

/-- The destination group of a member. -/
def VWork.dst : VWork → Option VReg
  | .bin _ d _ _ => some d
  | .fma _ d _ _ => some d
  | .un _ d _ => some d
  | .sel d _ _ => some d
  | .red _ _ d _ => some d
  | .scan _ d _ => some d
  | .compress d _ => some d
  | .expand d _ => some d
  | .iota d => some d
  | .reshape d _ _ => some d
  | .insert d _ _ => some d
  | .cvt d _ _ _ _ _ => some d
  | .grow _ d _ => some d
  | .load d _ _ _ => some d
  | .gather d _ _ => some d
  | .vtag d _ => some d
  | _ => none

/-- The mask a member writes; a first-fault load writes m0 (R293). -/
def VWork.dstMask : VWork → Option MReg
  | .cmp _ _ m _ _ => some m
  | .mask _ a _ _ => some a
  | .mmov a _ => some a
  | .load _ _ _ true => some 0
  | _ => none

/-- The masks a member reads besides its selector. -/
def VWork.srcMasks : VWork → List MReg
  | .mask _ _ b c => [b, c]
  | .mmov _ c => [c]
  | .mpopc _ c => [c]
  | .mfirst _ c => [c]
  | _ => []

/-- Vector memory members (R300). -/
def VWork.isMem : VWork → Bool
  | .load _ _ _ _ => true
  | .store _ _ _ => true
  | _ => false

/-- Whole-vector instructions (R300). -/
def VWork.whole : VWork → Bool
  | .red _ _ _ _ => true
  | .scan _ _ _ => true
  | .compress _ _ => true
  | .expand _ _ => true
  | .iota _ => true
  | .reshape _ _ _ => true
  | .mpopc _ _ => true
  | .mfirst _ _ => true
  | _ => false

/-- Instructions that form a convoy of their own (R261). -/
def VWork.own : VWork → Bool
  | .config => true
  | .vtag _ _ => true
  | .vfsave _ => true
  | .vfrestore _ => true
  | .gather _ _ _ => true
  | _ => false

/-- First-fault loads (R293). -/
def VWork.firstFault : VWork → Bool
  | .load _ _ _ ff => ff
  | _ => false

/-- Work that holds back younger vector instructions until it completes (R271, R293). -/
def VWork.barrier : VWork → Bool
  | .load _ _ _ ff => ff
  | .vfsave _ => true
  | .vfrestore _ => true
  | _ => false

/-- The registers that a member writes. -/
def VMember.writes (m : VMember) : List Nat :=
  match m.work.dst with
  | some d => regsOf d m.dgrp
  | none => []

/-- The registers that a member reads. -/
def VMember.reads (m : VMember) : List Nat :=
  (m.work.srcs.map VSrc.reg ++ m.work.others).flatMap fun r => regsOf r (grpRegs m.form.grp)

/-- The masks that a member reads. -/
def VMember.masksRead (m : VMember) : List MReg :=
  (if m.mask = 0 then [] else [m.mask]) ++ m.work.srcMasks

/-- The registers of its sources that carry a modifier of class 1, 2 or 3 (R262). -/
def VMember.modified (m : VMember) : List Nat :=
  (m.work.srcs.filter fun s => s.route != .none).flatMap fun s => regsOf s.reg (grpRegs m.form.grp)

/-- Whether two lists share a register. -/
def sharesReg (a b : List Nat) : Bool := a.any fun x => b.contains x

/-- A joining member conflicts with an older one of its convoy (R262, R300). -/
def VMember.clash (m o : VMember) : Bool :=
  sharesReg m.writes o.writes || sharesReg m.writes o.reads ||
    (match m.work.dstMask with
     | some k => o.work.dstMask == some k || o.masksRead.contains k
     | none => false) ||
    (match o.work with
     | .load _ _ _ _ => sharesReg m.modified o.writes
     | _ => false) ||
    (m.work.whole && o.work.isMem) || (m.work.isMem && o.work.whole)

/-- A structural conflict of a joining member with the convoy it follows (R262, R300). -/
def VMember.conflict (m : VMember) (last : List VMember) : Bool :=
  match last.getLast? with
  | none => true
  | some o =>
    o.work.own || o.work.firstFault || decide (16 ≤ last.length) || last.any m.clash || sharesReg m.modified m.writes

/-! ### Checks at the start of a convoy (R263) -/

/-- Whether the groups that a member names are aligned (R244). The destination of a conversion has a size of its
own, and QGATHER has checks of its own (R437). -/
def VMember.alignedAll (m : VMember) : Bool :=
  let g := grpRegs m.form.grp
  (match m.work with
   | .gather d i _ =>
     (match groupFor m.vn 64 with
      | some n => decide (m.vn ≤ 256) && aligned n i && aligned g d && !overlaps d g i n
      | none => false)
   | .cvt _ c _ _ _ _ => aligned g c.reg && c.index.all (aligned g)
   | .grow _ _ c => aligned g c.reg && c.index.all (aligned g)
   | w => (w.srcs.map VSrc.reg ++ w.others).all (aligned g) && (match w.dst with | some d => aligned g d | none => true))

/-- The operation tag of a member, or the effective tag of its one source, under some shape records (R246,
R247). -/
def VMember.opTagOf (m : VMember) (sh : Shapes) : Option Tag :=
  let ts := m.work.srcs.map fun s => sh.eff m.form s.reg
  match m.work with
  | .bin op _ _ _ => if op.bitwise then some ((opTag ts).getD .raw) else opTag ts
  | .insert d _ _ => some (sh.eff m.form d)
  | _ => opTag ts

/-- Whether e2m1x2 is accepted (R247, R302, R305). -/
def VWork.takesE2m1 : VWork → Bool
  | .bin op _ _ _ => op.bitwise
  | .fma _ _ _ _ => false
  | .cmp _ _ _ _ _ => false
  | .un op _ _ => op.bitwise || op == .mv
  | .red op _ _ _ => !(op == .add || op == .min || op == .max)
  | .scan op _ _ => !(op == .add || op == .min || op == .max)
  | _ => true

/-- The size of the destination group under an operation tag; none is a need above 8 (R280). -/
def VMember.dstRegs (m : VMember) (t : Tag) : Option Nat :=
  match m.work with
  | .cvt _ _ dt ds _ _ => groupFor (m.vn * srcPer t) (dstBits dt ds)
  | .grow k _ _ => groupFor (m.vn * k.per) 8
  | _ => some (grpRegs m.form.grp)

/-- Checks that depend on what the instruction is (R255, R274, R278, R280, R291, R300, R308). -/
def VMember.suits (m : VMember) (t : Tag) : Bool :=
  let g := grpRegs m.form.grp
  let fp := (tagFmt t m.form.sew).isSome
  let apart (d : VReg) (c : VSrc) : Bool := !overlaps d g c.reg g && c.index.all fun i => !overlaps d g i g
  let cvtOk (d : VReg) (c : VSrc) : Bool :=
    match m.dstRegs t with
    | some n => aligned n d && !overlaps d n c.reg g
    | none => false
  match m.work with
  | .bin .mulh _ _ _ => !fp
  | .bin .rem _ _ _ => !fp
  | .un op _ _ => !op.special || fp
  | .red _ _ d c => apart d c
  | .scan _ d c => apart d c
  | .compress d c => apart d c
  | .expand d c => apart d c
  | .reshape d c row => apart d c && (m.vn == 0 || (row != 0 && m.vn % row.toNat == 0))
  | .cvt d c _ _ _ _ => cvtOk d c
  | .grow _ d c => cvtOk d c
  | .load _ _ tag _ => tag.legalAt m.form.sew
  | .vtag _ tag => tag.legalAt m.form.sew
  | _ => true

/-- The check of a member under some shape records: its operation tag, or none for cause 0x09 (R263). -/
def VMember.check (m : VMember) (sh : Shapes) : Option Tag :=
  if !m.alignedAll then none
  else
    match m.opTagOf sh with
    | none => none
    | some t => if (t = .e2m1x2 ∧ !m.work.takesE2m1) ∨ !m.suits t then none else some t

/-- Instructions that change nothing with VN = 0 (R256, R304). -/
def VWork.idleAtZero : VWork → Bool
  | .bin _ _ _ _ => true
  | .fma _ _ _ _ => true
  | .cmp _ _ _ _ _ => true
  | .un _ _ _ => true
  | .cvt _ _ _ _ _ _ => true
  | .grow _ _ _ => true
  | .red _ _ _ _ => true
  | .scan _ _ _ => true
  | _ => false

/-- Whether a member changes nothing because its VN is 0. -/
def VMember.idle (m : VMember) : Bool := m.vn == 0 && m.work.idleAtZero

/-- The shape that a member records on its destination (R250), when it writes one. -/
def VMember.leaves (m : VMember) (t : Tag) : Option Shape :=
  let same (t : Tag) : Option Shape := if m.idle then none else some { tag := t, sew := m.form.sew, grp := m.form.grp }
  match m.work with
  | .un .clz _ _ => same .uint
  | .un .popc _ _ => same .uint
  | .iota _ => same .uint
  | .cvt _ _ dt ds _ _ => if m.idle then none else some { tag := dt, sew := ds, grp := grpOf m.dgrp }
  | .grow _ _ _ => if m.idle then none else some { tag := .e4m3, sew := .e8, grp := grpOf m.dgrp }
  | .load _ _ tag _ => some { tag := tag, sew := m.form.sew, grp := m.form.grp }
  | .gather _ _ _ => some { tag := .raw, sew := m.form.sew, grp := m.form.grp }
  | .vtag _ tag => some { tag := tag, sew := m.form.sew, grp := m.form.grp }
  | _ => same t

/-- The shape records after a member. -/
def VMember.predict (m : VMember) (sh : Shapes) (t : Tag) : Shapes :=
  match m.work.dst, m.leaves t with
  | some d, some x => sh.record d m.dgrp x
  | _, _ => sh

/-- The shape records as the queued members will leave them, for the size of a conversion's destination at
dispatch (R262, R280). -/
def predictAll (sh : Shapes) (ms : List VMember) : Shapes :=
  ms.foldl (fun sh m => m.predict sh ((m.check sh).getD .raw)) sh

/-- The checks of a whole convoy, each member under the records that the ones before it leave (R263). A member
that has passed keeps its tag (R268). None: the first member that fails. -/
def checkAll : Shapes → List VMember → Except VMember (List VMember)
  | _, [] => .ok []
  | sh, m :: t =>
    match (match m.tag with | some x => some x | none => m.check sh) with
    | none => .error m
    | some x =>
      let m' := { m with tag := some x, dgrp := (m.dstRegs x).getD m.dgrp }
      match checkAll (m'.predict sh x) t with
      | .ok ms => .ok (m' :: ms)
      | .error e => .error e

/-! ### Routing (R259) -/

/-- The source element that a routed read names. -/
def Route.index (r : Route) (ix : Nat) (w vn e : Nat) : Nat :=
  match r with
  | .none => e
  | .rot k => (((e : Int) + s64 k) % (vn : Int)).toNat
  | .bc k => k.toNat
  | .fly j => e ^^^ 2 ^ j
  | .rev n => if n = 0 then vn - 1 - e else e ^^^ (2 ^ n - 1)
  | .ix _ modulo => let j := elemOf ix w e; if modulo then j % vn else j

/-- The reader of a source: element by element, all zero bits beyond VN. -/
def Vec.reader (v : Vec) (f : VCfg) (vn : Nat) (s : VSrc) : Nat → Nat :=
  let g := grpRegs f.grp
  let w := sewBits f.sew
  let n := v.group s.reg g
  let ix := match s.route with | .ix r _ => v.group r g | _ => 0
  fun e => let j := s.route.index ix w vn e; if j < vn then elemOf n w j else 0

/-! ### One element -/

/-- The value of `w` bits under an integer tag. -/
def intOf (sg : Bool) (w x : Nat) : Int := if sg && decide (2 ^ (w - 1) ≤ x) then (x : Int) - 2 ^ w else x

/-- An integer kept to `w` bits. -/
def keep (w : Nat) (i : Int) : Nat := (i % 2 ^ w).toNat

/-- The binary majors on integers (R274, R275). -/
def binInt (op : VBin) (sg : Bool) (w c b : Nat) : Nat :=
  let x := intOf sg w c
  let y := intOf sg w b
  match op with
  | .add => (c + b) % 2 ^ w
  | .sub => keep w (x - y)
  | .rsub => keep w (y - x)
  | .mul => c * b % 2 ^ w
  | .mulh => keep w (x * y / 2 ^ w)
  | .div => if b = 0 then (if sg then (if 0 ≤ x then 2 ^ (w - 1) - 1 else 2 ^ (w - 1)) else 2 ^ w - 1) else keep w (x.tdiv y)
  | .rem => if b = 0 then c else keep w (x.tmod y)
  | .min => if y < x then b else c
  | .max => if x < y then b else c
  | .and => c &&& b
  | .or => c ||| b
  | .xor => c ^^^ b
  | .shl => c * 2 ^ (b % w) % 2 ^ w
  | .shr => keep w (x / 2 ^ (b % w))

/-- The binary majors on a floating format (R274). -/
def binFp (f : Fmt) (op : VBin) (mode : Mode) (draw c b : Nat) : FRes :=
  match op with
  | .sub => fpSub f mode draw c b
  | .rsub => fpSub f mode draw b c
  | .mul => fpMul f mode draw c b
  | .div => fpDiv f mode draw c b
  | .min => fpMinMax f false c b
  | .max => fpMinMax f true c b
  | _ => fpAdd f mode draw c b

/-- Whether a binary major rounds (R282). -/
def VBin.rounds : VBin → Bool
  | .add => true
  | .sub => true
  | .rsub => true
  | .mul => true
  | .div => true
  | _ => false

/-- The VFMA family on integers (R276). -/
def fmaInt (k : VFmaKind) (w d c b : Nat) : Nat :=
  match k with
  | .fma => (c * b + d) % 2 ^ w
  | .fms => keep w ((c : Int) * b - d)
  | .fnma => keep w ((d : Int) - c * b)

/-- The VFMA family on a floating format (R276). -/
def fmaFp (f : Fmt) (k : VFmaKind) (mode : Mode) (draw d c b : Nat) : FRes :=
  match k with
  | .fma => fpFma f mode draw false false c b d
  | .fms => fpFma f mode draw false true c b d
  | .fnma => fpFma f mode draw true false c b d

/-- A relation of VCMP (R277). -/
def relInt (r : VRel) (sg : Bool) (w c b : Nat) : Bool :=
  match r with
  | .eq => c == b
  | .ne => c != b
  | .lt => decide (intOf sg w c < intOf sg w b)
  | .le => decide (intOf sg w c ≤ intOf sg w b)

def VRel.fp : VRel → FpRel
  | .eq => .eq
  | .ne => .ne
  | .lt => .lt
  | .le => .le

/-- How VCMP combines its result with the old mask bit (R74). -/
def combineBit (comb : BitVec 2) (old r : Bool) : Bool :=
  match comb.toNat with
  | 0 => r
  | 1 => old && r
  | 2 => old || r
  | _ => !r

/-- Zeros above the highest one of `w` bits. -/
def leadingZeros (w c : Nat) : Nat := if c = 0 then w else w - 1 - Nat.log2 c

/-- VEC.UN on integers, and the members that act on bits (R278). -/
def unInt (op : VUnOp) (sg : Bool) (w c : Nat) : Nat :=
  match op with
  | .neg => keep w (-(c : Int))
  | .abs => if sg then keep w (intOf true w c).natAbs else c
  | .not => 2 ^ w - 1 - c
  | .clz => leadingZeros w c
  | .popc => onesIn w c
  | _ => c

/-- VEC.UN on a floating format (R278, R279). -/
def unFp (f : Fmt) (op : VUnOp) (mode : Mode) (draw c : Nat) : FRes :=
  match op with
  | .neg => { code := f.signed (!f.sign c) (c % f.signW), flags := 0 }
  | .abs => { code := c % f.signW, flags := 0 }
  | _ => if op.special then fpSpecial f op mode draw c else { code := unInt op false f.width c, flags := 0 }

/-- The scalar or immediate operand B (R249). Under e2m1x2, in whose packed byte no value is rounded, the immediate of a
bitwise operation is the integer (log 48). -/
def VOpnd.scalarValue (b : VOpnd) (op : Option VBin) (fmt : Option Fmt) (w : Nat) : Nat :=
  match b with
  | .scalar x => x.toNat % 2 ^ w
  | .imm i =>
    (match op, fmt with
     | some .shl, _ => i.toNat
     | some .shr, _ => i.toNat
     | _, some f => (fpRound f .rne false 0 (Ex.ofInt i.toInt)).code
     | _, none => keep w i.toInt)
  | .vec _ => 0

/-! ### Conversions and expansions (R280, R281) -/

/-- The value of an fp6 code with `eb` bits of exponent and `fb` of fraction, as e4m3, which holds it exactly. -/
def fp6 (eb fb bias c : Nat) : Nat :=
  let neg := c / 32 % 2 == 1
  let ex := c / 2 ^ fb % 2 ^ eb
  let fr := c % 2 ^ fb
  let x : Ex :=
    if ex = 0 then { neg := neg, m := fr, e := 1 - (bias : Int) - (fb : Int), sticky := false }
    else { neg := neg, m := 2 ^ fb + fr, e := (ex : Int) - (bias : Int) - (fb : Int), sticky := false }
  (fpRound .e4m3 .rne false 0 x).code

/-- The value that position `k` of source byte `c` expands to (R281). -/
def expandTo (x : VExpand) (c k : Nat) : Nat :=
  match x with
  | .i4 => (fpRound .e4m3 .rne false 0 (Ex.ofInt (intOf true 4 (c / 2 ^ (4 * k) % 16)))).code
  | .e3m2 => fp6 3 2 3 c
  | .e2m3 => fp6 2 3 1 c

end Sys2Proof.Machine
end

