-- ==== Sys2Proof/Machine/VectorRun.lean ====
section
/-! DEFINITION. Running a convoy (spec 08 R256 to R260, R267 to R269, R273 to R282; 09 R286 to R311; 13 R437,
R438): its members in order, each over the elements from VFIRST up to the lowest fault, then the drain. -/

namespace Sys2Proof.Machine

/-! ### Elements of one member (R256, R257, R282) -/

/-- Whether an element is active (R256). -/
def VMember.active (m : VMember) (v : Vec) : Nat → Bool :=
  let k := v.mask m.mask.toNat
  fun e => decide (e < m.vn) && (m.mask == 0 || k.testBit e)

/-- The generator after some draws (R223). -/
def srAfter : Nat → BitVec 32 → BitVec 32
  | 0, x => x
  | n + 1, x => srAfter n (srNext x)

/-- The state from which a draw leads to another: the three steps of R223 undone, from the last. -/
def srPrev (x : BitVec 32) : BitVec 32 :=
  let a := x ^^^ (x <<< 5) ^^^ (x <<< 10) ^^^ (x <<< 15) ^^^ (x <<< 20) ^^^ (x <<< 25) ^^^ (x <<< 30)
  let b := a ^^^ (a >>> 17)
  b ^^^ (b <<< 13) ^^^ (b <<< 26)

/-- The generator before some draws. -/
def srBefore : Nat → BitVec 32 → BitVec 32
  | 0, x => x
  | n + 1, x => srBefore n (srPrev x)

/-- The generator moved by some draws, on or back. -/
def srMove (n : Int) (x : BitVec 32) : BitVec 32 := if 0 ≤ n then srAfter n.toNat x else srBefore n.natAbs x

/-- Flags raised, generator state and draws made, as a member goes. -/
structure Tally where
  fl : FFlags
  seed : BitVec 32
  draws : Nat
  deriving DecidableEq, Repr

/-- Draws pass. -/
def Tally.pass (t : Tally) (n : Nat) : Tally := { t with seed := srAfter n t.seed, draws := t.draws + n }

/-- The draws of `n` positions from `p` up; `per` positions make an element. -/
def countDraws (act : Nat → Bool) (per : Nat) : Nat → Nat → Nat → Nat
  | 0, _, x => x
  | n + 1, p, x => countDraws act per n (p + 1) (if act (p / per) then x + 1 else x)

/-- A destination as it is written. -/
structure Filling where
  bits : Nat
  dg : Vector Nat 32
  tally : Tally

/-- Write `dw` bits at position `p` of the group at register `r`. -/
def Filling.put (x : Filling) (r dw p v : Nat) : Filling :=
  let b := ((p + 1) * dw - 1) / 8
  { x with bits := putBits x.bits (p * dw) dw v, dg := raiseDg x.dg (r + b / 256) (b % 256) }

/-- How a member fills its destination group. -/
structure Fill where
  reg : VReg
  regs : Nat
  /-- bits of a position, and positions of a source element -/
  dw : Nat
  per : Nat
  /-- positions that the elements up to VLMAX have (R256) -/
  last : Nat
  draws : Bool
  /-- draws that the elements below a stop have made -/
  drawn : Nat
  mz : Bool
  tz : Bool
  active : Nat → Bool
  /-- the value and flags of a position, for a draw -/
  value : Nat → Nat → FRes

/-- Fill `n` positions from `p` up. -/
def Fill.positions (f : Fill) : Nat → Nat → Filling → Filling
  | 0, _, x => x
  | n + 1, p, x =>
    if f.active (p / f.per) then
      let t := if f.draws then x.tally.pass 1 else x.tally
      let r := f.value p (if f.draws then t.seed.toNat else 0)
      let y := x.put f.reg.toNat f.dw p r.code
      f.positions n (p + 1) { y with tally := { t with fl := t.fl ||| r.flags } }
    else if f.mz then f.positions n (p + 1) (x.put f.reg.toNat f.dw p 0)
    else f.positions n (p + 1) x

/-- Zero the bits of a group from `start` to `stop` − 1. -/
def Filling.zero (x : Filling) (r regs start stop : Nat) : Filling :=
  if stop ≤ start then x
  else
    { x with
      bits := x.bits % 2 ^ start + x.bits >>> stop <<< stop
      dg := (List.range regs).foldl (fun d i =>
        if start < (i + 1) * 2048 ∧ i * 2048 < stop then raiseDg d (r + i) ((Nat.min (stop - i * 2048) 2048 - 1) / 8) else d) x.dg }

/-- Fill elements `lo` to `hi` − 1 of `vn`, with the tail when `hi` reaches `vn`: the positions of the elements up to
VLMAX that the group holds (R256; log 64). The draws of the elements below and above belong to this member too (R268,
R282): with the tally of them all stand the draws of the elements below `hi`. -/
def Fill.run (f : Fill) (v : Vec) (vn lo hi : Nat) (t : Tally) : Vec × Tally × Nat :=
  let top := Nat.min hi vn
  let x := f.positions ((top - lo) * f.per) (lo * f.per)
    { bits := v.group f.reg f.regs, dg := v.dg, tally := if f.draws then t.pass f.drawn else t }
  let below := x.tally.draws - t.draws
  let n := vn * f.per
  -- an unused sub-element of the last byte is written 0 (R281)
  let odd := f.dw == 4 && n % 2 == 1
  let x := if decide (vn ≤ hi) && odd then x.put f.reg.toNat 4 n 0 else x
  let x :=
    if decide (vn ≤ hi) && f.tz then
      x.zero f.reg.toNat f.regs ((if odd then n + 1 else n) * f.dw) (Nat.min (f.last * f.dw) (f.regs * 2048))
    else x
  let above := if f.draws then countDraws f.active f.per ((vn - top) * f.per) (top * f.per) 0 else 0
  (v.setGroup f.reg f.regs x.bits x.dg, x.tally.pass above, below)

/-- What a member that accesses no memory has done. -/
structure Done where
  vec : Vec
  tally : Tally
  /-- draws of the elements below the stop -/
  below : Nat
  out : Option (GDest × Word)

/-- An element-wise member over its group. -/
def VMember.fill (m : VMember) (v : Vec) (d : VReg) (draws : Bool) (value : Nat → Nat → FRes) : Fill :=
  { reg := d, regs := grpRegs m.form.grp, dw := sewBits m.form.sew, per := 1, last := m.form.vlmax, draws := draws
    drawn := m.drawn, mz := m.form.mz, tz := m.form.tz, active := m.active v, value := value }

/-- Bits `lo` to `hi` − 1 of a mask take those of `x`; bits from VN to VLMAX − 1 follow TZ (R256, R311). -/
def VMember.putMask (m : VMember) (v : Vec) (k : MReg) (lo hi : Nat) (x : Nat) : Vec :=
  let old := v.mask k.toNat
  let top := Nat.min hi m.vn
  let inside := if lo < top then (2 ^ (top - lo) - 1) * 2 ^ lo else 0
  let n := (old - (old &&& inside)) ||| (x &&& inside)
  let tail := (2 ^ (m.form.vlmax - m.vn) - 1) * 2 ^ m.vn
  v.setMask k.toNat (if decide (m.vn ≤ hi) && m.form.tz then n - (n &&& tail) else n)

/-- Bits and flags of VCMP, over `n` elements from `e` up. -/
def cmpBits (act : Nat → Bool) (f : Nat → Bool × FFlags) (comb : BitVec 2) (mz : Bool) (old : Nat) :
    Nat → Nat → Nat → FFlags → Nat × FFlags
  | 0, _, x, fl => (x, fl)
  | n + 1, e, x, fl =>
    if act e then
      let r := f e
      cmpBits act f comb mz old n (e + 1) (if combineBit comb (old.testBit e) r.1 then x + 2 ^ e else x) (fl ||| r.2)
    else cmpBits act f comb mz old n (e + 1) (if !mz && old.testBit e then x + 2 ^ e else x) fl

/-- An integer result, which raises no flag. -/
def plainRes (n : Nat) : FRes := { code := n, flags := 0 }

/-- One combination of a reduction, with the flags and the generator (R302). -/
def redStep (fmt : Option Fmt) (sg : Bool) (w : Nat) (op : RedOp) (mode : Mode) (t : Tally) (a b : Nat) : Nat × Tally :=
  match fmt with
  | some f =>
    let draws := mode == .sr && op == .add
    let t := if draws then t.pass 1 else t
    let r := redFp f op mode (if draws then t.seed.toNat else 0) a b
    (r.code, { t with fl := t.fl ||| r.flags })
  | none => (redInt sg w op a b, t)

/-- The running values of an ordered reduction, newest first, one for each element (R304). -/
def scanVals (step : Tally → Nat → Nat → Nat × Tally) : List (Option Nat) → Option Nat → Tally → List (Option Nat) →
    List (Option Nat) × Tally
  | [], _, t, out => (out, t)
  | none :: xs, acc, t, out => scanVals step xs acc t (acc :: out)
  | some x :: xs, none, t, out => scanVals step xs (some x) t (some x :: out)
  | some x :: xs, some a, t, out => let r := step t a x; scanVals step xs (some r.1) r.2 (some r.1 :: out)

/-- Active elements, in order, of a source; an inactive one is absent. -/
def VMember.activeVals (m : VMember) (v : Vec) (rd : Nat → Nat) : List (Option Nat) :=
  let act := m.active v
  (List.range m.vn).map fun e => if act e then some (rd e) else none

/-- The number of ones below each position, as a list of `n` counts. -/
def ranks (sel : Nat → Bool) : Nat → Nat → Nat → List Nat
  | 0, _, _ => []
  | n + 1, e, k => k :: ranks sel n (e + 1) (if sel e then k + 1 else k)

/-- Index of the lowest one among `n` bits from `e` up. -/
def lowestOne (x : Nat) : Nat → Nat → Option Nat
  | 0, _ => none
  | n + 1, e => if x.testBit e then some e else lowestOne x n (e + 1)

/-- The format of an ADD, MIN or MAX reduction. -/
def redFmt (op : RedOp) (t : Tag) (s : Sew) : Option Fmt :=
  match op with
  | .add => tagFmt t s
  | .min => tagFmt t s
  | .max => tagFmt t s
  | _ => none

/-- A conversion from an integer tag under the stochastic mode: it rounds without a draw, and the spec does not say how
(R282; log 48). -/
def VMember.unstated (m : VMember) : Bool :=
  match m.work with
  | .cvt _ _ _ _ rm _ => modeOf rm m.frm == .sr && (tagFmt (m.tag.getD .raw) m.form.sew).isNone && m.tag != some .e2m1x2
  | _ => false

/-- A member that accesses no memory, over the elements `lo` to `hi` − 1 (R273 to R282, R302 to R311): it reads `v` and
writes `u`. The mode is the rounding mode that SY.FRM selected at dispatch; `ix` names the free values of `unstated`. -/
def VMember.run (m : VMember) (v u : Vec) (lo hi : Nat) (t0 : Tally) (ix : Nat) : Done :=
  let w := sewBits m.form.sew
  let tag := m.tag.getD .raw
  let sg := tag == .sint
  let mode := modeOfFrm m.frm
  let fmt := tagFmt tag m.form.sew
  let rd (s : VSrc) : Nat → Nat := v.reader m.form m.vn s
  let none' : Done := { vec := u, tally := t0, below := 0, out := none }
  let whole := decide (m.vn ≤ hi)
  let finish (f : Fill) (vn : Nat) (lo : Nat) : Done :=
    let r := f.run u vn lo hi t0
    { vec := r.1, tally := r.2.1, below := r.2.2, out := none }
  let elementwise (d : VReg) (draws : Bool) (value : Nat → Nat → FRes) : Done :=
    finish (m.fill v d (draws && mode == .sr) value) m.vn lo
  let opnd (b : VOpnd) (op : Option VBin) (fmt : Option Fmt) : Nat → Nat :=
    match b with
    | .vec s => rd s
    | _ => let x := b.scalarValue op fmt w; fun _ => x
  let reduced (d : VReg) (x : Option Nat) (t : Tally) (op : RedOp) (f : Option Fmt) : Done :=
    let x := x.getD (match f with | some f => redFpId f op | none => redIntId sg w op)
    let fl : Fill := { m.fill v d false (fun _ _ => plainRes x) with active := fun e => e == 0 }
    let r := fl.run u 1 0 1 t
    { vec := r.1, tally := r.2.1, below := 0, out := none }
  match m.work with
  | .bin op d c b =>
    let x := rd c
    let y := opnd b (some op) fmt
    (match (if op.bitwise then none else fmt) with
     | some f => elementwise d op.rounds fun e k => binFp f op mode k (x e) (y e)
     | none => elementwise d false fun e _ => plainRes (binInt op sg w (x e) (y e)))
  | .fma k d c b =>
    let x := rd c
    let y := opnd b none fmt
    let z := rd ⟨d, .none⟩
    (match fmt with
     | some f => elementwise d true fun e n => fmaFp f k mode n (z e) (x e) (y e)
     | none => elementwise d false fun e _ => plainRes (fmaInt k w (z e) (x e) (y e)))
  | .cmp r comb md c b =>
    let x := rd c
    let y := opnd b none fmt
    let f (e : Nat) : Bool × FFlags :=
      match fmt with
      | some f => fpCompare f r.fp (x e) (y e)
      | none => (relInt r sg w (x e) (y e), 0)
    let o := cmpBits (m.active v) f comb m.form.mz (v.mask md.toNat) (Nat.min hi m.vn - lo) lo 0 0
    { vec := m.putMask u md lo hi o.1, tally := { t0 with fl := t0.fl ||| o.2 }, below := 0, out := none }
  | .un op d c =>
    let x := rd c
    (match (if op.bitwise then none else fmt) with
     | some f => elementwise d op.special fun e k => unFp f op mode k (x e)
     | none => elementwise d false fun e _ => plainRes (unInt op sg w (x e)))
  | .sel d c b =>
    let k := v.mask m.mask.toNat
    let x := rd c
    let y := rd b
    finish { m.fill v d false (fun e _ => plainRes (if k.testBit e then x e else y e)) with
      active := fun e => decide (e < m.vn) } m.vn lo
  | .red op ordered d c =>
    let f := redFmt op tag m.form.sew
    let step := redStep f sg w op mode
    let vals := m.activeVals v (rd c)
    if ordered then
      let r := scanVals step vals none t0 []
      reduced d (r.1.headD none) r.2 op f
    else
      let r := tree step t0 vals
      reduced d r.1 r.2 op f
  | .scan op d c =>
    let f := redFmt op tag m.form.sew
    let r := scanVals (redStep f sg w op mode) (m.activeVals v (rd c)) none t0 []
    let vals := r.1.reverse
    let fl := m.fill v d false fun e _ => plainRes ((vals.getD e none).getD 0)
    let x := fl.run u m.vn lo hi r.2
    { vec := x.1, tally := x.2.1, below := 0, out := none }
  | .compress d c =>
    let vals := (m.activeVals v (rd c)).filterMap id
    finish { m.fill v d false (fun e _ => plainRes (vals.getD e 0)) with active := fun _ => true } vals.length 0
  | .expand d c =>
    let x := rd c
    let rs := ranks (m.active v) m.vn 0 0
    elementwise d false fun e _ => plainRes (x (rs.getD e 0))
  | .iota d =>
    let rs := ranks (m.active v) m.vn 0 0
    finish { m.fill v d false (fun e _ => plainRes (rs.getD e 0)) with active := fun _ => true } m.vn lo
  | .reshape d c row =>
    let x := rd c
    let l := row.toNat
    let r := m.vn / l
    elementwise d false fun p _ => plainRes (x ((p % r) * l + p / r))
  | .extract o c i =>
    let i := i.toNat
    let here := if i < m.vn then decide (lo ≤ i ∧ i < hi) else whole
    let x := if i < m.vn then rd c i else 0
    if here then { none' with out := some (o, BitVec.ofInt 64 (intOf sg w x)) } else none'
  | .insert d x i =>
    let i := i.toNat
    if decide (lo ≤ i) && decide (i < hi) && m.active v i then
      let f : Fill := { m.fill v d false (fun _ _ => plainRes x.toNat) with active := fun _ => true, tz := false }
      finish f (i + 1) i
    else none'
  | .mask op a b c =>
    let x := v.mask b.toNat
    let y := v.mask c.toNat
    let z :=
      match op with
      | .and => x &&& y
      | .or => x ||| y
      | .xor => x ^^^ y
      | .andn => x - (x &&& y)
    { none' with vec := m.putMask u a lo hi z }
  | .mmov a c => { none' with vec := m.putMask u a lo hi (v.mask c.toNat) }
  | .mpopc o c => { none' with out := some (o, BitVec.ofNat 64 (onesIn m.vn (v.mask c.toNat))) }
  | .mfirst o c =>
    { none' with out := some (o, match lowestOne (v.mask c.toNat) m.vn 0 with | some e => BitVec.ofNat 64 e | none => -1) }
  | .cvt d c dt ds rm sat =>
    let x := rd c
    let per := srcPer tag
    let src := cvtFmtOf tag m.form.sew
    let dst := cvtFmtOf dt ds
    let mode := modeOf rm m.frm
    let free := m.unstated
    finish
      { reg := d, regs := m.dgrp, dw := dstBits dt ds, per := per, last := m.form.vlmax * per, draws := mode == .sr && !free
        drawn := m.drawn, mz := m.form.mz, tz := m.form.tz, active := m.active v
        value := fun p k =>
          cvtTo dst mode sat (if free then Config.freeDraw ix p else k) (cvtValue src (x (p / per) / 2 ^ (4 * (p % per)))) }
      m.vn lo
  | .grow k d c =>
    let x := rd c
    finish
      { reg := d, regs := m.dgrp, dw := 8, per := k.per, last := m.form.vlmax * k.per, draws := false, drawn := 0
        mz := m.form.mz, tz := m.form.tz, active := m.active v
        value := fun p _ => plainRes (expandTo k (x (p / k.per) % 256) (p % k.per)) } m.vn lo
  | _ => none'

/-! ### Element addresses (R290, R294, R298, R438) -/

/-- The three indices of element `e` of a sweep; an element past the last dimension lies outside (R294). -/
def sweepIndex (d0 d1 : Dim) (e : Nat) : Nat × Nat × Nat :=
  let l0 := Nat.max d0.len.toNat 1
  let l1 := Nat.max d1.len.toNat 1
  (e % l0, e / l0 % l1, e / (l0 * l1))

/-- The address of an element, with its index (R290); none outside a sweep. -/
def VAt.address (a : VAt) (w ix e : Nat) : Option Word :=
  match a with
  | .unit base => some (base + BitVec.ofNat 64 (e * (w / 8)))
  | .strided base st => some (base + BitVec.ofNat 64 e * st)
  | .indexed base _ => some (base + BitVec.ofNat 64 ix)
  | .stream _ base st cur => some (base + (BitVec.ofNat 64 ((cur.toNat + e) % 2 ^ 32)) * st.signExtend 64)
  | .sweep base d0 d1 d2 =>
    let i := sweepIndex d0 d1 e
    if Nat.max d2.len.toNat 1 ≤ i.2.2 then none
    else some (base + BitVec.ofNat 64 i.1 * d0.stride + BitVec.ofNat 64 i.2.1 * d1.stride + BitVec.ofNat 64 i.2.2 * d2.stride)

/-- For whom the elements of a member are translated: its level at dispatch, the hart's context. -/
def State.vecWho (s : State) (l : Priv) (y : Path := .unit) : Who := { s.who with level := l, path := y }

/-- As `vecWho`, with the translations of the stream register that a member goes through (R299). -/
def VMember.who (m : VMember) (s : State) : Who :=
  match m.work.at? with
  | some (.stream k _ _ _) => { s.vecWho m.level with pages := (s.hart.vec.stream k).pages }
  | _ => s.vecWho m.level

def How.vload : How := { acc := 1, need := .read, style := .element }
def How.vstore : How := { acc := 2, need := .write, style := .element }
def How.vgather : How := { acc := 1, need := .read, style := .gather }

/-- An element of a gather: naturally aligned, and last of all in HBM of cached or sectored kind (R438). -/
def State.gatherCheck (s : State) (w : Who) (a : Word) (n : Nat) : Got (List Piece) :=
  match s.check w .vgather a n with
  | .done ps t =>
    if a.toNat % n ≠ 0 then .bad { cause := 0x04, addr := a, perm := false }
    else if ps.all fun p => p.region == .hbm && p.kind != .device then .done ps t
    else .bad { cause := 0x06, addr := a, perm := false }
  | x => x

/-- The checks of an element at an address (R286, R438). -/
def VMember.checkEl (m : VMember) (s : State) (a : Word) : Got (List Piece) :=
  let n := sewBits m.form.sew / 8
  match m.work with
  | .gather _ _ _ => s.gatherCheck (m.who s) a n
  | .store _ _ _ => s.check (m.who s) .vstore a n
  | _ => s.check (m.who s) .vload a n

/-- The lowest faulting active element among `n` from `e` up; an error is the state in which a walk waits. -/
def VMember.firstFault (m : VMember) (s : State) (act : Nat → Bool) (addr : Nat → Option Word) :
    Nat → Nat → Except State (Option (Nat × Bad))
  | 0, _ => .ok none
  | n + 1, e =>
    match (if act e then addr e else none) with
    | none => m.firstFault s act addr n (e + 1)
    | some a =>
      match m.checkEl s a with
      | .bad b => .ok (some (e, b))
      | .busy t => .error t
      | .done _ _ => m.firstFault s act addr n (e + 1)

/-- The lowest active element among `n` from `e` up. -/
def firstActive (act : Nat → Bool) : Nat → Nat → Option Nat
  | 0, _ => none
  | n + 1, e => if act e then some e else firstActive act n (e + 1)

/-- The addresses of a member's elements, with the index group as it stands. -/
def VMember.addresses (m : VMember) (v : Vec) : Nat → Option Word :=
  let w := sewBits m.form.sew
  match m.work with
  | .load _ a _ _ => (match a with
    | .indexed _ r => let g := v.group r (grpRegs m.form.grp); fun e => a.address w (elemOf g w e) e
    | _ => fun e => a.address w 0 e)
  | .store _ a _ => (match a with
    | .indexed _ r => let g := v.group r (grpRegs m.form.grp); fun e => a.address w (elemOf g w e) e
    | _ => fun e => a.address w 0 e)
  | .gather _ i base =>
    let g := v.group i ((groupFor m.vn 64).getD 1)
    fun e => some (base + BitVec.ofNat 64 (elemOf g 64 e * (w / 8)))
  | _ => fun _ => none

/-! ### Vector loads and stores -/

/-- Physical addresses of the bytes of a checked access. -/
def bytePlaces (ps : List Piece) : List Nat := ps.flatMap fun p => (List.range p.n).map fun i => p.pa + i

/-- The physical bytes that the active elements among `n` from `e` up store, ascending, where their checks pass. -/
def VMember.elemBytes (m : VMember) (s : State) (act : Nat → Bool) (addr : Nat → Option Word) (data : Nat) :
    Nat → Nat → List (Nat × Byte)
  | 0, _ => []
  | n + 1, e =>
    let w := sewBits m.form.sew
    (match (if act e then addr e else none) with
     | some a => (match m.checkEl s a with | .done ps _ => (bytePlaces ps).zip (bytesOf (w / 8) (elemOf data w e)) | _ => [])
     | none => []) ++ m.elemBytes s act addr data n (e + 1)

/-- Bytes with those of stores of the same hart that have yet to be performed, the youngest first (R287). -/
def patch (ahead : List (Nat × Byte)) (places : List Nat) (bs : List Byte) : List Byte :=
  (places.zip bs).map fun x => match ahead.find? fun y => y.1 == x.1 with | some y => y.2 | none => x.2

/-- The die that serves a gather of a die: the lowest-numbered W-die that it owns (R20, R439). -/
def State.gatherDie (s : State) (d : Nat) : Nat :=
  ([2 * d + 6, 2 * d + 7].filter fun w => !s.lostDies.contains w).headD d

/-- What a gather of the current hart asks of one part's homes, through the W-die that serves it (R439); its reads count
as misses (R440). -/
def State.touchGather (s : State) (p : Piece) : Held :=
  let w := s.gatherDie s.here.core.die
  if s.missesFull s.pp then .error s
  else (s.reachDie s.here.core.die w).bind fun s => s.visit w p fun s l => s.homeRead w l

/-- Read one element: its bytes, or the state in which it waits (R288, R291, R439). -/
def VMember.readEl (m : VMember) (s : State) (ahead : List (Nat × Byte)) (a : Word) : Except State (List Byte × State) :=
  match m.checkEl s a with
  | .bad _ => .error s
  | .busy t => .error t
  | .done ps s1 =>
    let held : Held :=
      match m.work with
      | .gather _ _ _ => ps.foldl (fun (o : Held) p => o.bind fun t => t.touchGather p) (.ok s1)
      | _ => s1.touchReads ps .unit
    match held with
    | .error t => .error t
    | .ok s2 =>
      let bs := match m.work with | .gather _ _ _ => s2.getPieces ps | _ => s2.readPieces ps
      .ok (if ahead.isEmpty then bs else patch ahead (bytePlaces ps) bs, s2)

/-- Read the active elements among `n` from `e` up: their values in order, or the state in which one waits. -/
def State.readEls (s : State) (m : VMember) (ahead : List (Nat × Byte)) (act : Nat → Bool) (addr : Nat → Option Word) :
    Nat → Nat → List Nat → Except State (List Nat × State)
  | 0, _, out => .ok (out.reverse, s)
  | n + 1, e, out =>
    match (if act e then addr e else none) with
    | none => s.readEls m ahead act addr n (e + 1) (0 :: out)
    | some a =>
      match m.readEl s ahead a with
      | .error t => .error t
      | .ok (bs, s1) => s1.readEls m ahead act addr n (e + 1) (numOf bs :: out)

/-- Write the bytes of one vector element at the parish L2 (R284), each as `final` gives it. -/
def State.writeEl (s : State) (w : Who) (final : List (Nat × Byte)) (a : Word) (bs : List Byte) : Held :=
  match s.check w .vstore a bs.length with
  | .bad _ => .error s
  | .busy u => .error u
  | .done ps s1 =>
    (s1.touchWrites ps .unit).bind fun s2 =>
      .ok (s2.writePieces ps (if final.isEmpty then bs else patch final (bytePlaces ps) bs))

/-- Write the active elements among `n` from `e` up, in ascending order (R288). -/
def State.writeEls (s : State) (m : VMember) (act : Nat → Bool) (addr : Nat → Option Word) (data : Nat)
    (final : List (Nat × Byte)) : Nat → Nat → Held
  | 0, _ => .ok s
  | n + 1, e =>
    match (if act e then addr e else none) with
    | none => s.writeEls m act addr data final n (e + 1)
    | some a =>
      let w := sewBits m.form.sew
      (s.writeEl (m.who s) final a (bytesOf (w / 8) (elemOf data w e))).bind fun s1 =>
        s1.writeEls m act addr data final n (e + 1)

/-! ### Stores without an order (R288, R337) -/

/-- Of the naturally aligned units at one address one stands whole, and a free value says which (R288; log 11). -/
def State.oneOfEach (s : State) : List (Word × List Byte) → List (Word × List Byte) → List (Word × List Byte) × State
  | [], kept => (kept, s)
  | x :: t, kept =>
    let same (y : Word × List Byte) : Bool := y.1 == x.1 && natural x.1.toNat x.2.length
    if kept.any same then
      let d := s.draw
      d.2.oneOfEach t (if Config.freeOrder d.1 % 2 == 1 then (kept.filter fun y => !same y) ++ [x] else kept)
    else s.oneOfEach t (kept ++ [x])

/-- For each byte that several units write, a free value says whose it is (R288; log 11). -/
def State.oneByte (s : State) : List (Nat × Byte) → List (Nat × Byte) → List (Nat × Byte) × State
  | [], kept => (kept, s)
  | x :: t, kept =>
    if kept.any fun y => y.1 == x.1 then
      let d := s.draw
      d.2.oneByte t (if Config.freeOrder d.1 % 2 == 1 then alSet x.1 x.2 kept else kept)
    else s.oneByte t ((x.1, x.2) :: kept)

/-- The physical bytes of some units, where their checks pass. -/
def State.unitBytes (s : State) (w : Who) : List (Word × List Byte) → List (Nat × Byte)
  | [] => []
  | x :: t =>
    (match s.check w .vstore x.1 x.2.length with
     | .done ps _ => (bytePlaces ps).zip x.2
     | _ => []) ++ s.unitBytes w t

/-- Write units, each byte as `final` gives it. -/
def State.writeUnits (s : State) (w : Who) (final : List (Nat × Byte)) : List (Word × List Byte) → Held
  | [] => .ok s
  | x :: t => (s.writeEl w final x.1 x.2).bind fun s1 => s1.writeUnits w final t

/-- Write units of bytes in no order among them (R288); the bytes that `keep` gives stand. -/
def State.writeFree (s : State) (w : Who) (units : List (Word × List Byte)) (keep : List (Nat × Byte) := []) : Held :=
  let k := s.oneOfEach units []
  let f := k.2.oneByte (k.2.unitBytes w k.1) []
  f.2.writeUnits w (keep ++ f.1) k.1

/-- The elements that an unordered store writes among `n` from `e` up. -/
def VMember.units (m : VMember) (act : Nat → Bool) (addr : Nat → Option Word) (data : Nat) : Nat → Nat → List (Word × List Byte)
  | 0, _ => []
  | n + 1, e =>
    let w := sewBits m.form.sew
    (match (if act e then addr e else none) with
     | some a => [(a, bytesOf (w / 8) (elemOf data w e))]
     | none => []) ++ m.units act addr data n (e + 1)

/-- The sectors of which one store has written every byte lose their poison, in both pages of a migration (R149,
R214). -/
def State.unpoisonBytes (s : State) (places : List Nat) : State :=
  if s.poison.isEmpty then s
  else
    let all := places ++ places.filterMap s.mirrorOf
    { s with poison := s.poison.filter fun x => !((List.range 32).all fun i => all.contains (x * 32 + i)) }

/-! ### One member of a convoy -/

/-- What came of running a member, or a convoy. -/
inductive Ran (α : Type) where
  | ran (x : α)
  /-- a fault at an element below the lowest one known -/
  | fault (k : Nat) (b : Bad) (m : VMember)
  /-- a line or a link is busy, in the state given -/
  | busy (s : State)

/-- A stage of a convoy: the state; the registers as a convoy without a stop would leave them so far, for the reads of
its members (R268); the bytes that its older stores leave for the loads to come where memory does not hold them, the
youngest first (R287); the flags of its members so far; the generator, and the draws made (R282); those members as they now
stand; what the members to come stored before a stop, the oldest first, and what the last member stored under that. -/
structure Stage where
  s : State
  full : Vec
  ahead : List (Nat × Byte)
  fl : FFlags
  seed : BitVec 32
  draws : Nat
  done : List VMember
  past : List (Nat × Byte)
  under : List (Nat × Byte)

/-- Record the shape of the destination, once the member has written (R250). -/
def VMember.record (m : VMember) (v : Vec) (lo hi : Nat) : Vec :=
  if decide (lo < Nat.min hi m.vn) || decide (m.vn ≤ hi) then
    match m.work.dst, m.leaves (m.tag.getD .raw) with
    | some d, some x => v.record d m.dgrp x
    | _, _ => v
  else v

/-- Write the general result of a member: a register, or its position in the message (R94, R258). -/
def State.putResult (s : State) : Option (GDest × Word) → State
  | none => s
  | some (.reg g, x) => { s with hart := s.hart.writeG g x }
  | some (.msg p, x) => s.fillWord p x

/-- A run of a convoy that no stop cuts short. -/
def noStop : Nat := 4096

/-- The vector registers after a load of the elements `lo` to `hi` − 1 of `n`; a first-fault load says in VN and m0 where it
ended (R291, R293). -/
def VMember.fillLoad (m : VMember) (v : Vec) (d : VReg) (ff : Bool) (live : Nat → Bool) (vals : List Nat) (n lo hi : Nat) : Vec :=
  let f : Fill := { m.fill v d false (fun e _ => plainRes (vals.getD (e - lo) 0)) with active := live }
  let v1 := { m with vn := n }.record (f.run v n lo hi { fl := 0, seed := 0, draws := 0 }).1 lo hi
  if ff && decide (n ≤ hi) then
    let old := v1.mask 0
    let all := 2 ^ m.form.vlmax - 1
    { v1.setMask 0 (old - (old &&& all) + (2 ^ n - 1)) with vn := n }
  else v1

/-- The elements among `n` from `e` up as memory holds them where they can be read now, for a run that stops below them
(R282; log 68). -/
def VMember.peek (m : VMember) (s : State) (ahead : List (Nat × Byte)) (live : Nat → Bool) (addr : Nat → Option Word) :
    Nat → Nat → List (Option Nat)
  | 0, _ => []
  | n + 1, e =>
    (match (if live e then addr e else none) with
     | some a =>
       (match m.checkEl s a with
        | .done ps _ => some (numOf (patch ahead (bytePlaces ps) (s.readPieces ps)))
        | _ => none)
     | none => none) :: m.peek s ahead live addr n (e + 1)

/-- A load of the elements `lo` to `hi` − 1: a first-fault load stops before a failing element after its first (R291,
R293). Members that follow it read the elements above a stop as memory holds them, where they can be read. -/
def VMember.load (m : VMember) (st : Stage) (d : VReg) (ff : Bool) (lo hi : Nat) : Ran Stage :=
  let s := st.s
  let act := m.active st.full
  let addr := m.addresses st.full
  let top := Nat.min hi m.vn
  -- an element outside a sweep is masked off (R294)
  let live (e : Nat) : Bool := act e && (addr e).isSome
  let first := if ff then ((firstActive live (top - lo) lo).map (· + 1)).getD top else top
  match m.firstFault s act addr (first - lo) lo with
  | .error t => .busy t
  | .ok (some (k, b)) => .fault k b m
  | .ok none =>
    match (if ff then m.firstFault s act addr (top - first) first else .ok none) with
    | .error t => .busy t
    | .ok bad =>
      let stop := (bad.map (·.1)).getD top
      match s.readEls m (st.ahead ++ st.past) act addr (stop - lo) lo [] with
      | .error t => .busy t
      | .ok (vals, s1) =>
        let n := if stop < top then stop else m.vn
        let f (v : Vec) : Vec := m.fillLoad v d ff live vals n lo hi
        let above := if ff || decide (noStop ≤ hi) then [] else m.peek s1 (st.ahead ++ st.past) live addr (m.vn - top) top
        let seen (e : Nat) : Bool := live e && (decide (e < top) || ((above.getD (e - top) none).isSome))
        let full :=
          if above.isEmpty then f st.full
          else m.fillLoad st.full d ff seen (vals ++ above.map fun x => x.getD 0) n lo noStop
        .ran { st with
          s := { s1 with hart := { s1.hart with vec := f s1.hart.vec } }, full := full
          done := st.done ++ [{ m with vn := n }] }

/-- The bytes that stand at some places for the parish of the current hart. -/
def State.bytesAt (s : State) (places : List Nat) : List (Nat × Byte) := places.map fun a => (a, (s.seenBytes a 1).headD 0)

/-- A store of the elements `lo` to `hi` − 1 (R292). What a younger member of the convoy stored before a stop stands over
it, and the member notes what it stores over when the convoy stops (R287; log 68). -/
def VMember.store (m : VMember) (st : Stage) (d : VReg) (unordered : Bool) (lo hi : Nat) : Ran Stage :=
  let s := st.s
  let act := m.active st.full
  let addr := m.addresses st.full
  let top := Nat.min hi m.vn
  let data := st.full.group d (grpRegs m.form.grp)
  match m.firstFault s act addr (top - lo) lo with
  | .error t => .busy t
  | .ok (some (k, b)) => .fault k b m
  | .ok none =>
    let idle := s.poison.isEmpty && st.ahead.isEmpty && st.past.isEmpty && decide (noStop ≤ hi)
    let here := if idle then [] else m.elemBytes s act addr data (top - lo) lo
    let covered := here.filter fun x => st.past.any fun y => y.1 == x.1
    let keep := s.bytesAt (covered.map (·.1))
    match (if unordered then s.writeFree (m.who s) (m.units act addr data (top - lo) lo) keep
           else s.writeEls m act addr data keep (top - lo) lo) with
    | .error t => .busy t
    | .ok s1 =>
      let before (x : Nat × Byte) : Nat × Byte := (st.past.find? fun y => y.1 == x.1).getD x
      let wrote := m.wrote ++ ((s.bytesAt (here.map (·.1))).map before).filter fun x => !m.wrote.any fun y => y.1 == x.1
      let places := wrote.map (·.1)
      let above := (covered ++ m.elemBytes s act addr data (m.vn - top) top).reverse
      let rest := st.ahead.filter fun x => !places.contains x.1
      .ran { st with
        s := s1.unpoisonBytes places, ahead := above ++ rest, under := covered
        done := st.done ++ [if noStop ≤ hi then m else { m with wrote := wrote }] }

/-- A member that accesses no memory (R267, R282): it writes the elements `lo` to `hi` − 1 from the values that the sources
have without a stop. -/
def VMember.compute (m : VMember) (st : Stage) (lo hi : Nat) : Stage :=
  let s := st.s
  let d := if m.unstated then s.draw else (0, s)
  let h := d.2.hart
  let t : Tally := { fl := 0, seed := st.seed, draws := 0 }
  let r := m.run st.full h.vec lo hi t d.1
  let v := m.record r.vec lo hi
  let full := if noStop ≤ hi then v else m.record (m.run st.full st.full lo noStop t d.1).vec lo noStop
  { st with
    s := ({ d.2 with hart := { h with vec := v } } : State).putResult r.out
    full := full
    fl := st.fl ||| r.tally.fl
    seed := r.tally.seed
    draws := st.draws + r.tally.draws
    done := st.done ++ [{ m with drawn := r.below }] }

/-- One member of a convoy over the elements `lo` to `hi` − 1; one that is idle changes nothing (R256). -/
def VMember.step (m : VMember) (st : Stage) (lo hi : Nat) : Ran Stage :=
  if m.idle then .ran { st with done := st.done ++ [m] }
  else
    match m.work with
    | .load d _ _ ff => m.load st d ff lo hi
    | .gather d _ _ => m.load st d false lo hi
    | .store d _ u => m.store st d u lo hi
    | _ => .ran (m.compute st lo hi)

/-- A byte is stored under what younger members have stored before a stop: the oldest of these stands over it (R287). -/
def putUnder (ms : List VMember) (x : Nat × Byte) : List VMember :=
  match ms with
  | [] => []
  | m :: t =>
    if m.wrote.any fun y => y.1 == x.1 then { m with wrote := m.wrote.map fun y => if y.1 = x.1 then x else y } :: t
    else m :: putUnder t x

/-- `n` members in order, of which the first stands at the head of the list. -/
def runMembers (lo hi : Nat) : Nat → List VMember → Stage → Ran Stage
  | 0, _, st => .ran st
  | _, [], st => .ran st
  | n + 1, m :: t, st =>
    match m.step { st with past := t.flatMap fun x => x.wrote, under := [] } lo hi with
    | .ran st1 => runMembers lo hi n (st1.under.foldl putUnder t) st1
    | .fault k b m => .fault k b m
    | .busy u => .busy u

/-- A convoy: it runs up to the lowest fault of any member, however late a member finds it (R267). A run that
finds a lower fault counts for nothing. -/
def runConvoy (s : State) (ms : List VMember) (seed : BitVec 32) (lo : Nat) : Nat → Nat → Option (Nat × Bad × VMember) →
    Ran (Stage × Option (Nat × Bad × VMember))
  | 0, _, _ => .busy s
  | fuel + 1, hi, bad =>
    match runMembers lo hi ms.length ms
      { s := s, full := s.hart.vec, ahead := [], fl := 0, seed := seed, draws := 0, done := [], past := [], under := [] } with
    | .ran st => .ran (st, bad)
    | .fault k b m => runConvoy s ms seed lo fuel k (some (k, b, m))
    | .busy t => .busy t

/-- A convoy that waits has done nothing yet: of its attempt only the wakes of links stay (R200), with what counts as
issued (R149, R200, R209); none when it waits for something else. -/
def State.waitsFor (s t : State) : Option State := s.ifWoken (s.waitedBy t)

/-! ### Stops and drains (R267 to R269) -/

/-- VFIRST for a fault at element `k` of a member (R295). -/
def VMember.vfirst (m : VMember) (k : Nat) : Word :=
  let pack (d0 d1 : Dim) : Word :=
    let i := sweepIndex d0 d1 k
    BitVec.ofNat 64 (2 ^ 63 + i.2.2 % 4096 * 2 ^ 36 + i.2.1 % 4096 * 2 ^ 24 + i.1 % 4096 * 2 ^ 12 + k)
  match m.work with
  | .load _ (.sweep _ d0 d1 _) _ _ => pack d0 d1
  | .store _ (.sweep _ d0 d1 _) _ => pack d0 d1
  | _ => BitVec.ofNat 64 k

/-- Replace a convoy of the queue. -/
def Vec.setConvoy (v : Vec) (i : Nat) (c : Convoy) : Vec := { v with queue := v.queue.set i c }

/-- Report a fault of the vector queue; work of TASK stops without a report while the hart runs above (R268). -/
def State.reportVec (s : State) (l : Priv) (b : Bad) (acc : BitVec 2) : State :=
  if l = .task ∧ s.hart.status.priv ≠ .task then s else s.failVec b acc false l

/-- SY.SEED, and the states that the queue keeps for the convoys behind an index, move by some draws (R282). -/
def Hart.passDraws (h : Hart) (i : Nat) (n : Int) : Hart :=
  { h with
    seed := srMove n h.seed
    vec := { h.vec with queue := h.vec.queue.mapIdx fun j c => if i < j then { c with seed := c.seed.map (srMove n) } else c } }

/-- The elements of a convoy below which every member has run. -/
def Convoy.lo (c : Convoy) (v : Vec) : Nat := Nat.max (if c.restart then (v.vfirst.extractLsb' 0 12).toNat else 0) c.upTo

/-- A convoy leaves off between elements: the flags of those below merge, and SY.SEED stands past the draws of all its
elements, which its members keep (R267, R282; log 49). -/
def State.leaveOff (s : State) (i : Nat) (c : Convoy) (fl : FFlags) (draws : Nat) : State :=
  let h := s.hart.raise fl
  let c1 := { c with closed := true, raised := c.raised ||| fl, seed := some (c.seed.getD h.seed), passed := draws }
  { s with hart := ({ h with vec := h.vec.setConvoy i c1 } : Hart).passDraws i ((draws : Int) - c.passed) }

/-- A convoy stops, at VFIRST (R267). -/
def State.haltConvoy (s : State) (i : Nat) (c : Convoy) (fl : FFlags) (draws : Nat) (vfirst : Word) : State :=
  let t := s.leaveOff i { c with restart := true, upTo := 0 } fl draws
  { t with hart := { t.hart with vec := { t.hart.vec with vfirst := vfirst } } }

/-- What a convoy that has not run will draw, and the state after it, as far as that can be told now (R282; log 49). -/
def State.foresee (s : State) (c : Convoy) (seed : BitVec 32) : Nat × State :=
  match checkAll s.hart.vec.shapes c.members with
  | .error _ => (0, s)
  | .ok ms =>
    match runConvoy s ms seed 0 40 noStop none with
    | .ran (st, _) => (st.draws, { st.s with hart := { st.s.hart with vec := st.full } })
    | _ => (0, s)

/-- Each convoy of a level or below that has not run keeps its first generator state; the state after them all stands
beside them. -/
def State.keepSeeds (l : Priv) : List Convoy → State → BitVec 32 → List Convoy × BitVec 32
  | [], _, x => ([], x)
  | c :: t, s, x =>
    if c.level.rank ≤ l.rank && c.seed.isNone && c.done.isNone then
      let r := s.foresee c x
      let k := State.keepSeeds l t r.2 (srAfter r.1 x)
      ({ c with seed := some x, passed := r.1 } :: k.1, k.2)
    else
      let k := State.keepSeeds l t s x
      (c :: k.1, k.2)

/-- The vector work of a level stops, and is held: the handler's draws follow those of the held work, which keeps its
states (R267, R269, R282). `full` holds the registers as the work before it leaves them. -/
def State.holdWork (s : State) (l : Priv) (full : Vec) : State :=
  let h := s.hart
  let k := State.keepSeeds l h.vec.queue { s with hart := { h with vec := full } } h.seed
  { s with hart := ({ h with seed := k.2, vec := { h.vec with queue := k.1 } } : Hart).holdConvoys l }

/-- A convoy stops at a fault: it halts, the queue of its level is held, and the fault is reported (R267). -/
def State.stopConvoy (s : State) (i : Nat) (c : Convoy) (fl : FFlags) (draws : Nat) (full : Vec) (vfirst : Word) (b : Bad)
    (acc : BitVec 2) : State :=
  ((s.haltConvoy i c fl draws vfirst).holdWork c.level full).reportVec c.level b acc

/-- Count a completed queued instruction (R119, R138); a window that is full has ended before it, and the instruction that
fills one ends it at once. -/
def State.countQueued (s : State) (l : Priv) (k : Mix) : State :=
  let s := if l = .task ∧ 65536 ≤ s.hart.winCount then s.endWindow else s
  let h := { s.hart with instret := s.hart.instret + 1 }
  match l with
  | .task =>
    let h := { h with
      nv := if k = .v then bump16 h.nv else h.nv
      nm := if k = .m then bump16 h.nm else h.nm
      winCount := h.winCount + 1 }
    let s := { s with hart := h }
    if 65536 ≤ h.winCount then s.endWindow else s
  | _ => { s with hart := h }

/-- Count a completed member. -/
def State.countMember (s : State) (m : VMember) : State := s.countQueued m.level (if m.mixV then .v else .plain)

/-- A convoy has drained: its flags merge, VFIRST returns to 0 after a restart, and an enabled flag of any of its elements
stops the queue (R268, R269). -/
def State.drainConvoy (s : State) (i : Nat) (c : Convoy) (fl : FFlags) : State :=
  let h := s.hart
  let v := { h.vec with queue := h.vec.queue.eraseIdx i, vfirst := if c.restart then 0 else h.vec.vfirst }
  let h1 := ({ h with vec := v, mat := h.mat.convoyGone i } : Hart).raise fl
  let en := h.enabled (c.raised ||| fl)
  let t : State :=
    if en = 0 then { s with hart := h1 }
    else ({ s with hart := { h1 with fpTraps := h1.fpTraps ++ [(c.level, en)] } } : State).holdWork c.level h1.vec
  c.members.foldl State.countMember t

end Sys2Proof.Machine
end

