-- ==== Sys2Proof/Machine/VectorFrame.lean ====
section
/-! DEFINITION. VFSAVE and VFRESTORE (spec 08 R271, R272), and the vector unit: starting the next convoy of a
hart and draining it (R263, R267, R269; 12 R413, R414). -/

namespace Sys2Proof.Machine

/-! ### The frame area (R272) -/

/-- Bytes of the frame area. -/
def frameSize : Nat := 12288

/-- VFORM as software sees it (R242). -/
def VCfg.bits (f : VCfg) : BitVec 8 :=
  (BitVec.ofBool f.mz ++ BitVec.ofBool f.tz ++ 0#2 ++ f.grp.code ++ f.sew.code : BitVec 8)

/-- VFORM from a frame. -/
def VCfg.ofBits (x : BitVec 8) : VCfg :=
  { mz := x.getLsbD 7, tz := x.getLsbD 6, grp := .ofCode (x.extractLsb' 2 2), sew := .ofCode (x.extractLsb' 0 2) }

/-- VDIRTY: DG(n) in bits 5n + 4 to 5n. -/
def Vec.dirty (v : Vec) : Nat := forN 32 (fun n x => x + v.dg.getD n 0 % 32 * 2 ^ (5 * n)) 0

/-- The SHAPE byte of a register. -/
def VR.shapeByte (r : VR) : Byte := (0#1 ++ r.grp.code ++ r.sew.code ++ r.tag.code : BitVec 8)

/-- The header, 256 bytes. -/
def Vec.header (v : Vec) (held needV : Bool) : List Byte :=
  bytesOf 2 0x7E48 ++ bytesOf 1 ((if held then 1 else 0) + (if needV then 2 else 0)) ++ bytesOf 1 v.ldv.toNat ++
    bytesOf 4 v.vn ++ bytesOf 8 v.form.bits.toNat ++ bytesOf 8 v.vfirst.toNat ++ bytesOf 20 v.dirty ++ bytesOf 4 0 ++
    (v.dim.toList.flatMap fun d => bytesOf 4 d.len.toNat ++ bytesOf 4 0 ++ bytesOf 8 d.stride.toNat) ++
    (v.v.toList.map VR.shapeByte) ++
    (v.w.toList.flatMap fun w => bytesOf 8 w.base.toNat ++ bytesOf 4 w.stride.toNat ++ bytesOf 4 w.cursor.toNat)

/-- The part of some checked parts that starts at an offset. -/
def subPieces : List Piece → Nat → Nat → List Piece
  | [], _, _ => []
  | p :: t, off, n =>
    if off < p.n then
      let k := Nat.min n (p.n - off)
      { p with va := p.va + off, pa := p.pa + off, n := k } :: (if k < n then subPieces t 0 (n - k) else [])
    else subPieces t (off - p.n) n

/-- Write parts of the frame area, each at its offset. -/
def State.writeFrame (ps : List Piece) : List (Nat × List Byte) → State → Held
  | [], s => .ok s
  | (off, bs) :: t, s =>
    let qs := subPieces ps off bs.length
    (s.touchWrites qs .unit).bind fun s1 => State.writeFrame ps t (s1.writePieces qs bs)

/-- What an instruction of the frame area came to. -/
inductive FrameRan where
  | ran (s : State)
  | fault (b : Bad)
  | busy (s : State)
  /-- VFRESTORE needs class V here (R271) -/
  | needV

/-- The checks of the whole area (R271). -/
def State.checkFrame (s : State) (l : Priv) (a : Word) (h : How) : Got (List Piece) :=
  if a.toNat % 256 ≠ 0 then .bad { cause := 0x04, addr := a, perm := false }
  else s.check (s.vecWho l) h a frameSize

/-- VFSAVE: the header, the masks, each register up to its DG, and the held work (R271, R272). -/
def State.saveFrame (s : State) (m : VMember) (a : Word) : FrameRan :=
  match s.checkFrame m.level a .vstore with
  | .bad b => .fault b
  | .busy t => .busy t
  | .done ps s1 =>
    let v := s.hart.vec
    let work := v.queue.filter Convoy.held
    let needV := work.any fun c => c.members.any VMember.needsV
    let d := s1.draw
    let held := (List.range 1792).map fun i => Config.freeByte (d.1 * 1792 + i)
    let parts : List (Nat × List Byte) :=
      (0, v.header (!work.isEmpty) needV) :: ((List.range 8).map fun n => (256 + 256 * n, bytesOf 256 (v.mask n))) ++
        ((List.range 32).map fun n => (2304 + 256 * n, bytesOf (16 * v.dg.getD n 0) (v.reg n).bits.toNat)) ++
        (if work.isEmpty then [] else [(10496, held)])
    let s2 := if work.isEmpty then s1 else { d.2 with heldSaves := (held, work) :: d.2.heldSaves }
    match State.writeFrame ps parts s2 with
    | .ok s3 => .ran s3
    | .error t => .busy t

/-- A little-endian field of the frame. -/
def fieldOf (bs : List Byte) (off n : Nat) : Nat := numOf ((bs.drop off).take n)

/-- The vector state that a frame gives (R271, R272); `work` replaces the queue. What a frame that no VFSAVE wrote gives is
the model's choice (log 63), and so is that the stream engine then fills the entries of w0 to w7 (R299; log 74). -/
def Vec.ofFrame (v : Vec) (bs : List Byte) (work : List Convoy) : Vec :=
  let dirty := fieldOf bs 24 20
  let dg (n : Nat) : Nat := Nat.min 16 (dirty / 2 ^ (5 * n) % 32)
  { v := Vector.ofFn fun n : Fin 32 =>
      let sh : BitVec 8 := BitVec.ofNat 8 (fieldOf bs (96 + n.val) 1)
      { bits := BitVec.ofNat 2048 (fieldOf bs (2304 + 256 * n.val) (16 * dg n.val))
        tag := .ofCode (sh.extractLsb' 0 3), sew := .ofCode (sh.extractLsb' 3 2), grp := .ofCode (sh.extractLsb' 5 2) }
    m := Vector.ofFn fun n : Fin 8 => BitVec.ofNat 2048 (fieldOf bs (256 + 256 * n.val) 256)
    vn := fieldOf bs 4 4 % 4096
    form := .ofBits (BitVec.ofNat 8 (fieldOf bs 8 1))
    vfirst := BitVec.ofNat 64 (fieldOf bs 16 8)
    dg := Vector.ofFn fun n : Fin 32 => dg n.val
    dim := Vector.ofFn fun d : Fin 3 =>
      { len := BitVec.ofNat 32 (fieldOf bs (48 + 16 * d.val) 4), stride := BitVec.ofNat 64 (fieldOf bs (56 + 16 * d.val) 8) }
    w := Vector.ofFn fun k : Fin 8 =>
      { base := BitVec.ofNat 64 (fieldOf bs (128 + 16 * k.val) 8), stride := BitVec.ofNat 32 (fieldOf bs (136 + 16 * k.val) 4)
        cursor := BitVec.ofNat 32 (fieldOf bs (140 + 16 * k.val) 4), pages := [], due := true }
    ldv := BitVec.ofNat 5 (fieldOf bs 3 1)
    queue := work
    last := v.last
    vv := v.vv }

/-- VFRESTORE (R271): the area is checked, then FMT and the class, and then the frame replaces the vector state
and the held work. `own` is the convoy of the instruction itself, which stays until it drains. -/
def State.restoreFrame (s : State) (m : VMember) (a : Word) (own : Convoy) : FrameRan :=
  match s.checkFrame m.level a .vload with
  | .bad b => .fault b
  | .busy t => .busy t
  | .done ps s1 =>
    match s1.touchReads ps .unit with
    | .error t => .busy t
    | .ok s2 =>
      let bs := s2.readPieces ps
      if fieldOf bs 0 2 ≠ 0x7E48 then .fault { cause := 0x09, addr := m.enc, perm := false }
      else
        let flags := fieldOf bs 2 1
        if flags / 2 % 2 = 1 && !s.carriesHere .V then .needV
        else
          let image := (bs.drop 10496).take 1792
          let saved := (s.heldSaves.find? fun e => e.1 == image).map fun e => e.2
          let work := if flags % 2 = 1 then saved.getD [] else []
          -- at once when VFRESTORE executes at TASK, and otherwise after the next ERET to TASK
          let later := m.level != .task && s.hart.status.priv != .task
          let work := work.map fun c => { c with held := later, toTask := later, closed := true }
          -- with NEEDV set VFRESTORE is class V (R138)
          let own := { own with members := own.members.map fun x => { x with mixV := flags / 2 % 2 == 1 } }
          let h := s2.hart
          let mat := { h.mat with queue := h.mat.queue.map fun x => { x with older := x.older + work.length } }
          .ran { s2 with hart := { h with vec := h.vec.ofFrame bs (own :: work), mat := mat } }

/-- Whether VFRESTORE of a frame needs class V and the core does not carry it, as its first reads show (R271). -/
def State.restoreNeedsV (s : State) (a : Word) : Got Bool :=
  match s.checkFrame s.hart.status.priv a .vload with
  | .bad b => .bad b
  | .busy t => .busy t
  | .done ps s1 =>
    let qs := subPieces ps 0 4
    match s1.touchReads qs .unit with
    | .error t => .busy t
    | .ok s2 =>
      let bs := s2.readPieces qs
      .done (fieldOf bs 0 2 == 0x7E48 && fieldOf bs 2 1 / 2 % 2 == 1 && !s.carriesHere .V) s

/-- VFRESTORE that restarts in the queue and finds NEEDV = 1 on a core without class V (R271): the traps of R4 and R139, or
the move. None while it waits (log 16). -/
def State.restoreMove (s : State) (i : Nat) : Except (BitVec 8) (Option State) :=
  let needs := Cls.V :: s.hart.needs
  if !Config.memberHas s.member .V then .error 0x01
  else if s.hart.mixctl.getLsbD 63 then .error 0x02
  else if s.hart.mat.grantRows ≠ 0 then .error 0x0A
  else if !(s.hart.vec.queue.eraseIdx i).isEmpty || !s.hart.mat.queue.isEmpty || s.unsent then .ok none
  else if !s.someCoreTakes needs true then .error 0x02
  else
    match s.carryPlace needs true with
    | some p =>
      .ok (if s.reaches s.here.core.die p.core.die then some (s.moveTo p true) else s.ifWoken (s.wake s.here.core.die p.core.die))
    | none => .ok (some (s.toCarter needs true none))

/-- VFSAVE or VFRESTORE stops: it has moved no byte and changed no vector state (R271). -/
def State.stopFrame (s : State) (c : Convoy) (b : Bad) (acc : BitVec 2) : State :=
  (s.holdWork c.level s.hart.vec).reportVec c.level b acc

/-! ### The vector unit (R263, R413, R414) -/

/-- The convoy that has run and not drained. -/
def Hart.ranConvoy (h : Hart) : Option Nat := h.vec.queue.findIdx? fun c => c.done.isSome

/-- Drain the convoy that has run. -/
def State.drainNext (s : State) : Option State :=
  match s.hart.ranConvoy with
  | none => none
  | some i =>
    match s.hart.vec.queue[i]? with
    | some c => some (s.drainConvoy i c (c.done.getD 0))
    | none => none

/-- The members of a convoy have run, with the draws given: it drains next. Draws past which SY.SEED stands already do not
pass again (R282). -/
def State.markRan (s : State) (i : Nat) (c : Convoy) (fl : FFlags) (draws : Nat := 0) : State :=
  let h := s.hart
  { s with hart := ({ h with vec := h.vec.setConvoy i { c with done := some fl } } : Hart).passDraws i ((draws : Int) - c.passed) }

/-- Run a convoy up to element `hi` at most, from VFIRST after a stop: it has run, or it stops at a fault below (R267,
R268). None while it waits, with what is left of its attempt. -/
def State.runTo (s : State) (c : Convoy) (ms : List VMember) (hi : Nat) : Ran (Stage × Option (Nat × Bad × VMember)) :=
  runConvoy s ms (c.seed.getD s.hart.seed) (c.lo s.hart.vec) 40 hi none

/-- ACC of a member's faults (R286). -/
def VMember.acc (m : VMember) : BitVec 2 :=
  match m.work with
  | .store _ _ _ => 2
  | .vfsave _ => 2
  | .load _ _ _ _ => 1
  | .gather _ _ _ => 1
  | .vfrestore _ => 1
  | _ => 0

/-- VN of a convoy, which all its members share (R261). -/
def Convoy.vn (c : Convoy) : Nat :=
  match c.members with
  | m :: _ => m.vn
  | [] => 0

/-- A convoy whose core has reached its misses goes as far as they allow, some `n` elements on, and waits there for the
next (R195, R312). None when it cannot go on at all. -/
def State.goSome (s : State) (i : Nat) (c : Convoy) (ms : List VMember) : Nat → Nat → Option State
  | 0, _ => none
  | fuel + 1, n =>
    let b := c.lo s.hart.vec + n
    match (if n = 0 then .busy s else s.runTo c ms b) with
    | .ran (st, none) => some (st.s.convoyServed.leaveOff i { c with members := st.done, upTo := b } st.fl st.draws)
    | _ => s.goSome i c ms fuel (n / 2)

/-- What a convoy that cannot run to its end now does: it wakes links, or goes some way (R200, R312). -/
def State.waitOn (s : State) (i : Nat) (c : Convoy) (ms : List VMember) (t : State) : Option State :=
  match s.waitsFor t with
  | some u => some u
  | none =>
    if s.missesFull s.pp || !t.missesFull s.pp || c.members.any (fun m => m.work.whole || m.work.own) then none
    else s.goSome i c ms 12 ((c.vn - c.lo s.hart.vec) / 2)

/-- Start a convoy of the current hart: its checks, its members, and a stop at the lowest fault (R263, R267). -/
def State.startMembers (s : State) (i : Nat) (c : Convoy) : Option State :=
  match checkAll s.hart.vec.shapes c.members with
  | .error m => some (s.convoyServed.stopConvoy i c 0 c.passed s.hart.vec 0 { cause := 0x09, addr := m.enc, perm := false } 0)
  | .ok ms =>
    match s.runTo c ms noStop with
    | .ran (st, none) => some (st.s.convoyServed.markRan i { c with members := st.done } st.fl st.draws)
    | .ran (st, some (k, b, m)) =>
      some (st.s.convoyServed.stopConvoy i { c with members := st.done } st.fl st.draws st.full (m.vfirst k) b m.acc)
    | .busy t => s.waitOn i c ms t
    | .fault _ _ _ => none

/-- Start a convoy of the current hart: one behind a FENCE.VV waits for the stores before it (R164), VFSAVE, VFRESTORE and
QGATHER for what they ask, and the others run (R263, R271, R440). None while it waits and nothing has changed. -/
def State.startConvoy (s : State) (i : Nat) (c : Convoy) : Option State :=
  if c.fenced && s.storesPending .system then none
  else
  match c.members with
  | [m] =>
    (match m.work with
     | .gather _ _ _ => if s.storesPending .device then none else s.startMembers i c
     | .vfsave a =>
       (match s.saveFrame m a with
        | .ran t => some (t.convoyServed.markRan i c 0)
        | .fault b => some (s.convoyServed.stopFrame c b m.acc)
        | .busy t => s.waitsFor t
        | .needV => none)
     | .vfrestore a =>
       (match s.restoreFrame m a c with
        | .ran t => some (t.convoyServed.markRan 0 (t.hart.vec.queue.headD c) 0)
        | .fault b => some (s.convoyServed.stopFrame c b m.acc)
        | .busy t => s.waitsFor t
        | .needV =>
          match s.restoreMove i with
          | .error k => some (s.convoyServed.stopFrame c { cause := k, addr := m.enc, perm := false } 0)
          | .ok t => t)
     | _ => s.startMembers i c)
  | _ => s.startMembers i c

/-- Start the closed convoy at the head of the current hart's queue, in its turn on the core (R414). None when there is
none, or it waits. -/
def State.startNext (s : State) : Option State :=
  if !s.unitTurn then none
  else
    match s.hart.nextConvoy with
    | none => none
    | some i =>
      match s.hart.vec.queue[i]? with
      | some c => if c.closed then s.startConvoy i c else none
      | none => none

/-- An urgent pre-emption stops the convoy that runs at an element b, a multiple of 16, and every member has then done
exactly its elements below; a convoy with a whole-vector member, or of one instruction that forms a convoy of its own, runs
to its end (R137, R267, R300). A free value says where (log 11); 0 is the boundary before the convoy. -/
def State.stopUrgent (s : State) : State :=
  match s.hart.nextConvoy with
  | none => s
  | some i =>
    match s.hart.vec.queue[i]? with
    | none => s
    | some c =>
      let d := s.draw
      let b := 16 * (Config.freeStop d.1 % ((c.vn + 15) / 16))
      let lo := c.lo s.hart.vec
      if !s.unitTurn || !c.closed || c.members.any (fun m => m.work.whole || m.work.own) || decide (c.vn = 0 ∨ b ≤ lo) then d.2
      else
        match checkAll s.hart.vec.shapes c.members with
        | .error _ => d.2
        | .ok ms =>
          match d.2.runTo c ms b with
          | .ran (st, none) => st.s.convoyServed.haltConvoy i { c with members := st.done } st.fl st.draws (BitVec.ofNat 64 b)
          | _ => d.2

/-- CONVOY_START (R263, R414). -/
def execConvoyStart (s : State) : Out State :=
  match s.startNext with
  | some t => .next t
  | none => .refused (.notEnabled "CONVOY_START")

/-- CONVOY_CLOSE (R413): the hart dispatches nothing for 16 cycles. -/
def execConvoyClose (s : State) : Out State :=
  if s.hart.vec.queue.any fun c => !c.closed then .next { s with hart := s.hart.closeConvoy }
  else .refused (.notEnabled "CONVOY_CLOSE")

/-- CONVOY_DRAIN (R269). -/
def execConvoyDrain (s : State) : Out State :=
  match s.drainNext with
  | some t => .next t
  | none => .refused (.notEnabled "CONVOY_DRAIN")

end Sys2Proof.Machine
end

