-- ==== Sys2Proof/Machine/VectorInstr.lean ====
section
/-! DEFINITION. The vector instructions (spec 02 R54 to R59, R74 to R81; 08 R249 to R266, R273 to R283; 09 R289 to
R298, R301 to R311; 13 R437): what each captures at dispatch, and its place in a convoy. -/

namespace Sys2Proof.Machine

/-! ### Modifiers (R54, R57) -/

/-- The descriptor that a short code stands for (R54). -/
def shortDrove (code : BitVec 3) : Drove :=
  match code.toNat with
  | 1 => .rot 1
  | 2 => .rot (-1)
  | 3 => .bc 0
  | 4 => .fly 0
  | 5 => .fly 1
  | 6 => .fly 2
  | 7 => .rev 0
  | _ => .none

/-- Whether a modifier is of latency class 2 or 3 (R57). -/
def heavyDrove : Drove → Bool
  | .rotg _ => true
  | .fly _ => true
  | .rev _ => true
  | .ix _ _ => true
  | _ => false

/-- The general register that a modifier reads. -/
def droveReg : Drove → List GReg
  | .rotg g => [g]
  | .bcg g => [g]
  | _ => []

/-- A modifier with its argument captured (R259). -/
def Hart.route (h : Hart) : Drove → Route
  | .none => .none
  | .rot k => .rot (k.signExtend 64)
  | .rotg g => .rot (h.readG g)
  | .bc k => .bc (k.setWidth 64)
  | .bcg g => .bc (h.readG g)
  | .fly j => .fly j.toNat
  | .rev n => .rev n.toNat
  | .ix v k => .ix v k

/-- The descriptor of an optional long form. -/
def optDrove : Option Drove → Drove
  | some d => d
  | none => .none

/-- The descriptor of VEC.UN's source. -/
def cmodDrove : CMod → Drove
  | .short c => shortDrove c
  | .long d => d

/-! ### Dispatch (R261 to R265) -/

/-- What dispatch needs to know of a vector instruction. -/
structure Disp where
  cls : Cls
  droves : List Drove
  /-- general sources in the order in which they are read (R51) -/
  srcs : List GReg
  /-- a general destination written by the queue, or 0 -/
  dst : GReg
  joins : Bool
  ldv : Option VReg
  mask : MaskSel
  len : Nat
  enc : Word

/-- The class of an instruction on a core: class E with a modifier of class 2 or 3 is class V on a T-core (R30). -/
def Disp.classOn (d : Disp) (k : CoreClass) : Cls :=
  match d.cls, k with
  | .E, .T => if d.droves.any heavyDrove then .V else .E
  | c, _ => c

/-- Vector instructions that have been dispatched and have not completed, but for held work. -/
def Hart.queued (h : Hart) : List VMember := h.liveConvoys.flatMap Convoy.members

/-- Whether an older vector instruction holds back what reads VN, VFORM or a stream register (R271, R293). -/
def Hart.vecBarrier (h : Hart) : Bool := h.queued.any fun m => m.work.barrier


/-- Whether nothing vector may be dispatched now: the queue is full, or older work must complete first (R264, R271,
R293, R327). -/
def Hart.vecFull (h : Hart) : Bool :=
  decide (32 ≤ h.queued.length) || h.vecBarrier || h.liveMats.any fun m => m.work.extracts

/-- A convoy that one member opens (R261), behind a FENCE.VV if one has passed (R164). -/
def Convoy.opening (m : VMember) (closed : Bool) (fenced : Bool := false) : Convoy :=
  { members := [m], closed := closed, held := false, restart := false, raised := 0, done := none, fenced := fenced }

/-- Append a member: it joins the open convoy, or opens one (R261, R413). -/
def Vec.enqueue (v : Vec) (m : VMember) (joins : Bool) : Vec :=
  match joins, v.queue.getLast? with
  | true, some c =>
    if c.closed then { v with queue := v.queue ++ [.opening m true v.vv], last := v.last ++ [m], vv := false }
    else
      let ms := c.members ++ [m]
      { v with queue := v.queue.dropLast ++ [{ c with members := ms, closed := decide (16 ≤ ms.length) }], last := v.last ++ [m] }
  | true, none => { v with queue := [.opening m true v.vv], last := v.last ++ [m], vv := false }
  | false, _ => { v with queue := closeLast v.queue ++ [.opening m m.work.own v.vv], last := [m], vv := false }

/-- The member that an instruction makes, with its captures (R264). -/
def State.member' (s : State) (d : Disp) (w : VWork) : VMember :=
  let h := s.hart
  let m : VMember :=
    { work := w, enc := d.enc, vn := h.vec.vn, form := h.vec.form, mask := d.mask, frm := h.frm
      needsV := d.cls == .V || d.droves.any heavyDrove, mixV := d.cls == .V, level := h.status.priv
      dgrp := grpRegs h.vec.form.grp, tag := none, drawn := 0 }
  let sized : Bool := match w with | .cvt _ _ _ _ _ _ => true | .grow _ _ _ => true | _ => false
  if sized then
    let sh := predictAll h.vec.shapes h.queued
    { m with dgrp := (m.dstRegs ((m.opTagOf sh).getD .raw)).getD 8 }
  else m

/-- Where a queued general result goes: a register, or the next position of the open message (R94). -/
def Hart.gdest (h : Hart) (r : GReg) : GDest :=
  if r = 31 then .msg (match h.open' with | some m => m.taken | none => 0) else .reg r

/-- What keeps a vector instruction of this class from being dispatched now: its class, a structural conflict (R262),
operands (R51), or the queue. -/
def State.vecBlocked (s : State) (d : Disp) (m : VMember) : Option State :=
  match s.gate (d.classOn s.cclass) d.enc with
  | some t => some t
  | none =>
    if d.joins && m.conflict s.hart.vec.last then some (s.trap 0x01 d.enc)
    else
      match s.blocked (d.srcs ++ d.droves.flatMap droveReg) d.dst with
      | some t => some t
      | none => if s.hart.vecFull then some s.stall else none

/-- Dispatch a member: operands are popped, a message position is taken, LDS and LDV follow, and the pc moves on
(R51, R94, R96, R264, R265). It retires when it completes. -/
def State.dispatch (s : State) (d : Disp) (m : VMember) : State :=
  let s := s.pop d.srcs
  let s := if d.dst = 31 then s.takePos.2 else s
  let h := s.hart.noteDest d.dst
  let v := h.vec.enqueue m d.joins
  let v := match d.ldv with | some r => { v with ldv := r } | none => v
  { s with hart := { h with vec := v, pc := h.pc + BitVec.ofNat 64 d.len } }

/-- A vector instruction (R135, R264). -/
def State.vector (s : State) (d : Disp) (w : VWork) : Out State :=
  let m := s.member' d w
  match s.vecBlocked d m with
  | some t => .next t
  | none => .next (s.dispatch d m)

/-! ### Operands of the V format (R249, R273) -/

/-- The B operand of a form. -/
def Hart.operandB (h : Hart) (form : VForm) (b : BitVec 5) (db : Drove) : VOpnd :=
  match form with
  | .vv => .vec ⟨b, h.route db⟩
  | .vx => .scalar (h.src [] b)
  | .vi => .imm b

/-- The general sources of a form. -/
def formSrcs (form : VForm) (b : BitVec 5) : List GReg :=
  match form with
  | .vx => [b]
  | _ => []

/-- A binary major, base form. -/
def State.vbin (s : State) (cls : Cls) (op : VBin) (o : VBase) (enc : Word) : Out State :=
  let dc := shortDrove o.drv
  s.vector { cls := cls, droves := [dc], srcs := formSrcs o.form o.b, dst := 0, joins := o.j, ldv := some o.a
             mask := o.m, len := 4, enc := enc }
    (.bin op o.a ⟨o.c, s.hart.route dc⟩ (s.hart.operandB o.form o.b .none))

/-- A binary major, long form. -/
def State.vbinL (s : State) (cls : Cls) (op : VBin) (o : VLong) (enc : Word) : Out State :=
  s.vector { cls := cls, droves := [o.dc, o.db], srcs := formSrcs o.form o.b, dst := 0, joins := o.j, ldv := some o.a
             mask := o.m, len := 8, enc := enc }
    (.bin op o.a ⟨o.c, s.hart.route o.dc⟩ (s.hart.operandB o.form o.b o.db))

/-- The form of VFMA as a form of the V format. -/
def FmaForm.form : FmaForm → VForm
  | .vv => .vv
  | .vx => .vx

/-- The VFMA family, base form. -/
def State.vfma (s : State) (k : VFmaKind) (o : VFmaBase) (enc : Word) : Out State :=
  let dc := shortDrove o.drv
  s.vector { cls := .E, droves := [dc], srcs := formSrcs (FmaForm.form o.form) o.b, dst := 0, joins := o.j, ldv := some o.a
             mask := o.m, len := 4, enc := enc }
    (.fma k o.a ⟨o.c, s.hart.route dc⟩ (s.hart.operandB (FmaForm.form o.form) o.b .none))

/-- The VFMA family, long form. -/
def State.vfmaL (s : State) (k : VFmaKind) (o : VFmaLong) (enc : Word) : Out State :=
  s.vector { cls := .E, droves := [o.dc, o.db], srcs := formSrcs (FmaForm.form o.form) o.b, dst := 0, joins := o.j
             ldv := some o.a, mask := o.m, len := 8, enc := enc }
    (.fma k o.a ⟨o.c, s.hart.route o.dc⟩ (s.hart.operandB (FmaForm.form o.form) o.b o.db))

/-- VCMP, base form. It names no vector destination (R265). -/
def State.vcmp (s : State) (r : VRel) (o : VCmpBase) (enc : Word) : Out State :=
  let dc := shortDrove o.drv
  s.vector { cls := .E, droves := [dc], srcs := formSrcs o.form o.b, dst := 0, joins := o.j, ldv := none, mask := o.m
             len := 4, enc := enc }
    (.cmp r o.comb o.md ⟨o.c, s.hart.route dc⟩ (s.hart.operandB o.form o.b .none))

/-- VCMP, long form. -/
def State.vcmpL (s : State) (r : VRel) (o : VCmpLong) (enc : Word) : Out State :=
  s.vector { cls := .E, droves := [o.dc, o.db], srcs := formSrcs o.form o.b, dst := 0, joins := o.j, ldv := none
             mask := o.m, len := 8, enc := enc }
    (.cmp r o.comb o.md ⟨o.c, s.hart.route o.dc⟩ (s.hart.operandB o.form o.b o.db))

/-- Length of VEC.UN, by its modifier's form. -/
def cmodLen : CMod → Nat
  | .short _ => 4
  | .long _ => 8

/-- Length of a form whose descriptors are optional. -/
def optLen {α : Type} : Option α → Nat
  | none => 4
  | some _ => 8

/-- VEC.UN (R75, R278). -/
def State.vun (s : State) (cls : Cls) (op : VUnOp) (o : VUn) (enc : Word) : Out State :=
  let dc := cmodDrove o.mod
  s.vector { cls := cls, droves := [dc], srcs := [], dst := 0, joins := o.j, ldv := some o.a, mask := o.m
             len := cmodLen o.mod, enc := enc }
    (.un op o.a ⟨o.c, s.hart.route dc⟩)

/-- A compact vector form: `^` is LDV before its own update, and it joins (R59, R265). -/
def State.vcompact (s : State) (r : VReg) (w : VWork) (enc : Word) : Out State :=
  s.vector { cls := .E, droves := [], srcs := [], dst := 0, joins := true, ldv := some r, mask := 0, len := 2, enc := enc } w

/-! ### Compact vector forms (R59) -/

/-- CVADD (R59, R274). -/
def execCvadd (r g : VReg) (s : State) : Out State :=
  s.vcompact r (.bin .add r ⟨s.hart.vec.ldv, .none⟩ (.vec ⟨g, .none⟩)) (encBits (.cvadd r g))

/-- CVMUL (R59, R274). -/
def execCvmul (r g : VReg) (s : State) : Out State :=
  s.vcompact r (.bin .mul r ⟨s.hart.vec.ldv, .none⟩ (.vec ⟨g, .none⟩)) (encBits (.cvmul r g))

/-- CVFMA (R59, R276). -/
def execCvfma (r g : VReg) (s : State) : Out State :=
  s.vcompact r (.fma .fma r ⟨s.hart.vec.ldv, .none⟩ (.vec ⟨g, .none⟩)) (encBits (.cvfma r g))

/-! ### Arithmetic (R273 to R277) -/

/-- VADD (R274). -/
def execVadd (o : VBase) (s : State) : Out State :=
  s.vbin .E .add o (encBits (.vadd o))

/-- VSUB (R274). -/
def execVsub (o : VBase) (s : State) : Out State :=
  s.vbin .E .sub o (encBits (.vsub o))

/-- VRSUB (R274). -/
def execVrsub (o : VBase) (s : State) : Out State :=
  s.vbin .E .rsub o (encBits (.vrsub o))

/-- VMUL (R274). -/
def execVmul (o : VBase) (s : State) : Out State :=
  s.vbin .E .mul o (encBits (.vmul o))

/-- VMULH (R274). -/
def execVmulh (o : VBase) (s : State) : Out State :=
  s.vbin .V .mulh o (encBits (.vmulh o))

/-- VDIV (R274, R275). -/
def execVdiv (o : VBase) (s : State) : Out State :=
  s.vbin .V .div o (encBits (.vdiv o))

/-- VREM (R274, R275). -/
def execVrem (o : VBase) (s : State) : Out State :=
  s.vbin .V .rem o (encBits (.vrem o))

/-- VMIN (R274). -/
def execVmin (o : VBase) (s : State) : Out State :=
  s.vbin .E .min o (encBits (.vmin o))

/-- VMAX (R274). -/
def execVmax (o : VBase) (s : State) : Out State :=
  s.vbin .E .max o (encBits (.vmax o))

/-- VAND (R274). -/
def execVand (o : VBase) (s : State) : Out State :=
  s.vbin .E .and o (encBits (.vand o))

/-- VOR (R274). -/
def execVor (o : VBase) (s : State) : Out State :=
  s.vbin .E .or o (encBits (.vor o))

/-- VXOR (R274). -/
def execVxor (o : VBase) (s : State) : Out State :=
  s.vbin .E .xor o (encBits (.vxor o))

/-- VSHL (R274). -/
def execVshl (o : VBase) (s : State) : Out State :=
  s.vbin .E .shl o (encBits (.vshl o))

/-- VSHR (R274). -/
def execVshr (o : VBase) (s : State) : Out State :=
  s.vbin .E .shr o (encBits (.vshr o))

/-- VADD, long form (R274). -/
def execVaddL (o : VLong) (s : State) : Out State :=
  s.vbinL .E .add o (encBits (.vaddL o))

/-- VSUB, long form (R274). -/
def execVsubL (o : VLong) (s : State) : Out State :=
  s.vbinL .E .sub o (encBits (.vsubL o))

/-- VRSUB, long form (R274). -/
def execVrsubL (o : VLong) (s : State) : Out State :=
  s.vbinL .E .rsub o (encBits (.vrsubL o))

/-- VMUL, long form (R274). -/
def execVmulL (o : VLong) (s : State) : Out State :=
  s.vbinL .E .mul o (encBits (.vmulL o))

/-- VMULH, long form (R274). -/
def execVmulhL (o : VLong) (s : State) : Out State :=
  s.vbinL .V .mulh o (encBits (.vmulhL o))

/-- VDIV, long form (R274, R275). -/
def execVdivL (o : VLong) (s : State) : Out State :=
  s.vbinL .V .div o (encBits (.vdivL o))

/-- VREM, long form (R274, R275). -/
def execVremL (o : VLong) (s : State) : Out State :=
  s.vbinL .V .rem o (encBits (.vremL o))

/-- VMIN, long form (R274). -/
def execVminL (o : VLong) (s : State) : Out State :=
  s.vbinL .E .min o (encBits (.vminL o))

/-- VMAX, long form (R274). -/
def execVmaxL (o : VLong) (s : State) : Out State :=
  s.vbinL .E .max o (encBits (.vmaxL o))

/-- VAND, long form (R274). -/
def execVandL (o : VLong) (s : State) : Out State :=
  s.vbinL .E .and o (encBits (.vandL o))

/-- VOR, long form (R274). -/
def execVorL (o : VLong) (s : State) : Out State :=
  s.vbinL .E .or o (encBits (.vorL o))

/-- VXOR, long form (R274). -/
def execVxorL (o : VLong) (s : State) : Out State :=
  s.vbinL .E .xor o (encBits (.vxorL o))

/-- VSHL, long form (R274). -/
def execVshlL (o : VLong) (s : State) : Out State :=
  s.vbinL .E .shl o (encBits (.vshlL o))

/-- VSHR, long form (R274). -/
def execVshrL (o : VLong) (s : State) : Out State :=
  s.vbinL .E .shr o (encBits (.vshrL o))

/-- VFMA (R276). -/
def execVfma (o : VFmaBase) (s : State) : Out State :=
  s.vfma .fma o (encBits (.vfma o))

/-- VFMS (R276). -/
def execVfms (o : VFmaBase) (s : State) : Out State :=
  s.vfma .fms o (encBits (.vfms o))

/-- VFNMA (R276). -/
def execVfnma (o : VFmaBase) (s : State) : Out State :=
  s.vfma .fnma o (encBits (.vfnma o))

/-- VFMA, long form (R276). -/
def execVfmaL (o : VFmaLong) (s : State) : Out State :=
  s.vfmaL .fma o (encBits (.vfmaL o))

/-- VFMS, long form (R276). -/
def execVfmsL (o : VFmaLong) (s : State) : Out State :=
  s.vfmaL .fms o (encBits (.vfmsL o))

/-- VFNMA, long form (R276). -/
def execVfnmaL (o : VFmaLong) (s : State) : Out State :=
  s.vfmaL .fnma o (encBits (.vfnmaL o))

/-- VCMP.EQ (R277). -/
def execVcmpEq (o : VCmpBase) (s : State) : Out State :=
  s.vcmp .eq o (encBits (.vcmpEq o))

/-- VCMP.NE (R277). -/
def execVcmpNe (o : VCmpBase) (s : State) : Out State :=
  s.vcmp .ne o (encBits (.vcmpNe o))

/-- VCMP.LT (R277). -/
def execVcmpLt (o : VCmpBase) (s : State) : Out State :=
  s.vcmp .lt o (encBits (.vcmpLt o))

/-- VCMP.LE (R277). -/
def execVcmpLe (o : VCmpBase) (s : State) : Out State :=
  s.vcmp .le o (encBits (.vcmpLe o))

/-- VCMP.EQ, long form (R277). -/
def execVcmpEqL (o : VCmpLong) (s : State) : Out State :=
  s.vcmpL .eq o (encBits (.vcmpEqL o))

/-- VCMP.NE, long form (R277). -/
def execVcmpNeL (o : VCmpLong) (s : State) : Out State :=
  s.vcmpL .ne o (encBits (.vcmpNeL o))

/-- VCMP.LT, long form (R277). -/
def execVcmpLtL (o : VCmpLong) (s : State) : Out State :=
  s.vcmpL .lt o (encBits (.vcmpLtL o))

/-- VCMP.LE, long form (R277). -/
def execVcmpLeL (o : VCmpLong) (s : State) : Out State :=
  s.vcmpL .le o (encBits (.vcmpLeL o))

/-! ### VEC.UN (R278, R279) -/

/-- VMV (R278). -/
def execVmv (o : VUn) (s : State) : Out State :=
  s.vun .E .mv o (encBits (.vmv o))

/-- VNEG (R278). -/
def execVneg (o : VUn) (s : State) : Out State :=
  s.vun .E .neg o (encBits (.vneg o))

/-- VABS (R278). -/
def execVabs (o : VUn) (s : State) : Out State :=
  s.vun .E .abs o (encBits (.vabs o))

/-- VNOT (R278). -/
def execVnot (o : VUn) (s : State) : Out State :=
  s.vun .E .not o (encBits (.vnot o))

/-- VSQRT (R278, R279). -/
def execVsqrt (o : VUn) (s : State) : Out State :=
  s.vun .V .sqrt o (encBits (.vsqrt o))

/-- VRCP (R278, R279). -/
def execVrcp (o : VUn) (s : State) : Out State :=
  s.vun .E .rcp o (encBits (.vrcp o))

/-- VRSQ (R278, R279). -/
def execVrsq (o : VUn) (s : State) : Out State :=
  s.vun .V .rsq o (encBits (.vrsq o))

/-- VEXP2 (R278, R279). -/
def execVexp2 (o : VUn) (s : State) : Out State :=
  s.vun .E .exp2 o (encBits (.vexp2 o))

/-- VLOG2 (R278, R279). -/
def execVlog2 (o : VUn) (s : State) : Out State :=
  s.vun .V .log2 o (encBits (.vlog2 o))

/-- VTANH (R278, R279). -/
def execVtanh (o : VUn) (s : State) : Out State :=
  s.vun .E .tanh o (encBits (.vtanh o))

/-- VCLZ (R278). -/
def execVclz (o : VUn) (s : State) : Out State :=
  s.vun .V .clz o (encBits (.vclz o))

/-- VPOPC (R278). -/
def execVpopc (o : VUn) (s : State) : Out State :=
  s.vun .V .popc o (encBits (.vpopc o))

/-! ### VEC.MISC (R301 to R309) -/

/-- A whole-vector instruction with one source (R301). -/
def State.vone (s : State) (o : VOne) (cls : Cls) (enc : Word) (work : VSrc → VWork) : Out State :=
  let dc := optDrove o.dc
  s.vector { cls := cls, droves := [dc], srcs := [], dst := 0, joins := o.j, ldv := some o.a, mask := o.m
             len := optLen o.dc, enc := enc }
    (work ⟨o.c, s.hart.route dc⟩)

/-- A reduction or scan (R302). -/
def State.vredOp (s : State) (o : VRedOps) (enc : Word) (work : VSrc → VWork) : Out State :=
  let dc := optDrove o.dc
  s.vector { cls := .V, droves := [dc], srcs := [], dst := 0, joins := o.j, ldv := some o.a, mask := o.m
             len := optLen o.dc, enc := enc }
    (work ⟨o.c, s.hart.route dc⟩)

/-- VSEL (R305). -/
def execVsel (o : VSelOps) (s : State) : Out State :=
  let db := match o.mods with | some p => p.1 | none => Drove.none
  let dc := match o.mods with | some p => p.2 | none => Drove.none
  s.vector { cls := .E, droves := [dc, db], srcs := [], dst := 0, joins := o.j, ldv := some o.a, mask := o.m
             len := optLen o.mods, enc := encBits (.vsel o) }
    (.sel o.a ⟨o.c, s.hart.route dc⟩ ⟨o.b, s.hart.route db⟩)

/-- VRED (R302, R303). -/
def execVred (o : VRedOps) (s : State) : Out State :=
  s.vredOp o (encBits (.vred o)) fun c => .red o.op false o.a c

/-- VRED.O (R302, R304). -/
def execVredO (o : VRedOps) (s : State) : Out State :=
  s.vredOp o (encBits (.vredO o)) fun c => .red o.op true o.a c

/-- VSCAN (R302, R304). -/
def execVscan (o : VRedOps) (s : State) : Out State :=
  s.vredOp o (encBits (.vscan o)) fun c => .scan o.op o.a c

/-- VCOMPRESS (R306). -/
def execVcompress (o : VOne) (s : State) : Out State :=
  s.vone o .V (encBits (.vcompress o)) fun c => .compress o.a c

/-- VEXPAND (R306). -/
def execVexpand (o : VOne) (s : State) : Out State :=
  s.vone o .V (encBits (.vexpand o)) fun c => .expand o.a c

/-- VIOTA (R307). -/
def execViota (o : VIotaOps) (s : State) : Out State :=
  s.vector { cls := .V, droves := [], srcs := [], dst := 0, joins := o.j, ldv := some o.a, mask := o.m
             len := if o.long then 8 else 4, enc := encBits (.viota o) }
    (.iota o.a)

/-- VRESHAPE: the row length is captured (R308). -/
def execVreshape (o : VReshapeOps) (s : State) : Out State :=
  let dc := optDrove o.dc
  s.vector { cls := .V, droves := [dc], srcs := [o.b], dst := 0, joins := o.j, ldv := some o.a, mask := o.m
             len := optLen o.dc, enc := encBits (.vreshape o) }
    (.reshape o.a ⟨o.c, s.hart.route dc⟩ (s.hart.src [] o.b))

/-- VEXTRACT (R309). -/
def execVextract (o : VExtractOps) (s : State) : Out State :=
  let dc := optDrove o.dc
  s.vector { cls := .E, droves := [dc], srcs := [o.b], dst := o.a, joins := false, ldv := none, mask := 0
             len := optLen o.dc, enc := encBits (.vextract o) }
    (.extract (s.hart.gdest o.a) ⟨o.c, s.hart.route dc⟩ (s.hart.src [] o.b))

/-- VINSERT (R309). -/
def execVinsert (o : VInsertOps) (s : State) : Out State :=
  s.vector { cls := .E, droves := [], srcs := [o.b, o.c], dst := 0, joins := o.j, ldv := some o.a, mask := o.m
             len := if o.long then 8 else 4, enc := encBits (.vinsert o) }
    (.insert o.a (s.hart.src [] o.b) (s.hart.src [o.b] o.c))

/-! ### Masks (R310, R311) -/

/-- MAND to MANDN. -/
def State.maskOp (s : State) (op : MaskOp) (o : MaskOps) (f : BitVec 5) : Out State :=
  s.vector { cls := .E, droves := [], srcs := [], dst := 0, joins := o.j, ldv := none, mask := 0
             len := if o.long then 8 else 4, enc := (encOpt 0x35 o.j f (m5 o.a) 0 (m5 o.b) (m5 o.c) (noMods o.long)).bits }
    (.mask op o.a o.b o.c)

/-- MPOPC and MFIRST. -/
def State.maskCount (s : State) (o : MaskCountOps) (f : BitVec 5) (work : GDest → VWork) : Out State :=
  s.vector { cls := .E, droves := [], srcs := [], dst := o.a, joins := false, ldv := none, mask := 0
             len := if o.long then 8 else 4, enc := (encOpt 0x35 false f o.a 0 0 (m5 o.c) (noMods o.long)).bits }
    (work (s.hart.gdest o.a))

/-- MAND (R311). -/
def execMand (o : MaskOps) (s : State) : Out State :=
  s.maskOp .and o 0

/-- MOR (R311). -/
def execMor (o : MaskOps) (s : State) : Out State :=
  s.maskOp .or o 1

/-- MXOR (R311). -/
def execMxor (o : MaskOps) (s : State) : Out State :=
  s.maskOp .xor o 2

/-- MANDN (R311). -/
def execMandn (o : MaskOps) (s : State) : Out State :=
  s.maskOp .andn o 3

/-- MMOV (R311). -/
def execMmov (o : MaskMovOps) (s : State) : Out State :=
  s.vector { cls := .E, droves := [], srcs := [], dst := 0, joins := o.j, ldv := none, mask := 0
             len := if o.long then 8 else 4, enc := (encOpt 0x35 o.j 4 (m5 o.a) 0 0 (m5 o.c) (noMods o.long)).bits }
    (.mmov o.a o.c)

/-- MPOPC (R311). -/
def execMpopc (o : MaskCountOps) (s : State) : Out State :=
  s.maskCount o 5 fun d => .mpopc d o.c

/-- MFIRST (R311). -/
def execMfirst (o : MaskCountOps) (s : State) : Out State :=
  s.maskCount o 6 fun d => .mfirst d o.c

/-! ### Conversions (R280, R281) -/

/-- VCVT and VCVT.SAT. -/
def State.vcvtOp (s : State) (o : VCvtOps) (sat : Bool) : Out State :=
  let dc := optDrove o.dc
  let f : BitVec 5 := 0#1 ++ BitVec.ofBool sat ++ o.rm.code
  s.vector { cls := .E, droves := [dc], srcs := [], dst := 0, joins := o.j, ldv := some o.a, mask := o.m
             len := optLen o.dc, enc := (encOpt 0x37 o.j f o.a o.m (o.sew.code ++ o.tag.code) o.c (onlyC o.dc)).bits }
    (.cvt o.a ⟨o.c, s.hart.route dc⟩ o.tag o.sew o.rm sat)

/-- The expansions. -/
def State.vgrow (s : State) (k : VExpand) (o : VOne) (f : BitVec 5) : Out State :=
  s.vone o .E (encOpt 0x37 o.j f o.a o.m 0 o.c (onlyC o.dc)).bits fun c => .grow k o.a c

/-- VCVT (R280). -/
def execVcvt (o : VCvtOps) (s : State) : Out State :=
  s.vcvtOp o false

/-- VCVT.SAT (R280). -/
def execVcvtSat (o : VCvtOps) (s : State) : Out State :=
  s.vcvtOp o true

/-- VCVT.I4 (R281). -/
def execVcvtI4 (o : VOne) (s : State) : Out State :=
  s.vgrow .i4 o 0x10

/-- VCVT.E3M2 (R281). -/
def execVcvtE3m2 (o : VOne) (s : State) : Out State :=
  s.vgrow .e3m2 o 0x11

/-- VCVT.E2M3 (R281). -/
def execVcvtE2m3 (o : VOne) (s : State) : Out State :=
  s.vgrow .e2m3 o 0x12

/-! ### Length, dimensions and tags (R251 to R255) -/

/-- A configuration instruction at dispatch: `f` gives the vector state and the value of the general destination
(R252). It stands in the queue as a convoy of its own (R261). -/
def State.config (s : State) (srcs : List GReg) (dst : GReg) (enc : Word) (f : Vec → Vec × Word) : Out State :=
  let d : Disp := { cls := .E, droves := [], srcs := srcs, dst := dst, joins := false, ldv := none, mask := 0, len := 4, enc := enc }
  let m := s.member' d .config
  match s.vecBlocked d m with
  | some t => .next t
  | none =>
    let r := f s.hart.vec
    let s1 := (s.pop srcs).setDest dst r.2
    .next { s1 with hart := { s1.hart with vec := r.1.enqueue m false, pc := s1.hart.pc + 4 } }

/-- VFORM that VSETN names (R251). -/
def setnCfg (o : VSetOps) : VCfg := { mz := o.mz, tz := o.tz, grp := o.grp, sew := o.sew }

/-- The grant of VSETN.G: VN and the first element (R253). -/
def gangGrant (avl vlmax n r : Nat) : Nat × Nat :=
  let total := Nat.min avl (n * vlmax)
  let groups := (total + 15) / 16
  let q := groups / n
  let x := groups % n
  let start := (r * q + Nat.min r x) * 16
  let cnt := q + (if r < x then 1 else 0)
  (Nat.min (cnt * 16) (total - start), start)

/-- Encoding of VSETN and VSETN.G. -/
def setnEnc (o : VSetOps) (f : BitVec 6) : Word :=
  (enc32 0x36 f o.a (0#2 ++ BitVec.ofBool o.mz) o.b (BitVec.ofBool o.tz ++ o.grp.code ++ o.sew.code)).bits

/-- VSETN (R252). -/
def execVsetn (o : VSetOps) (s : State) : Out State :=
  let avl := (s.hart.src [] o.b).toNat
  s.config [o.b] o.a (setnEnc o 0) fun v =>
    let n := Nat.min avl (setnCfg o).vlmax
    ({ v with vn := n, form := setnCfg o }, BitVec.ofNat 64 n)

/-- VSETN.G (R253). -/
def execVsetnG (o : VSetOps) (s : State) : Out State :=
  let avl := (s.hart.src [] o.b).toNat
  let g : Nat × Nat := match s.hart.gang with | some k => (k.size, k.rank) | none => (1, 0)
  s.config [o.b] o.a (setnEnc o 1) fun v =>
    let r := gangGrant avl (setnCfg o).vlmax g.1 g.2
    ({ v with vn := r.1, form := setnCfg o }, BitVec.ofNat 64 (r.1 + r.2 * 2 ^ 32))

/-- VSETD (R254). -/
def execVsetd (b c : GReg) (d : Fin 3) (s : State) : Out State :=
  let x : Dim := { len := (s.hart.src [] b).extractLsb' 0 32, stride := s.hart.src [b] c }
  s.config [b, c] 0 (enc32 0x36 2 0 (BitVec.ofNat 3 d.val) b c).bits fun v => ({ v with dim := v.dim.set d x }, 0)

/-- A VEC.CFG instruction that runs in the queue. -/
def State.cfgWork (s : State) (srcs : List GReg) (ldv : Option VReg) (enc : Word) (w : VWork) : Out State :=
  s.vector { cls := .E, droves := [], srcs := srcs, dst := 0, joins := false, ldv := ldv, mask := 0, len := 4, enc := enc } w

/-- VTAG (R255). -/
def execVtag (a : VReg) (t : Tag) (s : State) : Out State :=
  s.cfgWork [] (some a) (enc32 0x36 3 a t.code 0 0).bits (.vtag a t)

/-- VFSAVE (R271). -/
def execVfsave (b : GReg) (s : State) : Out State :=
  s.cfgWork [b] none (enc32 0x36 4 0 0 b 0).bits (.vfsave (s.hart.src [] b))

/-- VFRESTORE (R271): once every older queued instruction has completed, its first reads say whether it needs class V; on a
core without it, it proceeds as an instruction of class V. Faults of those reads are those of the queued work. -/
def execVfrestore (b : GReg) (s : State) : Out State :=
  let enc := (enc32 0x36 5 0 0 b 0).bits
  let a := s.hart.src [] b
  let go := s.cfgWork [b] none enc (.vfrestore a)
  match s.gate .E enc with
  | some t => .next t
  | none =>
    match s.blocked [b] 0 with
    | some t => .next t
    | none =>
      if !s.hart.liveConvoys.isEmpty || !s.hart.liveMats.isEmpty then .next s.stall
      else
        match s.restoreNeedsV a with
        | .busy t => .next t.stall
        | .done true _ => .next (s.migrationTrap .V enc)
        | _ => go

/-! ### Memory (R289 to R293) -/

/-- A base with the long form's offset (R290). -/
def withOff (base : Word) : Option (BitVec 32) → Word
  | none => base
  | some o => base + o.signExtend 64

/-- The addressing of VLD and VST (R290, R294). -/
def Hart.vecAt (h : Hart) (b : GReg) (a : VAddr) (off : Option (BitVec 32)) : VAt :=
  let base := withOff (h.src [] b) off
  match a with
  | .sweep => .sweep base (h.vec.dim.getD 0 { len := 0, stride := 0 }) (h.vec.dim.getD 1 { len := 0, stride := 0 })
      (h.vec.dim.getD 2 { len := 0, stride := 0 })
  | .strided c => if c = 0 then .unit base else .strided base (h.src [b] c)

/-- The general sources of VLD and VST: the base, and a stride register that is not 0. -/
def vaddrSrcs (b : GReg) : VAddr → List GReg
  | .sweep => [b]
  | .strided c => if c = 0 then [b] else [b, c]

/-- The class of VLD and VST: sweeps are class V (R289). -/
def vaddrCls : VAddr → Cls
  | .sweep => .V
  | .strided _ => .E

/-- VLD. -/
def State.vld (s : State) (o : VLdOps) (off : Option (BitVec 32)) (enc : Word) : Out State :=
  s.vector { cls := vaddrCls o.addr, droves := [], srcs := vaddrSrcs o.b o.addr, dst := 0, joins := o.j, ldv := some o.a
             mask := o.m, len := optLen off, enc := enc }
    (.load o.a (s.hart.vecAt o.b o.addr off) o.tag o.u)

/-- VST. -/
def State.vst (s : State) (o : VStOps) (off : Option (BitVec 32)) (enc : Word) : Out State :=
  s.vector { cls := vaddrCls o.addr, droves := [], srcs := vaddrSrcs o.b o.addr, dst := 0, joins := o.j, ldv := none
             mask := o.m, len := optLen off, enc := enc }
    (.store o.a (s.hart.vecAt o.b o.addr off) o.u)

/-- VLDX. -/
def State.vldx (s : State) (o : VLdxOps) (off : Option (BitVec 32)) (enc : Word) : Out State :=
  s.vector { cls := .V, droves := [], srcs := [o.b], dst := 0, joins := o.j, ldv := some o.a, mask := o.m
             len := optLen off, enc := enc }
    (.load o.a (.indexed (withOff (s.hart.src [] o.b) off) o.c) o.tag o.u)

/-- VSTX. -/
def State.vstx (s : State) (o : VStxOps) (off : Option (BitVec 32)) (enc : Word) : Out State :=
  s.vector { cls := .V, droves := [], srcs := [o.b], dst := 0, joins := o.j, ldv := none, mask := o.m
             len := optLen off, enc := enc }
    (.store o.a (.indexed (withOff (s.hart.src [] o.b) off) o.c) o.u)

/-- VLD (R289 to R293). -/
def execVld (o : VLdOps) (s : State) : Out State :=
  s.vld o none (encBits (.vld o))

/-- VLD, long form (R289 to R293). -/
def execVldL (o : VLdOps) (off : BitVec 32) (s : State) : Out State :=
  s.vld o (some off) (encBits (.vldL o off))

/-- VST (R289 to R293). -/
def execVst (o : VStOps) (s : State) : Out State :=
  s.vst o none (encBits (.vst o))

/-- VST, long form (R289 to R293). -/
def execVstL (o : VStOps) (off : BitVec 32) (s : State) : Out State :=
  s.vst o (some off) (encBits (.vstL o off))

/-- VLDX (R289 to R293). -/
def execVldx (o : VLdxOps) (s : State) : Out State :=
  s.vldx o none (encBits (.vldx o))

/-- VLDX, long form (R289 to R293). -/
def execVldxL (o : VLdxOps) (off : BitVec 32) (s : State) : Out State :=
  s.vldx o (some off) (encBits (.vldxL o off))

/-- VSTX (R289 to R293). -/
def execVstx (o : VStxOps) (s : State) : Out State :=
  s.vstx o none (encBits (.vstx o))

/-- VSTX, long form (R289 to R293). -/
def execVstxL (o : VStxOps) (off : BitVec 32) (s : State) : Out State :=
  s.vstx o (some off) (encBits (.vstxL o off))

/-! ### Streams (R296 to R298) -/

/-- The next address along a stride that lies in another page of `size` bytes, counting from one in a page (R299). -/
def nextPage (size a : Nat) (stride : Int) : Nat :=
  let k := stride.natAbs
  let n := if 0 ≤ stride then (size - a % size + k - 1) / k else a % size / k + 1
  (((a : Int) + n * stride) % 2 ^ 64).toNat

/-- Walk for the stream entries of the first `n` distinct pages from an address along a stride: a page is as large as its
leaf says, or 64 KiB where the walk fails, which leaves its entry empty; none sets A or D (R40, R299). The flag says that a
walk waits. -/
def State.streamWalks (s : State) (stride : Int) : Nat → Nat → List TlbEntry × Bool × State
  | 0, _ => ([], false, s)
  | n + 1, a =>
    let next (s : State) (span : Nat) : List TlbEntry × Bool × State :=
      if stride = 0 then ([], false, s) else s.streamWalks stride n (nextPage (2 ^ span) a stride)
    match (if nearBase ≤ a then .bad (walkBad a) else s.walk s.who a) with
    | .done e s1 => let r := next s1 e.span; (e :: r.1, r.2)
    | .bad _ => next s 16
    | .busy u => ([], true, s.waitedBy u)

/-- The stream engine fills the entries of a stream register that an instruction has set or advanced (R299); what waits is
due. -/
def State.refill (s : State) (k : BitVec 3) : State :=
  let w := s.hart.vec.stream k
  let a := w.base + (w.cursor.setWidth 64) * w.stride.signExtend 64
  let r := if s.hart.status.priv = .firm then ([], false, s) else s.streamWalks w.stride.toInt 4 a.toNat
  let h := r.2.2.hart
  { r.2.2 with hart := { h with vec := h.vec.setStream k { w with pages := r.1, due := r.2.1 } } }

/-- The stream engine tries again what is due to the current hart; none when all of it still waits (R299). -/
def State.fillDue (s : State) : Option State :=
  ((List.range 8).find? fun k => (s.hart.vec.stream (BitVec.ofNat 3 k)).due && s.hart.status.priv != .firm &&
      !((s.refill (BitVec.ofNat 3 k)).hart.vec.stream (BitVec.ofNat 3 k)).due).map fun k => s.refill (BitVec.ofNat 3 k)

/-- A stream register takes a new value at dispatch (R296, R298). -/
def State.putStream (s : State) (k : BitVec 3) (x : Stream) : State :=
  ({ s with hart := { s.hart with vec := s.hart.vec.setStream k x } } : State).refill k

/-- An access by a stream register: its address is captured, and the cursor moves on by VN (R298). -/
def State.vstream (s : State) (d : Disp) (k : BitVec 3) (off : Option (BitVec 32)) (work : VAt → VWork) : Out State :=
  let w := s.hart.vec.stream k
  let m := s.member' d (work (.stream k (withOff w.base off) w.stride w.cursor))
  match s.vecBlocked d m with
  | some t => .next t
  | none => .next ((s.dispatch d m).putStream k { w with cursor := w.cursor + BitVec.ofNat 32 s.hart.vec.vn })

/-- WSET and WADV act at dispatch; they are no convoy members (R298). -/
def State.streamOp (s : State) (srcs : List GReg) (enc : Word) (len : Nat) (k : BitVec 3) (x : Stream) : Out State :=
  match s.gate .E enc with
  | some t => .next t
  | none =>
    match s.blocked srcs 0 with
    | some t => .next t
    | none =>
      if s.hart.vecBarrier then .next s.stall
      else .next ((s.putStream k x).finishNone srcs len)

/-- VLD.W (R298). -/
def execVldW (o : VLdwOps) (s : State) : Out State :=
  s.vstream { cls := .E, droves := [], srcs := [], dst := 0, joins := o.j, ldv := some o.a, mask := o.m, len := optLen o.off
              enc := encBits (.vldW o) } o.w o.off fun a => .load o.a a o.tag false

/-- VST.W (R298). -/
def execVstW (o : VStwOps) (s : State) : Out State :=
  s.vstream { cls := .E, droves := [], srcs := [], dst := 0, joins := o.j, ldv := none, mask := o.m, len := optLen o.off
              enc := encBits (.vstW o) } o.w o.off fun a => .store o.a a false

/-- WSET (R298). -/
def execWset (wr : BitVec 3) (b c : GReg) (off : Option (BitVec 32)) (s : State) : Out State :=
  s.streamOp [b, c] (encBits (.wset wr b c off)) (optLen off) wr
    { base := withOff (s.hart.src [] b) off, stride := (s.hart.src [b] c).extractLsb' 0 32, cursor := 0, pages := [] }

/-- WADV (R298). -/
def execWadv (wr : BitVec 3) (b : GReg) (off : Option (BitVec 32)) (s : State) : Out State :=
  let w := s.hart.vec.stream wr
  s.streamOp [b] (encBits (.wadv wr b off)) (optLen off) wr
    { w with cursor := w.cursor + (s.hart.src [] b).extractLsb' 0 32, base := withOff w.base off }

/-! ### QGATHER (R437, R438) -/

/-- QGATHER (R437 to R440). -/
def execQgather (a b : VReg) (c : GReg) (m : MaskSel) (s : State) : Out State :=
  s.vector { cls := .E, droves := [], srcs := [c], dst := 0, joins := false, ldv := some a, mask := m, len := 4
             enc := encBits (.qgather a b c m) }
    (.gather a b (s.hart.src [] c))

end Sys2Proof.Machine
end

