-- ==== Sys2Proof/Machine/Matrix.lean ====
section
/-! DEFINITION. The matrix queue and its instructions (spec 10 R314 to R343): capture at dispatch, products and
block summation, tiles, latches, extracts, stops and MWAIT. -/

namespace Sys2Proof.Machine

/-! ### MSHAPE (R317, R318) -/

/-- Operand formats of MSHAPE; none is a reserved code, or sint8. -/
def matFmt (code : Nat) : Option Fmt :=
  match code with
  | 0 => some .bf16
  | 1 => some .fp16
  | 2 => some .e4m3
  | 3 => some .e5m2
  | 4 => some .e2m1
  | _ => none

/-- Bits of an element. -/
def matBits (code : Nat) : Nat := if code ≤ 1 then 16 else if code = 4 then 4 else 8

def shapeAF (v : Word) : Nat := (v.extractLsb' 0 3).toNat
def shapeBF (v : Word) : Nat := (v.extractLsb' 3 3).toNat
def shapeCF (v : Word) : Bool := v.getLsbD 6
def shapeSCA (v : Word) : Bool := v.getLsbD 8
def shapeSCB (v : Word) : Bool := v.getLsbD 9
def shapeKB (v : Word) : Nat := (v.extractLsb' 16 4).toNat
def shapeVisits (v : Word) : Nat := (v.extractLsb' 21 3).toNat + 1

/-- Whether MSHAPE accepts a value (R318). -/
def shapeOk (v : Word) : Bool :=
  let a := shapeAF v
  let b := shapeBF v
  let scaled := shapeSCA v || shapeSCB v
  let kb := shapeKB v
  let eight (x : Nat) : Bool := x == 2 || x == 3 || x == 4
  v.extractLsb' 24 40 == 0 && !v.getLsbD 20 && v.extractLsb' 10 6 == 0 && !v.getLsbD 7 && decide (1 ≤ kb) &&
    (if a ≤ 1 && a == b then !shapeCF v && !scaled && decide (kb ≤ 2)
     else if a == 4 && b == 4 then !shapeCF v && decide (kb ≤ 8)
     else if eight a && eight b then !shapeCF v && decide (kb ≤ 4)
     else if a == 5 && b == 5 then shapeCF v && !scaled && decide (kb ≤ 4)
     else false)

/-! ### Products and blocks (R332 to R334) -/

/-- A product with the flags it raises (R332). A scale is none when the operand is unscaled. -/
def matProduct (fa fb : Fmt) (a b : Nat) (sa sb : Option Nat) : FpNum × FFlags :=
  if sa = some 255 ∨ sb = some 255 then (.nan false, 0)
  else
    let x := fpValue fa a
    let y := fpValue fb b
    let p := fpMulRaw x y
    let shift (s : Option Nat) : Int := match s with | some k => (k : Int) - 127 | none => 0
    match p.num with
    | .fin z => (.fin { z with e := z.e + shift sa + shift sb }, p.flags)
    | n => (n, p.flags)

/-- The exact sum of truncated products: the sum in units of 2^q, and whether any was cut (R333). -/
def blockSum (q : Int) : List FpNum → Int × Bool
  | [] => (0, false)
  | .fin x :: t =>
    let c := x.cut q
    let r := blockSum q t
    ((if x.neg then -(c.lo : Int) else c.lo) + r.1, c.inexact || r.2)
  | _ :: t => blockSum q t

/-- floor(log2) of the largest magnitude; none when all are zero. -/
def blockTop : List FpNum → Option Int
  | [] => none
  | .fin x :: t =>
    (match blockTop t with
     | some k => some (if x.isZero then k else max k x.top)
     | none => if x.isZero then none else some x.top)
  | _ :: t => blockTop t

def FpNum.isInf (neg : Bool) : FpNum → Bool
  | .inf n => n == neg
  | _ => false

def FpNum.isNegZero : FpNum → Bool
  | .fin x => x.isZero && x.neg
  | _ => false

/-- One block of 32 products into an fp32 accumulator (R333). -/
def mmaBlock (acc : Nat) (ps : List FpNum) : Nat × FFlags :=
  let a := fpValue .fp32 acc
  let pos := (a :: ps).any (FpNum.isInf false)
  let neg := (a :: ps).any (FpNum.isInf true)
  if (a :: ps).any FpNum.isNan then (Fmt.fp32.nanCode, 0)
  else if pos && neg then (Fmt.fp32.nanCode, fNV)
  else if pos then (Fmt.fp32.signed false Fmt.fp32.infCode, 0)
  else if neg then (Fmt.fp32.signed true Fmt.fp32.infCode, 0)
  else
    let av : Ex := match a with | .fin x => x | _ => Ex.zero false
    let t : Ex × Bool :=
      match blockTop ps with
      | none => (Ex.zero (ps.all FpNum.isNegZero), false)
      | some top =>
        let r := blockSum (top - 60) ps
        ({ neg := decide (r.1 < 0), m := r.1.natAbs, e := top - 60, sticky := false }, r.2)
    let x := Ex.add .rne av t.1
    let r := fpRound .fp32 .rne false 0 (if t.2 && !x.isZero then { x with sticky := true } else x)
    (r.code, if t.2 then r.flags ||| fNX else r.flags)

/-- One block of 32 products into a sint32 accumulator (R334). -/
def mmaBlockInt (acc : Nat) (ps : List (Nat × Nat)) : Nat :=
  keep 32 (ps.foldl (fun (s : Int) p => s + intOf true 8 p.1 * intOf true 8 p.2) (acc : Int))

/-- The elements of block `blk` of row `r` of a tile (R319). -/
def tileBlock (tile : Nat) (code r blk : Nat) : List Nat :=
  let w := matBits code
  let row := tile / 2 ^ (1024 * r + 32 * w * blk)
  (List.range 32).map fun k => row / 2 ^ (w * k) % 2 ^ w

/-- The scale of block `blk` of row `r` (R319). -/
def scaleCode (scale : Nat) (r blk : Nat) : Nat := scale / 2 ^ (64 * r + 8 * blk) % 256

/-- An operand: its tile, its scale tile and whether it is scaled, its format code. -/
structure MatOperand where
  tile : Nat
  scale : Nat
  scaled : Bool
  code : Nat

/-- The scale of a block of an operand, when it is scaled. -/
def MatOperand.scaleAt (o : MatOperand) (r blk : Nat) : Option Nat := if o.scaled then some (scaleCode o.scale r blk) else none

/-- One accumulator element over the blocks named: A's block and B's block (R339, R340). -/
def mmaElement (a b : MatOperand) (cf : Bool) (l j : Nat) : List (Nat × Nat) → Nat → FFlags → Nat × FFlags
  | [], acc, fl => (acc, fl)
  | (ka, kb) :: t, acc, fl =>
    let xs := tileBlock a.tile a.code l ka
    let ys := tileBlock b.tile b.code j kb
    if cf then mmaElement a b cf l j t (mmaBlockInt acc (xs.zip ys)) fl
    else
      match matFmt a.code, matFmt b.code with
      | some fa, some fb =>
        let ps := (xs.zip ys).map fun p => matProduct fa fb p.1 p.2 (a.scaleAt l ka) (b.scaleAt j kb)
        let r := mmaBlock acc (ps.map (·.1))
        mmaElement a b cf l j t r.1 (ps.foldl (fun f p => f ||| p.2) (fl ||| r.2))
      | _, _ => (acc, fl)

/-- The product of two tiles into a column block of `rows` accumulator rows from `base` (R339). -/
def Croft.mma (c : Croft) (a b : MatOperand) (cf : Bool) (base rows cb : Nat) (blocks : List (Nat × Nat)) : Croft × FFlags :=
  (List.range rows).foldl (fun (st : Croft × FFlags) l =>
    let row := st.1.row (base + l)
    let r := (List.range 64).foldl (fun (x : BitVec 16384 × FFlags) j =>
      let y := mmaElement a b cf l j blocks (rowGet row (64 * cb + j)) x.2
      (rowSet x.1 (64 * cb + j) y.1, y.2)) (row, st.2)
    (st.1.setRow (base + l) r.1, r.2)) (c, 0)

/-- The blocks that a skip entry takes, from position `pos` of B; and the position after them (R340). -/
def takenBlocks (entry : Word) : Nat → Nat → Nat → List Nat → List Nat × Nat
  | 0, _, pos, out => (out, pos)
  | n + 1, i, pos, out =>
    let take := (entry.extractLsb' (8 * i) 4).toNat
    if take = 0 then (out, pos)
    else
      let p := pos + (entry.extractLsb' (8 * i + 4) 4).toNat
      takenBlocks entry n (i + 1) (p + take) (out ++ (List.range take).map fun k => p + k)

/-! ### Tiles in registers -/

def Mat.tile (m : Mat) (t : BitVec 2) : BitVec 65536 := m.t.getD t.toNat 0
def Mat.scaleTile (m : Mat) (k : BitVec 2) : BitVec 4096 := m.k.getD k.toNat 0

/-- The accumulator row of a local row (R316). -/
def Mat.accRow (m : Mat) (l : Nat) : Nat := m.grantBase + l

/-! ### What a matrix instruction comes to -/

/-- What came of starting the matrix instruction at the head of the queue. -/
inductive MatRan where
  /-- it completed -/
  | ran (s : State)
  /-- it stops with this fault; the member is what stays in the queue -/
  | stop (s : State) (b : Bad) (acc : BitVec 2) (m : MMember)
  /-- it waits, in the state given, or with nothing changed -/
  | waits (t : Option State)

/-- A stop for a cause that reports the encoding. -/
def MMember.bad (m : MMember) (cause : BitVec 8) : Bad := { cause := cause, addr := m.enc, perm := false }

def State.mapMat (s : State) (f : Mat → Mat) : State := { s with hart := { s.hart with mat := f s.hart.mat } }

/-- The croft of the current hart. -/
def State.myCroft (s : State) : CroftId := croftOf s.here.core

/-! ### MTLD, MTLDK and MTST (R336, R337) -/

/-- The address of a row. -/
def rowAddr (base stride : Word) (i : Nat) : Word := base + BitVec.ofNat 64 i * stride

/-- The first row of `n` from `i` up whose check fails; an error is the state in which a walk waits. -/
def State.badRow (s : State) (w : Who) (h : How) (base stride : Word) (size : Nat) : Nat → Nat → Except State (Option (Nat × Bad))
  | 0, _ => .ok none
  | n + 1, i =>
    match s.check w h (rowAddr base stride i) size with
    | .bad b => .ok (some (i, b))
    | .busy t => .error t
    | .done _ _ => s.badRow w h base stride size n (i + 1)

/-- The bytes of `n` rows from `i` up, or the state in which one waits. -/
def State.readRows (s : State) (w : Who) (base stride : Word) (size : Nat) : Nat → Nat → List Byte → Except State (List Byte × State)
  | 0, _, out => .ok (out, s)
  | n + 1, i, out =>
    match s.readAs w .vload (rowAddr base stride i) size with
    | .done bs s1 => s1.readRows w base stride size n (i + 1) (out ++ bs)
    | .busy t => .error t
    | .bad _ => .error s

/-- Bytes from an address up, cut into naturally aligned units of 8 bytes, and single bytes before and after (R337). -/
def unitsOf (a : Word) (bs : List Byte) : List (Word × List Byte) :=
  let head := (8 - a.toNat % 8) % 8
  let mid := (bs.length - head) / 8
  ((List.range bs.length).filter fun i => decide (i < head ∨ head + 8 * mid ≤ i)).map (fun i => (a + BitVec.ofNat 64 i, (bs.drop i).take 1)) ++
    (List.range mid).map fun i => (a + BitVec.ofNat 64 (head + 8 * i), (bs.drop (head + 8 * i)).take 8)

/-- Write rows of a tile, in no defined order but by whole units (R328, R337). -/
def State.writeRows (s : State) (w : Who) (base stride : Word) (tile : Nat) (rows : List Nat) : Held :=
  let row (i : Nat) : Word × List Byte := (rowAddr base stride i, bytesOf 128 (tile / 2 ^ (1024 * i)))
  (s.writeFree w (rows.flatMap fun i => unitsOf (row i).1 (row i).2)).bind fun t =>
    .ok (t.unpoisonBytes (if t.poison.isEmpty then [] else (s.unitBytes w (rows.map row)).map (·.1)))

/-- MTLD and MTLDK: 64 rows of `size` bytes. -/
def State.loadRows (s : State) (m : MMember) (base stride : Word) (size : Nat) (f : Mat → Nat → Mat) : MatRan :=
  let w := s.vecWho m.level .mat
  match s.badRow w .vload base stride size 64 0 with
  | .error t => .waits (s.waitsFor t)
  | .ok (some (_, b)) => .stop s b 1 m
  | .ok none =>
    match s.readRows w base stride size 64 0 [] with
    | .error t => .waits (s.waitsFor t)
    | .ok (bs, s1) => .ran (s1.mapMat fun x => f x (numOf bs))

/-- MTST. Any of the rows before a faulting row may have been performed: a free value says which (R330). -/
def State.storeRows (s : State) (m : MMember) (t : BitVec 2) (base stride : Word) : MatRan :=
  let w := s.vecWho m.level .mat
  let tile := (s.hart.mat.tile t).toNat
  match s.badRow w .vstore base stride 128 64 0 with
  | .error u => .waits (s.waitsFor u)
  | .ok (some (k, b)) =>
    let d := s.draw
    (match d.2.writeRows w base stride tile ((List.range k).filter fun i => (Config.freeOrder d.1).testBit i) with
     | .ok s1 => .stop s1 b 2 m
     | .error u => .waits (s.waitsFor u))
  | .ok none =>
    match s.writeRows w base stride tile (List.range 64) with
    | .ok s1 => .ran s1
    | .error u => .waits (s.waitsFor u)

/-! ### MMA and MMAS (R325, R339, R340) -/

/-- The B operand and its scale tile; none while a latch holds no tile for this hart (R325). -/
def State.operandB (s : State) (o : MmaOps) : Option (Nat × Nat) :=
  match o.b with
  | .tile t => some ((s.hart.mat.tile t).toNat, (s.hart.mat.scaleTile o.kb).toNat)
  | .latch n =>
    let l := (s.croft s.myCroft).latch n
    if l.full && !l.released.contains s.hart.taskId then some (l.tile.toNat, l.scale.toNat) else none

/-- MMA over the blocks given (R339). -/
def State.mmaRun (s : State) (m : MMember) (o : MmaOps) (blocks : List (Nat × Nat)) : MatRan :=
  let x := s.hart.mat
  if x.grantRows = 0 then .stop s (m.bad 0x0A) 0 m
  else
    match s.operandB o with
    | none => .waits none
    | some (bt, bk) =>
      let a : MatOperand :=
        { tile := (x.tile o.t).toNat, scale := (x.scaleTile o.ka).toNat, scaled := shapeSCA x.shape, code := shapeAF x.shape }
      let b : MatOperand := { tile := bt, scale := bk, scaled := shapeSCB x.shape, code := shapeBF x.shape }
      let r := (s.croft s.myCroft).mma a b (shapeCF x.shape) x.grantBase x.grantRows o.cb.toNat blocks
      let named (n : Bool) : Bool := match o.b with | .latch k => k == n | .tile _ => false
      .ran ((s.setCroft s.myCroft r.1).mapMat fun y =>
        { y with flags := y.flags ||| r.2, readN0 := y.readN0 || named false, readN1 := y.readN1 || named true })

/-- A read of the skip entry of MMAS. -/
def How.vskip : How := { acc := 1, need := .read, style := .skip }

/-- The skip entry of MMAS, through stream register `k` (R299, R340): aligned, and in a croft store. -/
def State.skipEntry (s : State) (m : MMember) (k : BitVec 3) (a : Word) : Got Nat :=
  let w : Who := { s.vecWho m.level .mat with pages := (s.hart.vec.stream k).pages }
  if a.extractLsb' 56 8 = 0 ∧ a.toNat % 4 ≠ 0 then .bad { cause := 0x04, addr := a, perm := false }
  else
    match s.readAs w .vskip a 4 with
    | .done bs s1 => .done (numOf bs) s1
    | .bad b => .bad b
    | .busy t => .busy t

/-! ### Extracts (R341 to R343) -/

/-- Width and tag of an extract format (R341). -/
def extWidth : ExtFmt → Nat
  | .fp32 => 32
  | .sint32 => 32
  | .fp16 => 16
  | .bf16 => 16
  | _ => 8

def extTag : ExtFmt → Tag
  | .fp32 => .float
  | .fp16 => .float
  | .bf16 => .bfloat
  | .e4m3 => .e4m3
  | .e5m2 => .e5m2
  | _ => .sint

def extCvt : ExtFmt → CvtFmt
  | .fp32 => .fp32
  | .fp16 => .fp16
  | .bf16 => .bf16
  | .e4m3 => .e4m3
  | .e5m2 => .e5m2
  | .sint8 => .sint8
  | .sint32 => .sint32

def selCol (sel : Word) : Nat := (sel.extractLsb' 8 10).toNat
def selRow (sel : Word) : Nat := (sel.extractLsb' 0 6).toNat

/-- The checks of an extract's start, in order: a cause, or none (R341). `dst` is MEXT's destination, `bias` the bias
group of MEXTST. -/
def State.extCheck (s : State) (m : MMember) (f : ExtFmt) (sel : Word) (dst : Option VReg) (bias : VReg) : Option (BitVec 8) :=
  let x := s.hart.mat
  let v := s.hart.vec
  let n := (groupFor m.vn 32).getD 8
  let want : Shape := { tag := if shapeCF x.shape then .sint else .float, sew := .e32, grp := grpOf n }
  let biasOk := bias == 0 || (aligned n bias && (regsOf bias n).all fun i =>
    (v.shapes.getD i { tag := .raw, sew := .e8, grp := .x1 }) == want)
  if x.grantRows = 0 ∨ x.grantRows ≤ selRow sel ∨ 512 < selCol sel + m.vn then some 0x0A
  else if sewBits m.form.sew ≠ extWidth f then some 0x09
  else if (match dst with | some d => !aligned (grpRegs m.form.grp) d | none => false) then some 0x09
  else if !biasOk then some 0x09
  else none

/-- Element `e` of an extract, with its flags (R342). -/
def State.extElement (s : State) (m : MMember) (f : ExtFmt) (sel : Word) (relu : Bool) (bias : VReg) (e : Nat) : FRes :=
  let x := s.hart.mat
  let cf := shapeCF x.shape
  let code := rowGet ((s.croft s.myCroft).row (x.accRow (selRow sel))) (selCol sel + e)
  let mode := match modeOfFrm m.frm with | .sr => Mode.rne | k => k
  let bcode := elemOf (s.hart.vec.group bias ((groupFor m.vn 32).getD 8)) 32 e
  let raw : Raw :=
    if cf then
      { num := .fin (Ex.ofInt (intOf true 32 code + if bias = 0 then 0 else intOf true 32 bcode)), flags := 0 }
    else if bias = 0 then { num := fpValue .fp32 code, flags := 0 }
    else fpAddRaw mode (fpValue .fp32 code) (fpValue .fp32 bcode)
  let below : Bool :=
    match raw.num with
    | .nan _ => false
    | .inf n => n
    | .fin y => y.neg
  let num := if relu && below then .fin (Ex.zero false) else raw.num
  let r := cvtTo (extCvt f) mode false 0 num
  { r with flags := r.flags ||| raw.flags }

/-- MEXT (R341, R342). -/
def State.mextRun (s : State) (m : MMember) (d : VReg) (sel : Word) (relu : Bool) (f : ExtFmt) : MatRan :=
  match s.extCheck m f sel (some d) 0 with
  | some c => .stop s (m.bad c) 0 m
  | none =>
    if m.vn = 0 then .ran s
    else
      let v := s.hart.vec
      let k := v.mask m.mask.toNat
      let fill : Fill :=
        { reg := d, regs := grpRegs m.form.grp, dw := sewBits m.form.sew, per := 1, last := m.form.vlmax, draws := false
          drawn := 0, mz := m.form.mz, tz := m.form.tz
          active := fun e => decide (e < m.vn) && (m.mask == 0 || k.testBit e)
          value := fun e _ => s.extElement m f sel relu 0 e }
      let r := fill.run v m.vn 0 4096 { fl := 0, seed := 0, draws := 0 }
      let v1 := r.1.record d (grpRegs m.form.grp) { tag := extTag f, sew := m.form.sew, grp := m.form.grp }
      .ran { s with hart := { s.hart with vec := v1, mat := { s.hart.mat with flags := s.hart.mat.flags ||| r.2.1.fl } } }

/-- The converted values of an extract, absent where an element is not active, and their flags (R342, R343). -/
def State.extValues (s : State) (m : MMember) (f : ExtFmt) (sel : Word) (relu : Bool) (bias : VReg) : List (Option Word) × FFlags :=
  let k := s.hart.vec.mask m.mask.toNat
  let rs := (List.range m.vn).map fun e =>
    if m.mask == 0 || k.testBit e then some (s.extElement m f sel relu bias e) else none
  (rs.map fun r => r.map fun x => BitVec.ofNat 64 x.code,
   rs.foldl (fun fl r => match r with | some x => fl ||| x.flags | none => fl) 0)

/-- Store the values from element `e` up, in ascending order: the state, and the element at which a check fails
(R343). -/
def State.storeValues (s : State) (w : Who) (base : Word) (n : Nat) : Nat → List (Option Word) → Except State (State × Option (Nat × Bad))
  | _, [] => .ok (s, none)
  | e, none :: t => s.storeValues w base n (e + 1) t
  | e, some x :: t =>
    match s.writeAs w .vstore (base + BitVec.ofNat 64 (e * n)) (bytesOf n x.toNat) with
    | .done _ s1 => s1.storeValues w base n (e + 1) t
    | .bad b => .ok (s, some (e, b))
    | .busy u => .error u

/-- The units that MEXTST has stored when it stops at element `k` or ends there. -/
def storedUnits (base : Word) (n k : Nat) (vals : List (Option Word)) : List (Word × List Byte) :=
  ((List.range k).filterMap fun e => ((vals.getD e none).map fun x => (base + BitVec.ofNat 64 (e * n), bytesOf n x.toNat)))

/-- MEXTST completes: its columns of the row are released (R343). -/
def State.releaseColumns (s : State) (sel : Word) (n : Nat) : State :=
  let k := s.myCroft
  let c := s.croft k
  let r := s.hart.mat.accRow (selRow sel)
  s.setCroft k (c.setRow r ((List.range n).foldl (fun x e => rowSet x (selCol sel + e) 0) (c.row r)))

/-- MEXTST (R341 to R343): converted once, stored from the element at which it stopped. -/
def State.mextstRun (s : State) (m : MMember) (bias : VReg) (base sel : Word) (relu : Bool) (f : ExtFmt) : MatRan :=
  match (if m.staged.isSome then none else s.extCheck m f sel none bias) with
  | some c => .stop s (m.bad c) 0 m
  | none =>
    if m.vn = 0 then .ran s
    else
      let fresh := s.extValues m f sel relu bias
      let st : Staged := match m.staged with | some x => x | none => { next := 0, vals := fresh.1 }
      let s0 := if m.staged.isSome then s else s.mapMat fun x => { x with flags := x.flags ||| fresh.2 }
      let w := s.vecWho m.level .mat
      let n := extWidth f / 8
      let stored (s1 : State) (k : Nat) : State :=
        s1.unpoisonBytes (if s1.poison.isEmpty then [] else (s1.unitBytes w (storedUnits base n k st.vals)).map (·.1))
      match s0.storeValues w base n st.next (st.vals.drop st.next) with
      | .error t => .waits (s.waitsFor t)
      | .ok (s1, some (k, b)) =>
        let s1 := stored s1 k
        let v := { s1.hart.vec with vfirst := BitVec.ofNat 64 k }
        .stop { s1 with hart := { s1.hart with vec := v } } b 2 { m with staged := some { st with next := k } }
      | .ok (s1, none) =>
        let s2 := (stored s1 m.vn).releaseColumns sel m.vn
        let v := if m.staged.isSome then { s2.hart.vec with vfirst := 0 } else s2.hart.vec
        .ran { s2 with hart := { s2.hart with vec := v } }

/-! ### MATTACH, MRING, MREL, MZERO (R321, R324, R325, R336) -/

/-- MATTACH (R321). -/
def State.mattachRun (s : State) (m : MMember) (d : GDest) (rows : Word) : MatRan :=
  if s.hart.mat.grantRows ≠ 0 then .stop s (m.bad 0x0A) 0 m
  else
    let t := s.attach rows
    .ran (t.putResult (some (d, t.hart.mat.grant)))

/-- MRING (R324): it waits its turn among the tiles that leave on this latch number, and for the next latch. -/
def State.mringRun (s : State) (t : BitVec 2) (n : Bool) (v : Nat) : MatRan :=
  let k := s.myCroft
  let c := (s.croft k).ready n (some s.here)
  let d := s.croft (nextCroft k)
  if (c.out n).head? = some (some s.here) ∧ (d.latch n).full = false then
    let x := s.hart.mat
    let s1 := s.setCroft k (c.sent n (some s.here))
    .ran (s1.setCroft (nextCroft k) ((s1.croft (nextCroft k)).arrive n (x.tile t) (x.scaleTile t) v))
  else .waits (if c = s.croft k then none else some (s.setCroft k c))

/-- MREL (R325). -/
def State.mrelRun (s : State) : MatRan :=
  let x := s.hart.mat
  let c := s.croft s.myCroft
  let c := if x.readN0 then c.release false s.here s.hart.taskId else c
  let c := if x.readN1 then c.release true s.here s.hart.taskId else c
  .ran ((s.setCroft s.myCroft c).mapMat fun y => { y with readN0 := false, readN1 := false })

/-- MZERO (R336). -/
def State.mzeroRun (s : State) (m : MMember) : MatRan :=
  let x := s.hart.mat
  if x.grantRows = 0 then .stop s (m.bad 0x0A) 0 m
  else
    let c := s.croft s.myCroft
    .ran (s.setCroft s.myCroft { c with acc := c.acc.filter fun e => !(decide (x.grantBase ≤ e.1) && decide (e.1 < x.grantBase + x.grantRows)) })

/-! ### The head of the queue (R326 to R330) -/


/-- A hart gives its grant back while its parish is in DRAIN: it is pinned no longer, and it is pre-empted urgently, with
those that are scheduled with it (R400, R471). -/
def State.unpinned (s : State) : State :=
  if (s.parish s.pp).pw.st == .drain then
    let others := match s.groupsOf s.hart with
      | [] => []
      | g :: _ => (s.groupHarts (s.clique g)).filter fun q => q != s.here
    others.foldl (State.evictAt · true) { s with hart := { s.hart with evict := true, urgent := true } }
  else s

/-- Run one matrix instruction. -/
def State.matRun (s : State) (m : MMember) : MatRan :=
  match m.work with
  | .attach d rows => s.mattachRun m d rows
  | .detach => .ran (if s.hart.mat.grantRows = 0 then s else s.detach.unpinned)
  | .shape v => if shapeOk v then .ran (s.mapMat fun x => { x with shape := v }) else .stop s (m.bad 0x09) 0 m
  | .ld t base stride => s.loadRows m base stride 128 fun x n => { x with t := x.t.setIfInBounds t.toNat (BitVec.ofNat 65536 n) }
  | .ldk k base stride => s.loadRows m base stride 8 fun x n => { x with k := x.k.setIfInBounds k.toNat (BitVec.ofNat 4096 n) }
  | .st t base stride => s.storeRows m t base stride
  | .zero => s.mzeroRun m
  | .rel => s.mrelRun
  | .ring t n v => s.mringRun t n v
  | .mma o => s.mmaRun m o ((List.range (shapeKB s.hart.mat.shape)).map fun k => (k, k))
  | .mmas o k entry =>
    (match s.skipEntry m k entry with
     | .bad b => .stop s b 1 m
     | .busy t => .waits (s.waitsFor t)
     | .done n s1 =>
       let r := takenBlocks (BitVec.ofNat 64 n) 4 0 0 []
       if shapeKB s.hart.mat.shape < r.2 then .stop s (m.bad 0x09) 0 m
       else s1.mmaRun m o ((List.range r.1.length).zip r.1))
  | .ext d sel relu f => s.mextRun m d sel relu f
  | .extst bias base sel relu f => s.mextstRun m bias base sel relu f

/-- A matrix instruction stops: the matrix queue of its level is held (R330). -/
def State.stopMat (s : State) (i : Nat) (m : MMember) (b : Bad) (acc : BitVec 2) : State :=
  let h := s.hart
  let h := { h with mat := { h.mat with queue := h.mat.queue.set i m } }
  let s := { s with hart := h.holdMats m.level }
  if m.level = .task ∧ h.status.priv ≠ .task then s else s.failVec b acc true m.level

/-- Whether the instruction at the head of the matrix queue may start: older vector work (R327, R328), older stores that
are not yet performed with respect to every agent (R328), and for an extract the turn of its hart (R414). -/
def State.matReady (s : State) (m : MMember) : Bool :=
  !s.hart.vecBefore m && !(m.work.touches && s.storesPending .device) && (!m.work.extracts || s.unitTurn)

/-- Run the matrix instruction at the head of the current hart's queue. None when there is none, or it waits and nothing has
changed. -/
def State.startMat (s : State) : Option State :=
  match s.hart.nextMat with
  | none => none
  | some i =>
    match s.hart.mat.queue[i]? with
    | none => none
    | some m =>
      if !s.matReady m then none
      else
        let served (t : State) : State := (if m.work.extracts then t.unitServed else t).unheldOn t.here (· == .mat)
        match s.matRun m with
        | .ran t => some (((served t).mapMat fun x => { x with queue := x.queue.eraseIdx i }).countQueued m.level .m)
        | .stop t b acc m' => some ((served t).stopMat i m' b acc)
        | .waits t => t

/-! ### Dispatch (R320, R326) -/

/-- What keeps a matrix instruction from being dispatched now. -/
def State.matBlocked (s : State) (srcs : List GReg) (dst : GReg) (enc : Word) (vec : Bool) : Option State :=
  match s.gate .M enc with
  | some t => some t
  | none =>
    match s.blocked srcs dst with
    | some t => some t
    | none =>
      if 16 ≤ s.hart.liveMats.length then some s.stall
      else if vec && s.hart.vecBarrier then some s.stall
      else none

/-- A matrix instruction enters the queue: `f` may change the vector state (R265, R326). -/
def State.matDispatch (s : State) (srcs : List GReg) (dst : GReg) (enc : Word) (mask : MaskSel) (work : MWork) (f : Vec → Vec) : State :=
  let h := s.hart
  let m : MMember :=
    { work := work, enc := enc, vn := h.vec.vn, form := h.vec.form, mask := mask, frm := h.frm, level := h.status.priv
      held := false, staged := none, older := h.vec.queue.length }
  let s := s.pop srcs
  let s := if dst = 31 then s.takePos.2 else s
  let h := s.hart.noteDest dst
  { s with hart := { h with mat := { h.mat with queue := h.mat.queue ++ [m] }, vec := f h.vec, pc := h.pc + 4 } }

/-- A matrix instruction at dispatch (R320, R326). -/
def State.matrix (s : State) (srcs : List GReg) (dst : GReg) (enc : Word) (mask : MaskSel) (work : MWork) (f : Vec → Vec) : Out State :=
  match s.matBlocked srcs dst enc work.extracts with
  | some t => .next t
  | none => .next (s.matDispatch srcs dst enc mask work f)

/-- MSHAPE as the queued matrix instructions will leave it, for RVIS at the dispatch of MRING (R324, R326). -/
def Hart.shapeAhead (h : Hart) : Word :=
  h.liveMats.foldl (fun v m => match m.work with | .shape x => if shapeOk x then x else v | _ => v) h.mat.shape

/-- MATTACH (R321). -/
def execMattach (a b : GReg) (s : State) : Out State :=
  s.matrix [b] a (enc32 0x3D 0 a 0 b 0).bits 0 (.attach (s.hart.gdest a) (s.hart.src [] b)) id

/-- MDETACH (R322). -/
def execMdetach (s : State) : Out State := s.matrix [] 0 (encBits .mdetach) 0 .detach id

/-- MSHAPE (R318). -/
def execMshape (b : GReg) (s : State) : Out State :=
  s.matrix [b] 0 (enc32 0x3D 2 0 0 b 0).bits 0 (.shape (s.hart.src [] b)) id

/-- MTLD (R336, R337). -/
def execMtld (t : BitVec 2) (b c : GReg) (s : State) : Out State :=
  s.matrix [b, c] 0 (enc32 0x3D 3 (t5 t) 0 b c).bits 0 (.ld t (s.hart.src [] b) (s.hart.src [b] c)) id

/-- MTLDK (R336, R337). -/
def execMtldk (k : BitVec 2) (b c : GReg) (s : State) : Out State :=
  s.matrix [b, c] 0 (enc32 0x3D 4 (t5 k) 0 b c).bits 0 (.ldk k (s.hart.src [] b) (s.hart.src [b] c)) id

/-- MTST (R336, R337). -/
def execMtst (t : BitVec 2) (b c : GReg) (s : State) : Out State :=
  s.matrix [b, c] 0 (enc32 0x3D 5 (t5 t) 0 b c).bits 0 (.st t (s.hart.src [] b) (s.hart.src [b] c)) id

/-- MZERO (R336). -/
def execMzero (s : State) : Out State := s.matrix [] 0 (encBits .mzero) 0 .zero id

/-- MREL (R325). -/
def execMrel (s : State) : Out State := s.matrix [] 0 (encBits .mrel) 0 .rel id

/-- MRING (R324). -/
def execMring (t : BitVec 2) (n : Bool) (s : State) : Out State :=
  s.matrix [] 0 (enc32 0x3D 9 (t5 t) (0#2 ++ BitVec.ofBool n) 0 0).bits 0 (.ring t n (shapeVisits s.hart.shapeAhead)) id

/-- MMA (R339). -/
def execMma (o : MmaOps) (s : State) : Out State := s.matrix [] 0 (encMma 0 o).bits 0 (.mma o) id

/-- MMAS: the stream address is captured, and the cursor moves on by 1 (R299, R340). -/
def execMmas (o : MmaOps) (wr : BitVec 3) (s : State) : Out State :=
  let w := s.hart.vec.stream wr
  let a := w.base + (w.cursor.setWidth 64) * w.stride.signExtend 64
  let enc := (encMma (1#2 ++ 0#1 ++ wr) o).bits
  match s.matBlocked [] 0 enc true with
  | some t => .next t
  | none => .next ((s.matDispatch [] 0 enc 0 (.mmas o wr a) id).putStream wr { w with cursor := w.cursor + 1 })

/-- MEXT (R341, R342). -/
def execMext (a : VReg) (c : GReg) (relu : Bool) (f : ExtFmt) (m : MaskSel) (s : State) : Out State :=
  s.matrix [c] 0 (enc32 0x3E (2#2 ++ BitVec.ofBool relu ++ f.code) a m 0 c).bits m (.ext a (s.hart.src [] c) relu f)
    fun v => { v with ldv := a }

/-- MEXTST (R341 to R343). -/
def execMextst (v : VReg) (b c : GReg) (relu : Bool) (f : ExtFmt) (m : MaskSel) (s : State) : Out State :=
  s.matrix [b, c] 0 (enc32 0x3E (3#2 ++ BitVec.ofBool relu ++ f.code) v m b c).bits m
    (.extst v (s.hart.src [] b) (s.hart.src [b] c) relu f) id

/-- MWAIT (R329): it waits for all older matrix work, merges the matrix flags, retires, and an enabled flag is
reported before the next instruction. -/
def execMwait (s : State) : Out State :=
  match s.gate .M (encBits .mwait) with
  | some t => .next t
  | none =>
    if !s.hart.liveMats.isEmpty || s.storesPending .device then .next s.stall
    else
      let fl := s.hart.mat.flags
      let en := s.hart.enabled fl
      let h := { s.hart.raise fl with mat := { s.hart.mat with flags := 0 } }
      let t := ({ s with hart := h } : State).retire 4 .m
      .next (if en = 0 then t else t.trapVec 0x0C (en.setWidth 64))

end Sys2Proof.Machine
end

