-- ==== Sys2Proof/Machine/ScalarFp.lean ====
section
/-! DEFINITION. The scalar floating-point instructions (spec 07 R230 to R238). -/

namespace Sys2Proof.Machine

/-- The format of a field (R230). -/
def fmtOf : FpFmt → Fmt
  | .d => .fp64
  | .s => .fp32
  | .h => .fp16
  | .bf => .bf16

/-- Bits W−1:0 of a register (R219). -/
def fpBits (f : FpFmt) (x : Word) : Nat := x.toNat % 2 ^ (fmtOf f).width

/-- A floating-point result, bits 63:W zero (R219). -/
def fpWord (r : FRes) : Word × FFlags := (BitVec.ofNat 64 r.code, r.flags)

/-- A two-operand operation of FP.R. -/
def State.fp2 (s : State) (enc : Word) (a b c : GReg) (f : FpFmt) (rm : Option Rm)
    (op : Mode → Nat → Nat → Nat → Word × FFlags) : Out State :=
  s.fpOp enc [b, c] a rm fun m d => op m d (fpBits f (s.hart.src [] b)) (fpBits f (s.hart.src [b] c))

/-- A one-operand operation of FP.R. -/
def State.fp1 (s : State) (enc : Word) (a b : GReg) (f : FpFmt) (rm : Option Rm)
    (op : Mode → Nat → Nat → Word × FFlags) : Out State :=
  s.fpOp enc [b] a rm fun m d => op m d (fpBits f (s.hart.src [] b))

/-- FADD (R231). -/
def execFadd (a b c : GReg) (f : FpFmt) (rm : Rm) (s : State) : Out State :=
  s.fp2 (encBits (.fadd a b c f rm)) a b c f (some rm) fun m d x y => fpWord (fpAdd (fmtOf f) m d x y)

/-- FSUB (R231). -/
def execFsub (a b c : GReg) (f : FpFmt) (rm : Rm) (s : State) : Out State :=
  s.fp2 (encBits (.fsub a b c f rm)) a b c f (some rm) fun m d x y => fpWord (fpSub (fmtOf f) m d x y)

/-- FMUL (R231). -/
def execFmul (a b c : GReg) (f : FpFmt) (rm : Rm) (s : State) : Out State :=
  s.fp2 (encBits (.fmul a b c f rm)) a b c f (some rm) fun m d x y => fpWord (fpMul (fmtOf f) m d x y)

/-- FDIV (R231). -/
def execFdiv (a b c : GReg) (f : FpFmt) (rm : Rm) (s : State) : Out State :=
  s.fp2 (encBits (.fdiv a b c f rm)) a b c f (some rm) fun m d x y => fpWord (fpDiv (fmtOf f) m d x y)

/-- FSQRT (R231). -/
def execFsqrt (a b : GReg) (f : FpFmt) (rm : Rm) (s : State) : Out State :=
  s.fp1 (encBits (.fsqrt a b f rm)) a b f (some rm) fun m d x => fpWord (fpSqrt (fmtOf f) m d x)

/-- FMIN (R232). -/
def execFmin (a b c : GReg) (f : FpFmt) (s : State) : Out State :=
  s.fp2 (encBits (.fmin a b c f)) a b c f none fun _ _ x y => fpWord (fpMinMax (fmtOf f) false x y)

/-- FMAX (R232). -/
def execFmax (a b c : GReg) (f : FpFmt) (s : State) : Out State :=
  s.fp2 (encBits (.fmax a b c f)) a b c f none fun _ _ x y => fpWord (fpMinMax (fmtOf f) true x y)

/-- The sign that FSGN gives (R231). -/
def fsgnSign (f : Fmt) (o : FsgnOp) (x y : Nat) : Bool :=
  match o with
  | .cp => f.sign y
  | .neg => !f.sign y
  | .xor => f.sign x != f.sign y

/-- FSGN (R231). -/
def execFsgn (a b c : GReg) (f : FpFmt) (o : FsgnOp) (s : State) : Out State :=
  s.fp2 (encBits (.fsgn a b c f o)) a b c f none fun _ _ x y =>
    (BitVec.ofNat 64 (fpSign (fmtOf f) (fsgnSign (fmtOf f) o x y) x), 0)

/-- The relation of FCMP. -/
def fcmpRel : FcmpOp → FpRel
  | .eq => .eq
  | .lt => .lt
  | .le => .le

/-- FCMP (R233). -/
def execFcmp (a b c : GReg) (f : FpFmt) (o : FcmpOp) (s : State) : Out State :=
  s.fp2 (encBits (.fcmp a b c f o)) a b c f none fun _ _ x y =>
    let r := fpCompare (fmtOf f) (fcmpRel o) x y
    (ofBool r.1, r.2)

/-- FCLASS (R233). -/
def execFclass (a b : GReg) (f : FpFmt) (s : State) : Out State :=
  s.fp1 (encBits (.fclass a b f)) a b f none fun _ _ x => (BitVec.ofNat 64 (fpClass (fmtOf f) x), 0)

/-- FRND (R231). -/
def execFrnd (a b : GReg) (f : FpFmt) (rm : Rm) (s : State) : Out State :=
  s.fp1 (encBits (.frnd a b f rm)) a b f (some rm) fun m d x => fpWord (fpIntegral (fmtOf f) m d x)

/-- FMVX (R231). -/
def execFmvx (a b : GReg) (f : FpFmt) (s : State) : Out State :=
  s.fp1 (encBits (.fmvx a b f)) a b f none fun _ _ x => (BitVec.ofNat 64 x, 0)

/-- An instruction of FP.FMA: gB, gC and gA are read in that order (R234). -/
def State.fp3 (s : State) (enc : Word) (a b c : GReg) (f : FpFmt) (rm : Rm) (np na : Bool) : Out State :=
  s.fpOp enc [b, c, a] a (some rm) fun m d =>
    fpWord (fpFma (fmtOf f) m d np na (fpBits f (s.hart.src [] b)) (fpBits f (s.hart.src [b] c))
      (fpBits f (s.hart.src [b, c] a)))

/-- FMA: p + a (R234). -/
def execFma (a b c : GReg) (f : FpFmt) (rm : Rm) (s : State) : Out State :=
  s.fp3 (encBits (.fma a b c f rm)) a b c f rm false false

/-- FMS: p − a (R234). -/
def execFms (a b c : GReg) (f : FpFmt) (rm : Rm) (s : State) : Out State :=
  s.fp3 (encBits (.fms a b c f rm)) a b c f rm false true

/-- FNMA: −p + a (R234). -/
def execFnma (a b c : GReg) (f : FpFmt) (rm : Rm) (s : State) : Out State :=
  s.fp3 (encBits (.fnma a b c f rm)) a b c f rm true false

/-- FNMS: −p − a (R234). -/
def execFnms (a b c : GReg) (f : FpFmt) (rm : Rm) (s : State) : Out State :=
  s.fp3 (encBits (.fnms a b c f rm)) a b c f rm true true

/-- A conversion result as a register holds it: integers of N bits sign- or zero-extended (R219). -/
def cvtWord (dst : CvtFmt) (r : FRes) : Word × FFlags :=
  match cvtInt dst with
  | some (true, w) => ((BitVec.ofNat w r.code).signExtend 64, r.flags)
  | _ => (BitVec.ofNat 64 r.code, r.flags)

/-- FCVT (R235 to R238). -/
def execFcvt (a b : GReg) (src dst : CvtFmt) (sat : Bool) (rm : Rm) (s : State) : Out State :=
  s.fpOp (encBits (.fcvt a b src dst sat rm)) [b] a (some rm) fun m d =>
    cvtWord dst (cvtTo dst m sat d (cvtValue src (s.hart.src [] b).toNat))

end Sys2Proof.Machine
end

