-- ==== Sys2Proof/Machine/Dispatch.lean ====
section
/-! DEFINITION. One arm for every operation and event: a direct call of its meaning. -/

namespace Sys2Proof.Machine

def exec (i : Instr) (s : State) : Host.Outcome State Fault Refusal :=
  match i with
  -- compact forms (R59, R108)
  | .cmv r g => Sys2Proof.Machine.execCmv r g s
  | .caddi r imm => Sys2Proof.Machine.execCaddi r imm s
  | .cadd r g => Sys2Proof.Machine.execCadd r g s
  | .csub r g => Sys2Proof.Machine.execCsub r g s
  | .cand r g => Sys2Proof.Machine.execCand r g s
  | .cor r g => Sys2Proof.Machine.execCor r g s
  | .cxor r g => Sys2Proof.Machine.execCxor r g s
  | .cshli r sh => Sys2Proof.Machine.execCshli r sh s
  | .cshri r sh => Sys2Proof.Machine.execCshri r sh s
  | .csrai r sh => Sys2Proof.Machine.execCsrai r sh s
  | .cld r off => Sys2Proof.Machine.execCld r off s
  | .cst r off => Sys2Proof.Machine.execCst r off s
  | .cbnz d => Sys2Proof.Machine.execCbnz d s
  | .cbez d => Sys2Proof.Machine.execCbez d s
  | .cvadd r g => Sys2Proof.Machine.execCvadd r g s
  | .cvmul r g => Sys2Proof.Machine.execCvmul r g s
  | .cvfma r g => Sys2Proof.Machine.execCvfma r g s
  -- INT.R (R63, R101)
  | .add a b c => Sys2Proof.Machine.execAdd a b c s
  | .sub a b c => Sys2Proof.Machine.execSub a b c s
  | .and a b c => Sys2Proof.Machine.execAnd a b c s
  | .or a b c => Sys2Proof.Machine.execOr a b c s
  | .xor a b c => Sys2Proof.Machine.execXor a b c s
  | .andn a b c => Sys2Proof.Machine.execAndn a b c s
  | .orn a b c => Sys2Proof.Machine.execOrn a b c s
  | .xnor a b c => Sys2Proof.Machine.execXnor a b c s
  | .shl a b c => Sys2Proof.Machine.execShl a b c s
  | .shr a b c => Sys2Proof.Machine.execShr a b c s
  | .sra a b c => Sys2Proof.Machine.execSra a b c s
  | .rol a b c => Sys2Proof.Machine.execRol a b c s
  | .ror a b c => Sys2Proof.Machine.execRor a b c s
  | .slt a b c => Sys2Proof.Machine.execSlt a b c s
  | .sltu a b c => Sys2Proof.Machine.execSltu a b c s
  | .min a b c => Sys2Proof.Machine.execMin a b c s
  | .max a b c => Sys2Proof.Machine.execMax a b c s
  | .minu a b c => Sys2Proof.Machine.execMinu a b c s
  | .maxu a b c => Sys2Proof.Machine.execMaxu a b c s
  | .mul a b c => Sys2Proof.Machine.execMul a b c s
  | .mulh a b c => Sys2Proof.Machine.execMulh a b c s
  | .mulhu a b c => Sys2Proof.Machine.execMulhu a b c s
  | .div a b c => Sys2Proof.Machine.execDiv a b c s
  | .divu a b c => Sys2Proof.Machine.execDivu a b c s
  | .rem a b c => Sys2Proof.Machine.execRem a b c s
  | .remu a b c => Sys2Proof.Machine.execRemu a b c s
  | .clz a b => Sys2Proof.Machine.execClz a b s
  | .ctz a b => Sys2Proof.Machine.execCtz a b s
  | .popc a b => Sys2Proof.Machine.execPopc a b s
  | .bswap a b => Sys2Proof.Machine.execBswap a b s
  | .sext a b width => Sys2Proof.Machine.execSext a b width s
  | .zext a b width => Sys2Proof.Machine.execZext a b width s
  | .bfx a b c => Sys2Proof.Machine.execBfx a b c s
  | .bfi a b c => Sys2Proof.Machine.execBfi a b c s
  | .select a b c => Sys2Proof.Machine.execSelect a b c s
  | .addsc1 a b c => Sys2Proof.Machine.execAddsc1 a b c s
  | .addsc2 a b c => Sys2Proof.Machine.execAddsc2 a b c s
  | .addsc3 a b c => Sys2Proof.Machine.execAddsc3 a b c s
  -- immediates (R105-R107)
  | .addi a b imm => Sys2Proof.Machine.execAddi a b imm s
  | .andi a b imm => Sys2Proof.Machine.execAndi a b imm s
  | .ori a b imm => Sys2Proof.Machine.execOri a b imm s
  | .xori a b imm => Sys2Proof.Machine.execXori a b imm s
  | .slti a b imm => Sys2Proof.Machine.execSlti a b imm s
  | .sltiu a b imm => Sys2Proof.Machine.execSltiu a b imm s
  | .addiL a b imm => Sys2Proof.Machine.execAddiL a b imm s
  | .andiL a b imm => Sys2Proof.Machine.execAndiL a b imm s
  | .oriL a b imm => Sys2Proof.Machine.execOriL a b imm s
  | .xoriL a b imm => Sys2Proof.Machine.execXoriL a b imm s
  | .sltiL a b imm => Sys2Proof.Machine.execSltiL a b imm s
  | .sltiuL a b imm => Sys2Proof.Machine.execSltiuL a b imm s
  | .shli a b sh => Sys2Proof.Machine.execShli a b sh s
  | .shri a b sh => Sys2Proof.Machine.execShri a b sh s
  | .srai a b sh => Sys2Proof.Machine.execSrai a b sh s
  | .rori a b sh => Sys2Proof.Machine.execRori a b sh s
  | .ldhi a imm => Sys2Proof.Machine.execLdhi a imm s
  | .addpc a imm => Sys2Proof.Machine.execAddpc a imm s
  | .laddpc a off => Sys2Proof.Machine.execLaddpc a off s
  -- scalar memory (R150-R153, R156, R162)
  | .load a b off sz => Sys2Proof.Machine.execLoad a b off sz s
  | .loadL a b off sz => Sys2Proof.Machine.execLoadL a b off sz s
  | .store a b off sz => Sys2Proof.Machine.execStore a b off sz s
  | .storeL a b off sz => Sys2Proof.Machine.execStoreL a b off sz s
  | .loadx a b c sc sz => Sys2Proof.Machine.execLoadx a b c sc sz s
  | .storex a b c sc sz => Sys2Proof.Machine.execStorex a b c sc sz s
  | .loadAcq a b scope sz => Sys2Proof.Machine.execLoadAcq a b scope sz s
  | .storeRel a b scope sz => Sys2Proof.Machine.execStoreRel a b scope sz s
  | .amoadd o => Sys2Proof.Machine.execAmoadd o s
  | .amoand o => Sys2Proof.Machine.execAmoand o s
  | .amoor o => Sys2Proof.Machine.execAmoor o s
  | .amoxor o => Sys2Proof.Machine.execAmoxor o s
  | .amomin o => Sys2Proof.Machine.execAmomin o s
  | .amomax o => Sys2Proof.Machine.execAmomax o s
  | .amominu o => Sys2Proof.Machine.execAmominu o s
  | .amomaxu o => Sys2Proof.Machine.execAmomaxu o s
  | .amoswap o => Sys2Proof.Machine.execAmoswap o s
  | .amofadd o => Sys2Proof.Machine.execAmofadd o s
  | .cas o => Sys2Proof.Machine.execCas o s
  | .fenceAcq sc => Sys2Proof.Machine.execFenceAcq sc s
  | .fenceRel sc => Sys2Proof.Machine.execFenceRel sc s
  | .fenceFull sc => Sys2Proof.Machine.execFenceFull sc s
  | .waitm a b c dbl sc => Sys2Proof.Machine.execWaitm a b c dbl sc s
  | .prefetch b write => Sys2Proof.Machine.execPrefetch b write s
  | .clean b sc => Sys2Proof.Machine.execClean b sc s
  | .flush b sc => Sys2Proof.Machine.execFlush b sc s
  | .inval b sc => Sys2Proof.Machine.execInval b sc s
  -- control (R111-R113)
  | .beq a b d => Sys2Proof.Machine.execBeq a b d s
  | .bne a b d => Sys2Proof.Machine.execBne a b d s
  | .blt a b d => Sys2Proof.Machine.execBlt a b d s
  | .bge a b d => Sys2Proof.Machine.execBge a b d s
  | .bltu a b d => Sys2Proof.Machine.execBltu a b d s
  | .bgeu a b d => Sys2Proof.Machine.execBgeu a b d s
  | .beqL a b d => Sys2Proof.Machine.execBeqL a b d s
  | .bneL a b d => Sys2Proof.Machine.execBneL a b d s
  | .bltL a b d => Sys2Proof.Machine.execBltL a b d s
  | .bgeL a b d => Sys2Proof.Machine.execBgeL a b d s
  | .bltuL a b d => Sys2Proof.Machine.execBltuL a b d s
  | .bgeuL a b d => Sys2Proof.Machine.execBgeuL a b d s
  | .call a d => Sys2Proof.Machine.execCall a d s
  | .lcall a d => Sys2Proof.Machine.execLcall a d s
  | .jumpr a b imm => Sys2Proof.Machine.execJumpr a b imm s
  -- tasks and messages (R387)
  | .spawn a b c p => Sys2Proof.Machine.execSpawn a b c p s
  | .msgopen b c core => Sys2Proof.Machine.execMsgopen b c core s
  | .msgpoll a => Sys2Proof.Machine.execMsgpoll a s
  -- moots (R367)
  | .mootnew a b c h => Sys2Proof.Machine.execMootnew a b c h s
  | .mootjoin a b h => Sys2Proof.Machine.execMootjoin a b h s
  | .mootleave h => Sys2Proof.Machine.execMootleave h s
  | .mootfree a h => Sys2Proof.Machine.execMootfree a h s
  | .mootarrive a h => Sys2Proof.Machine.execMootarrive a h s
  | .mootwait a b h => Sys2Proof.Machine.execMootwait a b h s
  | .mootsync a h => Sys2Proof.Machine.execMootsync a h s
  | .mootvoteAll a b h => Sys2Proof.Machine.execMootvoteAll a b h s
  | .mootvoteAny a b h => Sys2Proof.Machine.execMootvoteAny a b h s
  | .mootvoteCount a b h => Sys2Proof.Machine.execMootvoteCount a b h s
  | .mootbytes b h => Sys2Proof.Machine.execMootbytes b h s
  | .mootquery a b h => Sys2Proof.Machine.execMootquery a b h s
  | .mootredAdd a b t h => Sys2Proof.Machine.execMootredAdd a b t h s
  | .mootredMin a b t h => Sys2Proof.Machine.execMootredMin a b t h s
  | .mootredMax a b t h => Sys2Proof.Machine.execMootredMax a b t h s
  | .mootredAnd a b h => Sys2Proof.Machine.execMootredAnd a b h s
  | .mootredOr a b h => Sys2Proof.Machine.execMootredOr a b h s
  | .mootredXor a b h => Sys2Proof.Machine.execMootredXor a b h s
  -- engines (R419)
  | .xcopy a b => Sys2Proof.Machine.execXcopy a b s
  | .qgather a b c m => Sys2Proof.Machine.execQgather a b c m s
  | .qwalk a b => Sys2Proof.Machine.execQwalk a b s
  | .kick b c => Sys2Proof.Machine.execKick b c s
  -- scalar floating point (R230-R235)
  | .fadd a b c f rm => Sys2Proof.Machine.execFadd a b c f rm s
  | .fsub a b c f rm => Sys2Proof.Machine.execFsub a b c f rm s
  | .fmul a b c f rm => Sys2Proof.Machine.execFmul a b c f rm s
  | .fdiv a b c f rm => Sys2Proof.Machine.execFdiv a b c f rm s
  | .fsqrt a b f rm => Sys2Proof.Machine.execFsqrt a b f rm s
  | .fmin a b c f => Sys2Proof.Machine.execFmin a b c f s
  | .fmax a b c f => Sys2Proof.Machine.execFmax a b c f s
  | .fsgn a b c f o => Sys2Proof.Machine.execFsgn a b c f o s
  | .fcmp a b c f o => Sys2Proof.Machine.execFcmp a b c f o s
  | .fclass a b f => Sys2Proof.Machine.execFclass a b f s
  | .frnd a b f rm => Sys2Proof.Machine.execFrnd a b f rm s
  | .fmvx a b f => Sys2Proof.Machine.execFmvx a b f s
  | .fma a b c f rm => Sys2Proof.Machine.execFma a b c f rm s
  | .fms a b c f rm => Sys2Proof.Machine.execFms a b c f rm s
  | .fnma a b c f rm => Sys2Proof.Machine.execFnma a b c f rm s
  | .fnms a b c f rm => Sys2Proof.Machine.execFnms a b c f rm s
  | .fcvt a b src dst sat rm => Sys2Proof.Machine.execFcvt a b src dst sat rm s
  -- system (R131)
  | .syscall code => Sys2Proof.Machine.execSyscall code s
  | .brk code => Sys2Proof.Machine.execBrk code s
  | .srd a num => Sys2Proof.Machine.execSrd a num s
  | .swr a num => Sys2Proof.Machine.execSwr a num s
  | .sswap a num => Sys2Proof.Machine.execSswap a num s
  | .tlbinv b c mode => Sys2Proof.Machine.execTlbinv b c mode s
  | .migrate b => Sys2Proof.Machine.execMigrate b s
  | .pause b => Sys2Proof.Machine.execPause b s
  -- vector arithmetic, base forms (R273-R277)
  | .vadd o => Sys2Proof.Machine.execVadd o s
  | .vsub o => Sys2Proof.Machine.execVsub o s
  | .vrsub o => Sys2Proof.Machine.execVrsub o s
  | .vmul o => Sys2Proof.Machine.execVmul o s
  | .vmulh o => Sys2Proof.Machine.execVmulh o s
  | .vdiv o => Sys2Proof.Machine.execVdiv o s
  | .vrem o => Sys2Proof.Machine.execVrem o s
  | .vmin o => Sys2Proof.Machine.execVmin o s
  | .vmax o => Sys2Proof.Machine.execVmax o s
  | .vand o => Sys2Proof.Machine.execVand o s
  | .vor o => Sys2Proof.Machine.execVor o s
  | .vxor o => Sys2Proof.Machine.execVxor o s
  | .vshl o => Sys2Proof.Machine.execVshl o s
  | .vshr o => Sys2Proof.Machine.execVshr o s
  | .vfma o => Sys2Proof.Machine.execVfma o s
  | .vfms o => Sys2Proof.Machine.execVfms o s
  | .vfnma o => Sys2Proof.Machine.execVfnma o s
  | .vcmpEq o => Sys2Proof.Machine.execVcmpEq o s
  | .vcmpNe o => Sys2Proof.Machine.execVcmpNe o s
  | .vcmpLt o => Sys2Proof.Machine.execVcmpLt o s
  | .vcmpLe o => Sys2Proof.Machine.execVcmpLe o s
  -- vector arithmetic, long forms
  | .vaddL o => Sys2Proof.Machine.execVaddL o s
  | .vsubL o => Sys2Proof.Machine.execVsubL o s
  | .vrsubL o => Sys2Proof.Machine.execVrsubL o s
  | .vmulL o => Sys2Proof.Machine.execVmulL o s
  | .vmulhL o => Sys2Proof.Machine.execVmulhL o s
  | .vdivL o => Sys2Proof.Machine.execVdivL o s
  | .vremL o => Sys2Proof.Machine.execVremL o s
  | .vminL o => Sys2Proof.Machine.execVminL o s
  | .vmaxL o => Sys2Proof.Machine.execVmaxL o s
  | .vandL o => Sys2Proof.Machine.execVandL o s
  | .vorL o => Sys2Proof.Machine.execVorL o s
  | .vxorL o => Sys2Proof.Machine.execVxorL o s
  | .vshlL o => Sys2Proof.Machine.execVshlL o s
  | .vshrL o => Sys2Proof.Machine.execVshrL o s
  | .vfmaL o => Sys2Proof.Machine.execVfmaL o s
  | .vfmsL o => Sys2Proof.Machine.execVfmsL o s
  | .vfnmaL o => Sys2Proof.Machine.execVfnmaL o s
  | .vcmpEqL o => Sys2Proof.Machine.execVcmpEqL o s
  | .vcmpNeL o => Sys2Proof.Machine.execVcmpNeL o s
  | .vcmpLtL o => Sys2Proof.Machine.execVcmpLtL o s
  | .vcmpLeL o => Sys2Proof.Machine.execVcmpLeL o s
  -- vector unary (R278, R279)
  | .vmv o => Sys2Proof.Machine.execVmv o s
  | .vneg o => Sys2Proof.Machine.execVneg o s
  | .vabs o => Sys2Proof.Machine.execVabs o s
  | .vnot o => Sys2Proof.Machine.execVnot o s
  | .vsqrt o => Sys2Proof.Machine.execVsqrt o s
  | .vrcp o => Sys2Proof.Machine.execVrcp o s
  | .vrsq o => Sys2Proof.Machine.execVrsq o s
  | .vexp2 o => Sys2Proof.Machine.execVexp2 o s
  | .vlog2 o => Sys2Proof.Machine.execVlog2 o s
  | .vtanh o => Sys2Proof.Machine.execVtanh o s
  | .vclz o => Sys2Proof.Machine.execVclz o s
  | .vpopc o => Sys2Proof.Machine.execVpopc o s
  -- vector miscellaneous (R301-R309)
  | .vsel o => Sys2Proof.Machine.execVsel o s
  | .vred o => Sys2Proof.Machine.execVred o s
  | .vredO o => Sys2Proof.Machine.execVredO o s
  | .vscan o => Sys2Proof.Machine.execVscan o s
  | .vcompress o => Sys2Proof.Machine.execVcompress o s
  | .vexpand o => Sys2Proof.Machine.execVexpand o s
  | .viota o => Sys2Proof.Machine.execViota o s
  | .vreshape o => Sys2Proof.Machine.execVreshape o s
  | .vextract o => Sys2Proof.Machine.execVextract o s
  | .vinsert o => Sys2Proof.Machine.execVinsert o s
  -- vector memory (R289-R298)
  | .vld o => Sys2Proof.Machine.execVld o s
  | .vst o => Sys2Proof.Machine.execVst o s
  | .vldx o => Sys2Proof.Machine.execVldx o s
  | .vstx o => Sys2Proof.Machine.execVstx o s
  | .vldL o off => Sys2Proof.Machine.execVldL o off s
  | .vstL o off => Sys2Proof.Machine.execVstL o off s
  | .vldxL o off => Sys2Proof.Machine.execVldxL o off s
  | .vstxL o off => Sys2Proof.Machine.execVstxL o off s
  | .vldW o => Sys2Proof.Machine.execVldW o s
  | .vstW o => Sys2Proof.Machine.execVstW o s
  | .wset wr b c off => Sys2Proof.Machine.execWset wr b c off s
  | .wadv wr b off => Sys2Proof.Machine.execWadv wr b off s
  -- without operands: compact, fences, tasks, moots, system
  | .cnop => Sys2Proof.Machine.execCnop s
  | .fenceSv => Sys2Proof.Machine.execFenceSv s
  | .fenceVs => Sys2Proof.Machine.execFenceVs s
  | .fenceVv => Sys2Proof.Machine.execFenceVv s
  | .fenceI => Sys2Proof.Machine.execFenceI s
  | .join => Sys2Proof.Machine.execJoin s
  | .taskend => Sys2Proof.Machine.execTaskend s
  | .msgdone => Sys2Proof.Machine.execMsgdone s
  | .gbar => Sys2Proof.Machine.execGbar s
  | .eret => Sys2Proof.Machine.execEret s
  | .yield => Sys2Proof.Machine.execYield s
  | .halt => Sys2Proof.Machine.execHalt s
  | .wfm => Sys2Proof.Machine.execWfm s
  -- vector configuration (R251-R255, R271), masks (R310, R311), vector conversions (R280, R281), matrix (R335-R343)
  | .vsetn o => Sys2Proof.Machine.execVsetn o s
  | .vsetnG o => Sys2Proof.Machine.execVsetnG o s
  | .vsetd b c d => Sys2Proof.Machine.execVsetd b c d s
  | .vtag a t => Sys2Proof.Machine.execVtag a t s
  | .vfsave b => Sys2Proof.Machine.execVfsave b s
  | .vfrestore b => Sys2Proof.Machine.execVfrestore b s
  | .mand o => Sys2Proof.Machine.execMand o s
  | .mor o => Sys2Proof.Machine.execMor o s
  | .mxor o => Sys2Proof.Machine.execMxor o s
  | .mandn o => Sys2Proof.Machine.execMandn o s
  | .mmov o => Sys2Proof.Machine.execMmov o s
  | .mpopc o => Sys2Proof.Machine.execMpopc o s
  | .mfirst o => Sys2Proof.Machine.execMfirst o s
  | .vcvt o => Sys2Proof.Machine.execVcvt o s
  | .vcvtSat o => Sys2Proof.Machine.execVcvtSat o s
  | .vcvtI4 o => Sys2Proof.Machine.execVcvtI4 o s
  | .vcvtE3m2 o => Sys2Proof.Machine.execVcvtE3m2 o s
  | .vcvtE2m3 o => Sys2Proof.Machine.execVcvtE2m3 o s
  | .mattach a b => Sys2Proof.Machine.execMattach a b s
  | .mshape b => Sys2Proof.Machine.execMshape b s
  | .mtld t b c => Sys2Proof.Machine.execMtld t b c s
  | .mtldk k b c => Sys2Proof.Machine.execMtldk k b c s
  | .mtst t b c => Sys2Proof.Machine.execMtst t b c s
  | .mring t n => Sys2Proof.Machine.execMring t n s
  | .mma o => Sys2Proof.Machine.execMma o s
  | .mmas o wr => Sys2Proof.Machine.execMmas o wr s
  | .mext a c relu f m => Sys2Proof.Machine.execMext a c relu f m s
  | .mextst v b c relu f m => Sys2Proof.Machine.execMextst v b c relu f m s
  | .mdetach => Sys2Proof.Machine.execMdetach s
  | .mzero => Sys2Proof.Machine.execMzero s
  | .mrel => Sys2Proof.Machine.execMrel s
  | .mwait => Sys2Proof.Machine.execMwait s
  -- events of the machine and of its surroundings
  | .coldReset => Sys2Proof.Machine.execColdReset s
  | .asyncTrap => Sys2Proof.Machine.execAsyncTrap s
  | .migrationTrap cls enc => Sys2Proof.Machine.execMigrationTrap cls enc s
  | .carterQueuePlacement => Sys2Proof.Machine.execCarterQueuePlacement s
  | .window => Sys2Proof.Machine.execWindow s
  | .mixMigration => Sys2Proof.Machine.execMixMigration s
  | .preemption pp => Sys2Proof.Machine.execPreemption pp s
  | .placement pp => Sys2Proof.Machine.execPlacement pp s
  | .lendRequest pp => Sys2Proof.Machine.execLendRequest pp s
  | .overflowReturn pp => Sys2Proof.Machine.execOverflowReturn pp s
  | .levelLift pp level => Sys2Proof.Machine.execLevelLift pp level s
  | .groupStart g => Sys2Proof.Machine.execGroupStart g s
  | .reservationRelease pp => Sys2Proof.Machine.execReservationRelease pp s
  | .tkill v => Sys2Proof.Machine.execTkill v s
  | .hbaseWrite v => Sys2Proof.Machine.execHbaseWrite v s
  | .hlimitWrite v => Sys2Proof.Machine.execHlimitWrite v s
  | .hstrayWrite v => Sys2Proof.Machine.execHstrayWrite v s
  | .reevevecWrite v => Sys2Proof.Machine.execReevevecWrite v s
  | .registerWrite num v => Sys2Proof.Machine.execRegisterWrite num v s
  | .messageDeparture c => Sys2Proof.Machine.execMessageDeparture c s
  | .messageDispatch c => Sys2Proof.Machine.execMessageDispatch c s
  | .post slot v => Sys2Proof.Machine.execPost slot v s
  | .hostBar0Write off data => Sys2Proof.Machine.execHostBar0Write off data s
  | .hostWrite via off data => Sys2Proof.Machine.execHostWrite via off data s
  | .hostRead via off len => Sys2Proof.Machine.execHostRead via off len s
  | .convoyStart => Sys2Proof.Machine.execConvoyStart s
  | .convoyClose => Sys2Proof.Machine.execConvoyClose s
  | .convoyDrain => Sys2Proof.Machine.execConvoyDrain s
  | .latchForward c n => Sys2Proof.Machine.execLatchForward c n s
  | .gets pp line => Sys2Proof.Machine.execGets pp line s
  | .getx pp line => Sys2Proof.Machine.execGetx pp line s
  | .upg pp line => Sys2Proof.Machine.execUpg pp line s
  | .puts pp line => Sys2Proof.Machine.execPuts pp line s
  | .putx pp line => Sys2Proof.Machine.execPutx pp line s
  | .inv pp line => Sys2Proof.Machine.execInv pp line s
  | .invAck pp line => Sys2Proof.Machine.execInvAck pp line s
  | .fwd line => Sys2Proof.Machine.execFwd line s
  | .dataReply pp line => Sys2Proof.Machine.execDataReply pp line s
  | .complete pp line => Sys2Proof.Machine.execComplete pp line s
  | .putAck pp line => Sys2Proof.Machine.execPutAck pp line s
  | .farAtomic addr op => Sys2Proof.Machine.execFarAtomic addr op s
  | .sectoredStore pp addr data => Sys2Proof.Machine.execSectoredStore pp addr data s
  | .homeRead addr len => Sys2Proof.Machine.execHomeRead addr len s
  | .homeWrite addr data => Sys2Proof.Machine.execHomeWrite addr data s
  | .wakeNotice p => Sys2Proof.Machine.execWakeNotice p s
  | .watchPoll p => Sys2Proof.Machine.execWatchPoll p s
  | .pauseExpiry p => Sys2Proof.Machine.execPauseExpiry p s
  | .linkActive l => Sys2Proof.Machine.execLinkActive l s
  | .linkDoze l => Sys2Proof.Machine.execLinkDoze l s
  | .dieLost d => Sys2Proof.Machine.execDieLost d s
  | .pendDecrement t name bytes => Sys2Proof.Machine.execPendDecrement t name bytes s
  | .copyRecord e => Sys2Proof.Machine.execCopyRecord e s
  | .migrateRecord e => Sys2Proof.Machine.execMigrateRecord e s
  | .lockhouseAdmit => Sys2Proof.Machine.execLockhouseAdmit s
  | .sealRecord e => Sys2Proof.Machine.execSealRecord e s
  | .openRecord e => Sys2Proof.Machine.execOpenRecord e s
  | .chase e => Sys2Proof.Machine.execChase e s
  | .uwalk e => Sys2Proof.Machine.execUwalk e s
  | .allreduce e others => Sys2Proof.Machine.execAllreduce e others s
  | .allgather e others => Sys2Proof.Machine.execAllgather e others s
  | .reducescatter e others => Sys2Proof.Machine.execReducescatter e others s
  | .broadcast e others => Sys2Proof.Machine.execBroadcast e others s
  | .collectiveTimeout e => Sys2Proof.Machine.execCollectiveTimeout e s
  | .peerTimeout a => Sys2Proof.Machine.execPeerTimeout a s
  | .keyWrite slot word v => Sys2Proof.Machine.execKeyWrite slot word v s
  | .extentRemove ix => Sys2Proof.Machine.execExtentRemove ix s
  | .extentRemoved ix => Sys2Proof.Machine.execExtentRemoved ix s
  | .bisnp req => Sys2Proof.Machine.execBisnp req s
  | .tdispMessage f state => Sys2Proof.Machine.execTdispMessage f state s
  | .spdmMeasurement => Sys2Proof.Machine.execSpdmMeasurement s
  | .spdmDebugRequest p => Sys2Proof.Machine.execSpdmDebugRequest p s
  | .correctedError u unitNo loc => Sys2Proof.Machine.execCorrectedError u unitNo loc s
  | .rasWindow u unitNo => Sys2Proof.Machine.execRasWindow u unitNo s
  | .parityError p => Sys2Proof.Machine.execParityError p s
  | .raslogRead => Sys2Proof.Machine.execRaslogRead s
  | .rateWrite reg v => Sys2Proof.Machine.execRateWrite reg v s
  | .channelSwitchEnd wd ch => Sys2Proof.Machine.execChannelSwitchEnd wd ch s
  | .migctlFree page => Sys2Proof.Machine.execMigctlFree page s
  | .migctlFreeIfComplete page => Sys2Proof.Machine.execMigctlFreeIfComplete page s
  | .quiesceRequest pp => Sys2Proof.Machine.execQuiesceRequest pp s
  | .quiesceCancel pp => Sys2Proof.Machine.execQuiesceCancel pp s
  | .drained pp => Sys2Proof.Machine.execDrained pp s
  | .save pp => Sys2Proof.Machine.execSave pp s
  | .saveEnd pp => Sys2Proof.Machine.execSaveEnd pp s
  | .clkenWrite pp v => Sys2Proof.Machine.execClkenWrite pp v s
  | .railenWrite pp v => Sys2Proof.Machine.execRailenWrite pp v s
  | .railSettled pp => Sys2Proof.Machine.execRailSettled pp s
  | .restore pp => Sys2Proof.Machine.execRestore pp s
  | .restoreEnd pp => Sys2Proof.Machine.execRestoreEnd pp s
  | .wakeRequest pp => Sys2Proof.Machine.execWakeRequest pp s
  | .illegalInstruction enc => Sys2Proof.Machine.execIllegalInstruction enc s
  | .fetchFault => Sys2Proof.Machine.execFetchFault s
  | .scaleUpRequest addr op => Sys2Proof.Machine.execScaleUpRequest addr op s
  | .fwdData line => Sys2Proof.Machine.execFwdData line s
  | .bisnpResponse addr => Sys2Proof.Machine.execBisnpResponse addr s
  | .ideKm f keyed => Sys2Proof.Machine.execIdeKm f keyed s
  | .hostConfigWrite f size => Sys2Proof.Machine.execHostConfigWrite f size s
  | .linkRetrain l ok => Sys2Proof.Machine.execLinkRetrain l ok s
  | .uncorrectableError u addr => Sys2Proof.Machine.execUncorrectableError u addr s

end Sys2Proof.Machine
end

