-- ==== Sys2Proof/Machine/Issue.lean ====
section
/-! DEFINITION. Issue (spec 02 R85; 04 R126 to R128, R137; 08 R264, R414): which agent acts next, and what a hart
does on its turn before, and instead of, the instruction at its pc. The order in which agents act is the
schedule's, held as data in the state (log 3). -/

namespace Sys2Proof.Machine

/-- The meaning of a decoded instruction. -/
noncomputable def execDecoded (d : Decoded) (s : State) : Out State := exec d.instr s

/-- `execDecoded`, in the form that compiled code runs. -/
def execDecodedFast (d : Decoded) (s : State) : Out State :=
  match d with
  | .plain i => exec i s
  | .vsetn o => execVsetn o s
  | .vsetnG o => execVsetnG o s
  | .vsetd b c d => execVsetd b c d s
  | .vtag a t => execVtag a t s
  | .vfsave b => execVfsave b s
  | .vfrestore b => execVfrestore b s
  | .mand o => execMand o s
  | .mor o => execMor o s
  | .mxor o => execMxor o s
  | .mandn o => execMandn o s
  | .mmov o => execMmov o s
  | .mpopc o => execMpopc o s
  | .mfirst o => execMfirst o s
  | .vcvt o => execVcvt o s
  | .vcvtSat o => execVcvtSat o s
  | .vcvtI4 o => execVcvtI4 o s
  | .vcvtE3m2 o => execVcvtE3m2 o s
  | .vcvtE2m3 o => execVcvtE2m3 o s
  | .mattach a b => execMattach a b s
  | .mshape b => execMshape b s
  | .mtld t b c => execMtld t b c s
  | .mtldk k b c => execMtldk k b c s
  | .mtst t b c => execMtst t b c s
  | .mring t n => execMring t n s
  | .mma o => execMma o s
  | .mmas o wr => execMmas o wr s
  | .mext a c relu f m => execMext a c relu f m s
  | .mextst v b c relu f m => execMextst v b c relu f m s

/-- The two forms agree. -/
@[csimp] theorem execDecoded_eq_fast : @execDecoded = @execDecodedFast := by
  funext d s; cases d <;> rfl

/-! ### The units beside the harts -/

/-- First element for which `f` answers. -/
def firstOf {α β : Type} (f : α → Option β) : List α → Option β
  | [] => none
  | x :: t => match f x with | some y => some y | none => firstOf f t

/-- Messages move: from a departure buffer, or from an arrival queue to a context (R403, R405). -/
def State.serveMessages (s : State) : Option State :=
  firstOf (fun (c : CoreId) => match s.sendNext c with | some t => some t | none => s.dispatchNext c) (s.cores.map fun e => e.1)

/-- The Stewards place, lend and take back records, and start groups (R395, R396, R400). -/
def State.serveStewards (s : State) : Option State :=
  let busy := s.parishes.filter fun e => !(e.2.data.queue.isEmpty && e.2.data.overflow.isEmpty)
  let kept := s.places.filter fun p => (s.hartAt p).wait == .preempted
  if busy.isEmpty && kept.isEmpty then none
  else
    match firstOf (fun (pp : Nat) => if s.runs pp then s.tryPlace pp else none)
        ((busy.map fun e => e.1) ++ kept.map fun p => s.ppOf p.core) with
    | some t => some t
    | none =>
      match firstOf s.groupStart ((busy.filterMap fun e => e.2.reserved.map fun r => r.1) ++
          kept.flatMap fun p => (s.groupsOf (s.hartAt p)).take 1) with
      | some t => some t
      | none =>
        match firstOf (fun (pp : Nat) => match execOverflowReturn pp s with | .next t => some t | _ => none) (busy.map fun e => e.1) with
        | some t => some t
        | none => firstOf s.lend (List.range (Config.parishCount s.member))

/-- The Carter places a waiting frame (R141). -/
def State.serveCarter (s : State) : Option State :=
  match execCarterQueuePlacement s with
  | .next t => some t
  | _ => none

/-- A released latch forwards its tile (R324). -/
def State.serveLatches (s : State) : Option State :=
  firstOf (fun (k : CroftId) => match s.forward k false with | some t => some t | none => s.forward k true) (s.crofts.map fun e => e.1)

/-- The rows by which an engine hart takes a request that needs nothing from outside (R416 to R443). -/
def State.serveEngine (s : State) (e : EngineId) : Option State :=
  firstOf (fun (f : EngineId → State → Out State) => match f e s with | .next t => some t | _ => none)
    [execCopyRecord, execMigrateRecord, execSealRecord, execOpenRecord, execChase, execUwalk]

/-- Engines take requests, and the Lockhouse queue admits one (R417). -/
def State.serveEngines (s : State) : Option State :=
  match execLockhouseAdmit s with
  | .next t => some t
  | _ =>
    match s.failWalks with
    | some t => some t
    | none => firstOf s.serveEngine s.busyEngines

/-- A link that held requests wait for reaches ACTIVE (R200). -/
def State.serveLinks (s : State) : Option State :=
  firstOf (fun (x : LinkId × Nat) => match execLinkActive x.1 s with | .next t => some t | _ => none) s.waking

/-- The oldest message between the homes and the parishes that can arrive does (R191, R192). -/
def State.serveHomes (s : State) : Option State :=
  match firstOf (fun m => match s.deliver m with | .next t => some t | _ => none) s.coh.inflight with
  | some t => some t
  | none => s.settleNext

/-- One action of a unit of the package, when some unit can act. -/
def State.serve (s : State) : Option State :=
  firstOf (fun f => f s)
    [State.serveHomes, State.serveLinks, State.serveMessages, State.serveCarter, State.serveStewards, State.serveLatches,
     State.serveEngines, State.serveSlots, State.serveDrains]

/-! ### A turn of a hart -/

/-- One action of the hart's own vector and matrix units (R264, R269, R327, R413). A hart asleep on a reeve reply
runs nothing (R212). -/
def State.ownUnits (s : State) : Option State :=
  match s.drainNext with
  | some t => some t
  | none =>
    match s.startNext with
    | some t => some t
    | none =>
      match s.startMat with
      | some t => some t
      | none =>
        match s.fillDue with
        | some t => some t
        | none => if s.hart.vec.queue.any fun c => !c.closed then some { s with hart := s.hart.closeConvoy } else none

/-- What a wait becomes when its instruction is to issue afresh (R93, R168), or its pause has ended (R132). -/
def Wait.again : Wait → Wait
  | .parked => .running
  | .watching _ _ => .running
  | .paused _ => .running
  | w => w

/-- The turn passes to the next hart. -/
def State.rotate (s : State) : State :=
  let s := { s with hart := { s.hart with wait := s.hart.wait.again } }
  match s.others with
  | (p, _) :: _ => s.switchTo p
  | [] => s

/-- The turn of a hart that does not issue: one action of its own units or of the package's, and otherwise the turn
passes on. -/
def State.idle (s : State) : State :=
  match (if s.hart.wait.unitsRun then s.ownUnits else none) with
  | some t => t
  | none =>
    match s.serve with
    | some t => t
    | none => s.rotate

/-- The floating-point trap of a drained convoy that may be reported now: the hart runs at the level of its
dispatch or below (R269, R329), with what is left to report. -/
def dueTrap (l : Priv) : List (Priv × BitVec 5) → Option (BitVec 5 × List (Priv × BitVec 5))
  | [] => none
  | (q, f) :: t => if l.rank ≤ q.rank then some (f, t) else match dueTrap l t with | some r => some (r.1, (q, f) :: r.2) | none => none

/-- The instruction at the pc is fetched and executed (R47, R84, R85). -/
def State.issue (s : State) : Out State :=
  match s.fetch with
  | .code d t => execDecoded d t
  | .illegal enc t => execIllegalInstruction enc t
  | .bad b => .next (s.fetchTrap b)
  | .busy t => .next t.stall

/-- Whether a hart in this wait takes traps and gives way at a boundary. A HALT or a PAUSE ends so for every trap, those of
the vector and matrix queues too (R132, R135; log 58). -/
def Wait.atBoundary : Wait → Bool
  | .running => true
  | .parked => true
  | .watching _ _ => true
  | .paused _ => true
  | .halted => true
  | _ => false

/-- The pre-emption of the current hart that waits for this boundary; an urgent one may stop the convoy that runs (R137,
R267). -/
def State.giveWay (s : State) : State :=
  (if s.hart.urgent && s.hart.midConvoy then s.stopUrgent else s).preemptAt s.here

/-- Whether the current hart is to give way now (R137). One that has become pinned in a parish in DRAIN runs on until it
gives its grant back (R471). -/
def State.evicted (s : State) : Bool :=
  s.hart.evict && s.hart.yields && (s.hart.mat.grantRows == 0 || (s.parish s.pp).pw.st != .drain)

/-- What comes before the instruction at the pc, at a boundary between instructions: the end of a mix window (R138), a
pre-emption or a move that waits for TASK (R137, R143), the report of a drained convoy's flags (R269), and an
asynchronous trap, which comes after a synchronous one (R128). -/
def State.before (s : State) : Option (Out State) :=
  if !s.hart.wait.atBoundary then none
  else if 65536 ≤ s.hart.winCount then some (execWindow s)
  else if s.evicted then some (.next s.giveWay)
  else if s.hart.moveTo.isSome && s.hart.yields && s.hart.wait == .running then some (execMixMigration s)
  else
    match dueTrap s.hart.status.priv s.hart.fpTraps with
    | some (f, rest) =>
      some (.next (({ s with hart := { s.hart with fpTraps := rest } } : State).trapVec 0x0C (f.setWidth 64)))
    | none => if s.hart.asyncDue.isSome then some (execAsyncTrap s) else none

/-- Whether the current hart issues: it runs, and a C-core of a device in recovery stays in the boot ROM (R459; log 6). -/
def State.issues (s : State) : Bool := s.hart.wait == .running && !(s.recovery && s.cclass == .C)

/-- The turn of the current hart. -/
def State.turn (s : State) : Out State :=
  match s.before with
  | some o => o
  | none => if s.issues then s.issue else .next s.idle

/-- Whether a row of the operation table is an event: it has no encoding. -/
def isEvent (i : Instr) : Bool := (encode i).isNone

/-- The next action of the package: the schedule's, or, when it names none, the current hart's (log 3). When the G-die
is lost, only a cold reset does anything (R465). -/
def State.act (s : State) : Out State :=
  match s.turns with
  | .event i :: t =>
    if s.lostDies.contains 0 && i != .coldReset then .fault .packageLost
    else if isEvent i then exec i { s with turns := t }
    else .next { s with turns := t }
  | .run p :: t =>
    if s.lostDies.contains 0 then .fault .packageLost
    else
      let s := { s with turns := t }
      if s.places.contains p then (s.switchTo p).turn else .next s
  | [] => if s.lostDies.contains 0 then .fault .packageLost else s.turn

/-- Bytes stand where the hart fetches its next instruction, the hart issues, and nothing comes before it: the
schedule names no other agent, and nothing is due at the boundary (log 6). -/
def State.readyFor (s : State) (bs : List Byte) : State :=
  let s := s.placeCode s.hart.pc bs
  { s with
    turns := []
    recovery := false
    hart := { s.hart with
      wait := .running, pend1 := false, pend2 := false, evict := false, urgent := false, moveTo := none, fpTraps := []
      winCount := if 65536 ≤ s.hart.winCount then 0 else s.hart.winCount } }

end Sys2Proof.Machine
end

