-- ==== Sys2Proof/Machine/Step.lean ====
section
/-! DEFINITION. One step of the machine, and the placing of an instruction where the next step fetches it. -/

namespace Sys2Proof.Machine

/-- One step of the package: one action of one agent (`State.act`). -/
def step (s : State) : Host.Outcome State Fault Refusal := s.act

/-- `s` with an instruction stored where the current hart fetches its next one, and nothing due before it. -/
def State.withFetchWord (s : State) (nbits w : Nat) : State := s.readyFor (leBytes 8 (w % 2 ^ nbits))

end Sys2Proof.Machine
end

