-- ==== Sys2Proof/Safety.lean ====
section
/-! DEFINITION. The words that the statements are said in: the invariant that every step keeps, when an instruction of
the scalar pipeline issues, and what one that has retired leaves behind. -/

namespace Sys2Proof

open Machine

/-- The memory stands in its canonical form: addresses rise, and no listed byte equals an unlisted one. -/
def MemOk (s : State) : Prop := Memory.wf s.mem = true

end Sys2Proof

namespace Sys2Proof.Say

open Sys2Proof.Machine

/-! ### Copies of a line above the point of a maintenance operation (R170) -/

/-- A cache above the point holds data of the line that the point does not. -/
def DirtyAbove (s : State) (pp line : Nat) : Point → Prop
  | .parish => ∃ c, s.ppOf c = pp ∧ alGet false line (s.core c).l1d = true
  | .home =>
    (∃ c, alGet false line (s.core c).l1d = true) ∨ alHas line s.coh.below = true ∨
      ∃ e, e ∈ s.coh.l2 ∧ e.1.2 = line ∧ e.2.dirty = true
  | .array =>
    (∃ c, alGet false line (s.core c).l1d = true) ∨ alHas line s.coh.below = true ∨ alHas line s.coh.dram = true ∨
      ∃ e, e ∈ s.coh.l2 ∧ e.1.2 = line ∧ e.2.dirty = true

/-- A cache above the point holds the line. -/
def HeldAbove (s : State) (pp line : Nat) : Point → Prop
  | .parish => ∃ c, s.ppOf c = pp ∧ (alHas line (s.core c).l1d = true ∨ alHas line (s.core c).l1i = true)
  | .home =>
    (∃ c, alHas line (s.core c).l1d = true ∨ alHas line (s.core c).l1i = true) ∨ ∃ e, e ∈ s.coh.l2 ∧ e.1.2 = line
  | .array =>
    (∃ c, alHas line (s.core c).l1d = true ∨ alHas line (s.core c).l1i = true) ∨ (∃ e, e ∈ s.coh.l2 ∧ e.1.2 = line) ∨
      alHas line s.coh.well = true

/-! ### How an instruction of the scalar pipeline issues and retires -/

/-- Nothing keeps an instruction from issuing with these sources and this destination: no queue owes a register that it
names (R96, R136), every mq source has its word (R93), and an mq destination finds a position of an open message and
room in the departure buffer (R94, R403). -/
def Ready (s : State) (srcs : List GReg) (dst : GReg) : Prop :=
  (∀ r, r ∈ dst :: srcs → s.hart.owed r = false) ∧
  mqCount srcs ≤ s.hart.words.length ∧
  (dst = 31 → ∃ m, s.hart.open' = some m ∧ m.taken < m.words.length ∧ s.departUsed s.here.core < 64)

/-- What retiring adds to SY.INSTRET and, at TASK, to SY.MIXCNT (R119, R138). -/
def Counted (h h' : Hart) (k : Mix) : Prop :=
  h'.instret = h.instret + 1 ∧
  (h.status.priv = .task →
    h'.winCount = h.winCount + 1 ∧ h'.nv = (if k = .v then bump16 h.nv else h.nv) ∧
    h'.nm = (if k = .m then bump16 h.nm else h.nm) ∧ h'.nf = (if k = .f then bump16 h.nf else h.nf)) ∧
  (h.status.priv ≠ .task → h'.winCount = h.winCount ∧ h'.nv = h.nv ∧ h'.nm = h.nm ∧ h'.nf = h.nf)

/-- `t` differs from `s` at most in the pc, the general registers, LDS of the current level, the arriving and departing
words, and the counts of retired instructions: every other register, every flag, every special register and all of
memory is as it was. -/
def SameRest (s t : State) : Prop :=
  { t with
    cores := s.cores
    hart := { t.hart.setLds s.hart.lds with
      pc := s.hart.pc, g := s.hart.g, words := s.hart.words, wordsHere := s.hart.wordsHere, open' := s.hart.open'
      instret := s.hart.instret, winCount := s.hart.winCount, nv := s.hart.nv, nm := s.hart.nm, nf := s.hart.nf } } = s

/-- `t` is `s` after an instruction that read these sources, gave `v` to the destination field `dst` and left the pc at
`pc'`: the register named takes `v` and no other register changes, g0 keeps reading as zero (R92), LDS follows the
destination (R96), each mq source has left the arrival queue (R93), an mq destination has pushed `v` (R94). An
instruction without a destination is one that writes g0. -/
def Retired (s t : State) (srcs : List GReg) (dst : GReg) (v pc' : Word) (k : Mix := .plain) : Prop :=
  t.hart.pc = pc' ∧
  (∀ r, r ≠ 31 → t.hart.readG r = if r = dst ∧ r ≠ 0 then v else s.hart.readG r) ∧
  t.hart.lds = (if dst = 0 ∨ dst = 31 then s.hart.lds else dst) ∧
  t.hart.words = s.hart.words.drop (mqCount srcs) ∧
  (if dst = 31 then t.hart.open' = (s.push v).hart.open' ∧ t.cores = (s.push v).cores
   else t.hart.open' = s.hart.open' ∧ t.cores = s.cores) ∧
  Counted s.hart t.hart k ∧
  SameRest s t

/-- The instruction completes, with this value for its destination and the pc moved past its `len` bytes. -/
def Gives (s : State) (i : Instr) (srcs : List GReg) (dst : GReg) (v : Word) (len : Word) (k : Mix := .plain) : Prop :=
  ∃ t, exec i s = .next t ∧ Retired s t srcs dst v (s.hart.pc + len) k

/-- The instruction completes, and what it leaves is `T`, which is `s` with the instruction's effect outside the registers
that `Retired` speaks of, and then the retirement with this value for its destination. -/
def GivesFrom (s T : State) (i : Instr) (srcs : List GReg) (dst : GReg) (v : Word) (len : Word) : Prop :=
  ∃ t, exec i s = .next t ∧ Retired T t srcs dst v (s.hart.pc + len)

/-- The instruction completes and leaves the pc at `pc'`. -/
def Jumps (s : State) (i : Instr) (srcs : List GReg) (dst : GReg) (v pc' : Word) : Prop :=
  ∃ t, exec i s = .next t ∧ Retired s t srcs dst v pc'

/-- A conditional branch: the pc moves by twice the displacement when the relation holds, and past the instruction
otherwise (R111). -/
def Branches (s : State) (i : Instr) (a b : GReg) (len disp : Word) (taken : Prop) [Decidable taken] : Prop :=
  Jumps s i [b, a] 0 0 (if taken then s.hart.pc + 2 * disp else s.hart.pc + len)

/-! ### How a vector or matrix instruction enters its queue -/

/-- A vector instruction on a hart that may execute its class and whose operands and queue have room (R30, R139, R93,
R264) is dispatched: a member that has captured VN, VFORM, the mask, SY.FRM and the level, with the work `w`, joins or
opens a convoy; LDV and LDS name its destination (R96, R265); the pc moves past it; `f` is what it does besides. No
general register, no vector register, no mask and no byte of memory changes, and it is not yet
counted as retired. A joining member with a structural conflict (R262) takes cause 0x01 instead. -/
def Dispatches (s : State) (i : Instr) (d : Disp) (w : VWork) (f : State → State := id) : Prop :=
  s.carriesHere (d.classOn s.cclass) = true →
    let srcs := d.srcs ++ d.droves.flatMap droveReg
    ((d.joins = true ∧ (s.member' d w).conflict s.hart.vec.last = true) → exec i s = .next (s.trap 0x01 d.enc)) ∧
    (¬ (d.joins = true ∧ (s.member' d w).conflict s.hart.vec.last = true) → Ready s srcs d.dst → s.hart.vecFull = false →
      ∃ t m, exec i s = .next (f t) ∧
        m.work = w ∧ m.enc = d.enc ∧ m.vn = s.hart.vec.vn ∧ m.form = s.hart.vec.form ∧ m.mask = d.mask ∧
        m.frm = s.hart.frm ∧ m.level = s.hart.status.priv ∧
        t.hart.vec = { s.hart.vec.enqueue m d.joins with ldv := d.ldv.getD s.hart.vec.ldv } ∧
        t.hart.pc = s.hart.pc + BitVec.ofNat 64 d.len ∧ t.hart.g = s.hart.g ∧
        t.hart.lds = (if d.dst = 0 ∨ d.dst = 31 then s.hart.lds else d.dst) ∧
        t.hart.words = s.hart.words.drop (mqCount d.srcs) ∧ t.hart.instret = s.hart.instret ∧
        t.hart.status = s.hart.status ∧ t.hart.mat = s.hart.mat ∧ t.hart.fflags = s.hart.fflags ∧ t.hart.seed = s.hart.seed ∧
        t.mem = s.mem ∧ t.cores = s.cores ∧ t.others = s.others)

/-- A matrix instruction on a compute hart of a core with class M, whose operands and queue have room, is dispatched: it
stands at the end of the matrix queue with its captures, and the pc moves past it (R320, R326). `f` is what it changes of
the vector state, and `after` what it does besides. -/
def DispatchesMat (s : State) (i : Instr) (enc : Word) (srcs : List GReg) (dst : GReg) (mask : MaskSel) (w : MWork)
    (vec : Bool := false) (f : Vec → Vec := id) (after : State → State := id) : Prop :=
  s.carriesHere .M = true → Ready s srcs dst → s.hart.liveMats.length < 16 → (vec = true → s.hart.vecBarrier = false) →
    ∃ t, exec i s = .next (after t) ∧
      t.hart.mat = { s.hart.mat with queue := s.hart.mat.queue ++
        [{ work := w, enc := enc, vn := s.hart.vec.vn, form := s.hart.vec.form, mask := mask, frm := s.hart.frm
           level := s.hart.status.priv, held := false, staged := none, older := s.hart.vec.queue.length }] } ∧
      t.hart.vec = f s.hart.vec ∧ t.hart.pc = s.hart.pc + 4 ∧ t.hart.g = s.hart.g ∧
      t.hart.lds = (if dst = 0 ∨ dst = 31 then s.hart.lds else dst) ∧
      t.hart.words = s.hart.words.drop (mqCount srcs) ∧ t.hart.instret = s.hart.instret ∧
      t.hart.status = s.hart.status ∧ t.mem = s.mem ∧ t.crofts = s.crofts ∧ t.cores = s.cores ∧ t.others = s.others

/-! ### What the members of a convoy leave -/

/-- A convoy of one member that may start in the unit's turn, with none of its elements yet run, and its checks give the
operation tag `tag` (R263, R414). -/
def Starts (s : State) (c : Convoy) (m : VMember) (tag : Tag) : Prop :=
  (∃ q, s.hart.vec.queue = c :: q) ∧ s.unitTurn = true ∧ (c.fenced = false ∨ s.storesPending .system = false) ∧
  c.members = [m] ∧ c.closed = true ∧ c.held = false ∧ c.restart = false ∧ c.upTo = 0 ∧ m.tag = none ∧ m.drawn = 0 ∧
  m.vn ≤ m.form.vlmax ∧ m.check s.hart.vec.shapes = some tag

/-- The convoy at the head of the queue has run and raised `fl`; SY.SEED has moved by `n` draws, or not at all by draws that
it had passed (R223, R269, R282). -/
def Ends (s t : State) (c : Convoy) (fl : FFlags) (n : Nat) : Prop :=
  (t.hart.vec.queue.head?.bind fun k => k.done) = some fl ∧
  (c.seed = none → c.passed = 0 → t.hart.seed = srAfter n s.hart.seed)

/-- The source element that position `e` reads, through the route of its operand (R259); one outside VN reads as 0. -/
def sourceOf (s : State) (m : VMember) (x : VSrc) (e : Nat) : Nat :=
  let w := sewBits m.form.sew
  let el : VReg → Nat → Nat := fun r j => elemOf (s.hart.vec.group r (grpRegs m.form.grp)) w j
  let j : Nat :=
    match x.route with
    | .none => e
    | .rot k => (((e : Int) + s64 k) % (m.vn : Int)).toNat
    | .bc k => k.toNat
    | .fly b => e ^^^ 2 ^ b
    | .rev b => if b = 0 then m.vn - 1 - e else e ^^^ (2 ^ b - 1)
    | .ix r wrap => if wrap then el r e % m.vn else el r e
  if j < m.vn then el x.reg j else 0

/-- What R256 leaves in the group of `g` registers at `d`, of positions of `w` bits, `per` to an element: below `n` an active
position has its value, an inactive one 0 under MZ and else what it had; above stands 0 under TZ, as in the unused half of
the last byte (R281), and else what it had. No other register and no mask changes. -/
def Filled (s t : State) (m : VMember) (d : VReg) (g w per n : Nat) (act : Nat → Bool) (value : Nat → Nat) : Prop :=
  (∀ i, (i < d.toNat ∨ d.toNat + g ≤ i) → t.hart.vec.reg i = s.hart.vec.reg i) ∧ t.hart.vec.m = s.hart.vec.m ∧
  ∀ p, p < m.form.vlmax * per → (p + 1) * w ≤ 2048 * g →
    let old := elemOf (s.hart.vec.group d g) w p
    elemOf (t.hart.vec.group d g) w p =
      if p < n then (if act (p / per) then value p % 2 ^ w else if m.form.mz then 0 else old)
      else if m.form.tz = true ∨ (w = 4 ∧ n % 2 = 1 ∧ p = n) then 0 else old

/-- Every active element below VN of the group at `d` has the result of `f`, which takes a draw for each where it draws, in
ascending order (R256, R257, R282); with VN = 0 nothing changes. -/
def Elementwise (s t : State) (c : Convoy) (m : VMember) (d : VReg) (g w per : Nat) (act : Nat → Bool) (draws : Bool)
    (f : Nat → Nat → FRes) : Prop :=
  let n := m.vn * per
  let taken : Nat → Nat := fun p => if draws then ((List.range p).filter fun i => act (i / per)).length else 0
  let res : Nat → FRes := fun p => f p (if draws then (srAfter (taken p + 1) (c.seed.getD s.hart.seed)).toNat else 0)
  (m.vn = 0 → t.hart.vec.v = s.hart.vec.v ∧ t.hart.vec.m = s.hart.vec.m) ∧
  (m.vn ≠ 0 → Filled s t m d g w per n act fun p => (res p).code) ∧
  Ends s t c ((List.range n).foldl (fun fl p => if act (p / per) then fl ||| (res p).flags else fl) 0) (taken n)

/-- The mask register `k` has the bit that `f` gives at every active position below VN, 0 or what it had at an inactive one
under MZ, and 0 or what it had from VN to VLMAX − 1 under TZ (R256, R311); nothing else of the vector registers changes. -/
def Masked (s t : State) (m : VMember) (k : MReg) (act f : Nat → Bool) : Prop :=
  t.hart.vec.v = s.hart.vec.v ∧ (∀ i, i ≠ k.toNat → t.hart.vec.mask i = s.hart.vec.mask i) ∧
  ∀ e, (t.hart.vec.mask k.toNat).testBit e =
    if e < m.vn then (if act e then f e else !m.form.mz && (s.hart.vec.mask k.toNat).testBit e)
    else if e < m.form.vlmax ∧ m.form.tz = true then false else (s.hart.vec.mask k.toNat).testBit e

/-- An ordered reduction of some values: the first is the starting value, and each later one combines with it (R302, R304). -/
def inOrder (step : Tally → Nat → Nat → Nat × Tally) (t : Tally) : List Nat → Option Nat × Tally
  | [] => (none, t)
  | x :: xs => let r := xs.foldl (fun a y => step a.2 a.1 y) (x, t); (some r.1, r.2)

/-- The address of element `e` of a vector access (R290, R294, R298); none outside a sweep. -/
def elementAt (s : State) (m : VMember) (a : VAt) (e : Nat) : Option Word :=
  let w := sewBits m.form.sew
  match a with
  | .unit base => some (base + BitVec.ofNat 64 (e * (w / 8)))
  | .strided base st => some (base + BitVec.ofNat 64 e * st)
  | .indexed base r => some (base + BitVec.ofNat 64 (elemOf (s.hart.vec.group r (grpRegs m.form.grp)) w e))
  | .stream _ base st cur => some (base + BitVec.ofNat 64 ((cur.toNat + e) % 2 ^ 32) * st.signExtend 64)
  | .sweep base d0 d1 d2 =>
    let l0 := max d0.len.toNat 1
    let l1 := max d1.len.toNat 1
    let l2 := max d2.len.toNat 1
    if l0 * l1 * l2 ≤ e then none
    else
      some (base + BitVec.ofNat 64 (e % l0) * d0.stride + BitVec.ofNat 64 (e / l0 % l1) * d1.stride +
        BitVec.ofNat 64 (e / (l0 * l1)) * d2.stride)

/-! ### Rounded results -/

/-- The value of a finite code, in units of 2^-1074; every value of every format is a whole number of them (R216, R217). -/
def unitsOf (k : Fmt) (c : Nat) : Option Int :=
  match fpValue k c with
  | .fin x => some ((if x.neg then -1 else 1) * (x.m * 2 ^ (x.e + 1074).toNat : Nat))
  | _ => none

/-- `r` is the exact value N / D, rounded (R220, R222 to R224): among the finite values of the format it is the nearest for
RNE (of two as near, the even code) and RNA (the greater magnitude), the greatest of no greater magnitude for RTZ, the
least not below for RUP, the greatest not above for RDN, and for SR one with no value between it and the exact one; it is
the exact one where that is a value. NX says whether it differs. A result that is no finite value is not spoken of. -/
def Rounds (k : Fmt) (m : Mode) (r : FRes) (N D : Int) : Prop :=
  ∀ v, unitsOf k r.code = some v →
    let off : Int → Nat := fun x => (x * D - N).natAbs
    (r.flags.getLsbD 0 = true ↔ v * D ≠ N) ∧
    ∀ q x, unitsOf k q = some x →
      (x * D = N → v = x) ∧
      (m = .rne ∨ m = .rna → off v ≤ off x) ∧
      (m = .rne → x ≠ v → off x = off v → r.code % 2 = 0) ∧
      (m = .rna → off x = off v → x.natAbs ≤ v.natAbs) ∧
      (m = .rtz → 0 ≤ v * N ∧ (v * D).natAbs ≤ N.natAbs ∧ (0 ≤ x * N → (x * D).natAbs ≤ N.natAbs → x.natAbs ≤ v.natAbs)) ∧
      (m = .rup → N ≤ v * D ∧ (N ≤ x * D → v ≤ x)) ∧
      (m = .rdn → v * D ≤ N ∧ (x * D ≤ N → x ≤ v)) ∧
      (m = .sr → ¬ (v < x ∧ x * D < N) ∧ ¬ (x < v ∧ N < x * D))

/-! ### Engines -/

/-- An engine hart is free, `r` is the request that it takes next (from its kick queue when `kick`), `bs` is the record
of `size` bytes that it reads, and neither a parish that does not run nor a link that is not ACTIVE holds the report up
(R200, R416, R417, R471). -/
def Serves (s : State) (e : EngineId) (size : Nat) (n : List Byte → Notice) (r : EngReq) (kick : Bool) (bs : List Byte) : Prop :=
  s.engineFree e = true ∧ s.nextReq e = some (r, kick) ∧ s.readRecord (r.who e) r size = .ok bs ∧ s.noticeHeld (n bs) = none ∧
    ∀ d, s.noticeDie (n bs) = some d → d ∈ s.lostDies ∨ s.reaches e.die d = true

end Sys2Proof.Say
end

