-- ==== Sys2Proof/Certificates/Slice0/Obligations.lean ====
section
/-! DEFINITION. The statements for the provers. -/

open Sys2Proof Sys2Proof.Machine Sys2Proof.Say

/-! ### Integers -/

/-- R102, R103, R104, R99: what the register instructions with two sources compute. -/
def Obligations.IntegerTwoSources : Prop :=
  ∀ (s : State) (a b c : GReg), Ready s [b, c] a →
    let x := s.hart.src [] b
    let y := s.hart.src [b] c
    let n := y.toNat % 64
    let pos := n
    let wid := y.toNat / 256 % 64 + 1
    Gives s (.add a b c) [b, c] a (x + y) 4 ∧
    Gives s (.sub a b c) [b, c] a (x - y) 4 ∧
    Gives s (.and a b c) [b, c] a (x &&& y) 4 ∧
    Gives s (.or a b c) [b, c] a (x ||| y) 4 ∧
    Gives s (.xor a b c) [b, c] a (x ^^^ y) 4 ∧
    Gives s (.andn a b c) [b, c] a (x &&& ~~~y) 4 ∧
    Gives s (.orn a b c) [b, c] a (x ||| ~~~y) 4 ∧
    Gives s (.xnor a b c) [b, c] a (~~~(x ^^^ y)) 4 ∧
    Gives s (.shl a b c) [b, c] a (x <<< n) 4 ∧
    Gives s (.shr a b c) [b, c] a (x >>> n) 4 ∧
    Gives s (.sra a b c) [b, c] a (x.sshiftRight n) 4 ∧
    Gives s (.rol a b c) [b, c] a (x.rotateLeft n) 4 ∧
    Gives s (.ror a b c) [b, c] a (x.rotateRight n) 4 ∧
    Gives s (.slt a b c) [b, c] a (if x.toInt < y.toInt then 1 else 0) 4 ∧
    Gives s (.sltu a b c) [b, c] a (if x.toNat < y.toNat then 1 else 0) 4 ∧
    Gives s (.min a b c) [b, c] a (if x.toInt ≤ y.toInt then x else y) 4 ∧
    Gives s (.max a b c) [b, c] a (if y.toInt ≤ x.toInt then x else y) 4 ∧
    Gives s (.minu a b c) [b, c] a (if x.toNat ≤ y.toNat then x else y) 4 ∧
    Gives s (.maxu a b c) [b, c] a (if y.toNat ≤ x.toNat then x else y) 4 ∧
    Gives s (.mul a b c) [b, c] a (x * y) 4 ∧
    Gives s (.mulh a b c) [b, c] a ((x.signExtend 128 * y.signExtend 128).extractLsb' 64 64) 4 ∧
    Gives s (.mulhu a b c) [b, c] a ((x.zeroExtend 128 * y.zeroExtend 128).extractLsb' 64 64) 4 ∧
    Gives s (.div a b c) [b, c] a
      (if y = 0 then (if 0 ≤ x.toInt then 0x7FFFFFFFFFFFFFFF else 0x8000000000000000) else x.sdiv y) 4 ∧
    Gives s (.divu a b c) [b, c] a (if y = 0 then 0xFFFFFFFFFFFFFFFF else x / y) 4 ∧
    Gives s (.rem a b c) [b, c] a (if y = 0 then x else x.srem y) 4 ∧
    Gives s (.remu a b c) [b, c] a (x % y) 4 ∧
    Gives s (.addsc1 a b c) [b, c] a (2 * x + y) 4 ∧
    Gives s (.addsc2 a b c) [b, c] a (4 * x + y) 4 ∧
    Gives s (.addsc3 a b c) [b, c] a (8 * x + y) 4 ∧
    Gives s (.bfx a b c) [b, c] a
      (let f := x.toNat / 2 ^ pos % 2 ^ wid
       if y.getLsbD 16 ∧ 2 ^ (wid - 1) ≤ f then BitVec.ofInt 64 ((f : Int) - 2 ^ wid) else BitVec.ofNat 64 f) 4

/-- R102, R63, R105, R106: what the register instructions with one source, and those with an immediate, compute. -/
def Obligations.IntegerOneSource : Prop :=
  ∀ (s : State) (a b : GReg), Ready s [b] a →
    let x := s.hart.src [] b
    (∃ n : Nat, Gives s (.clz a b) [b] a (BitVec.ofNat 64 n) 4 ∧
      n ≤ 64 ∧ x.toNat < 2 ^ (64 - n) ∧ (n < 64 → 2 ^ (63 - n) ≤ x.toNat)) ∧
    (∃ n : Nat, Gives s (.ctz a b) [b] a (BitVec.ofNat 64 n) 4 ∧
      n ≤ 64 ∧ (∀ k, k < n → x.getLsbD k = false) ∧ (n < 64 → x.getLsbD n = true)) ∧
    Gives s (.popc a b) [b] a (BitVec.ofNat 64 ((List.range 64).filter fun k => x.getLsbD k).length) 4 ∧
    (∃ w, Gives s (.bswap a b) [b] a w 4 ∧ ∀ k, k < 8 → w.extractLsb' (8 * k) 8 = x.extractLsb' (56 - 8 * k) 8) ∧
    Gives s (.sext a b .b) [b] a ((x.setWidth 8).signExtend 64) 4 ∧
    Gives s (.sext a b .h) [b] a ((x.setWidth 16).signExtend 64) 4 ∧
    Gives s (.sext a b .w) [b] a ((x.setWidth 32).signExtend 64) 4 ∧
    Gives s (.zext a b .b) [b] a (x &&& 0xFF) 4 ∧
    Gives s (.zext a b .h) [b] a (x &&& 0xFFFF) 4 ∧
    Gives s (.zext a b .w) [b] a (x &&& 0xFFFFFFFF) 4 ∧
    (∀ i : BitVec 14,
      Gives s (.addi a b i) [b] a (x + i.signExtend 64) 4 ∧
      Gives s (.andi a b i) [b] a (x &&& i.signExtend 64) 4 ∧
      Gives s (.ori a b i) [b] a (x ||| i.signExtend 64) 4 ∧
      Gives s (.xori a b i) [b] a (x ^^^ i.signExtend 64) 4 ∧
      Gives s (.slti a b i) [b] a (if x.toInt < i.toInt then 1 else 0) 4 ∧
      Gives s (.sltiu a b i) [b] a (if x.toNat < (i.signExtend 64).toNat then 1 else 0) 4) ∧
    (∀ i : BitVec 32,
      Gives s (.addiL a b i) [b] a (x + i.signExtend 64) 8 ∧
      Gives s (.andiL a b i) [b] a (x &&& i.signExtend 64) 8 ∧
      Gives s (.oriL a b i) [b] a (x ||| i.signExtend 64) 8 ∧
      Gives s (.xoriL a b i) [b] a (x ^^^ i.signExtend 64) 8 ∧
      Gives s (.sltiL a b i) [b] a (if x.toInt < i.toInt then 1 else 0) 8 ∧
      Gives s (.sltiuL a b i) [b] a (if x.toNat < (i.signExtend 64).toNat then 1 else 0) 8) ∧
    (∀ sh : BitVec 6,
      Gives s (.shli a b sh) [b] a (x <<< sh.toNat) 4 ∧
      Gives s (.shri a b sh) [b] a (x >>> sh.toNat) 4 ∧
      Gives s (.srai a b sh) [b] a (x.sshiftRight sh.toNat) 4 ∧
      Gives s (.rori a b sh) [b] a (x.rotateRight sh.toNat) 4)

/-- R102, R104: BFI and SELECT, which read gA as their third source before they write it. R107: the instructions that
read no register; the pc is that of the instruction itself. R108, R96: a compact form reads the register that LDS of the
current level names, and its destination becomes LDS. -/
def Obligations.IntegerThreeSourcesConstantsAndCompactForms : Prop :=
  (∀ (s : State) (a b c : GReg), Ready s [b, c, a] a →
     let x := s.hart.src [] b
     let y := s.hart.src [b] c
     let d := s.hart.src [b, c] a
     let pos := y.toNat % 64
     let wid := y.toNat / 256 % 64 + 1
     Gives s (.select a b c) [b, c, a] a (if d = 0 then y else x) 4 ∧
     (∃ w, Gives s (.bfi a b c) [b, c, a] a w 4 ∧
       ∀ k, k < 64 → w.getLsbD k = if pos ≤ k ∧ k < pos + wid then x.getLsbD (k - pos) else d.getLsbD k)) ∧
  (∀ (s : State) (a : GReg), Ready s [] a →
     (∀ i : BitVec 19,
       Gives s (.ldhi a i) [] a (((i.setWidth 32) <<< 13).signExtend 64) 4 ∧
       Gives s (.addpc a i) [] a (s.hart.pc + ((i.setWidth 32) <<< 13).signExtend 64) 4) ∧
     (∀ i : BitVec 32, Gives s (.laddpc a i) [] a (s.hart.pc + i.signExtend 64) 8)) ∧
  (∀ (s : State) (r g : GReg),
     let l := s.hart.lds
     (Ready s [g] r → Gives s (.cmv r g) [g] r (s.hart.src [] g) 2) ∧
     (Ready s [l] r →
       let x := s.hart.src [] l
       (∀ i : BitVec 5,
         Gives s (.caddi r i) [l] r (x + i.signExtend 64) 2 ∧
         Gives s (.cshli r i) [l] r (x <<< i.toNat) 2 ∧
         Gives s (.cshri r i) [l] r (x >>> i.toNat) 2 ∧
         Gives s (.csrai r i) [l] r (x.sshiftRight i.toNat) 2)) ∧
     (Ready s [l, g] r →
       let x := s.hart.src [] l
       let y := s.hart.src [l] g
       Gives s (.cadd r g) [l, g] r (x + y) 2 ∧
       Gives s (.csub r g) [l, g] r (x - y) 2 ∧
       Gives s (.cand r g) [l, g] r (x &&& y) 2 ∧
       Gives s (.cor r g) [l, g] r (x ||| y) 2 ∧
       Gives s (.cxor r g) [l, g] r (x ^^^ y) 2) ∧
     Gives s .cnop [] 0 0 2)

/-- R93, R94, R403: words of mq. A source that names mq takes the oldest arriving words in the order B, C, A, and an
instruction with more mq sources than words that have arrived changes no register and pops nothing; a push fills the next
position of the open message, and the message departs, whole, from the hart's core when its last position is filled. -/
def Obligations.MessageWords : Prop :=
  let waits : State → Instr → Prop := fun s i =>
    ∃ t, exec i s = .next t ∧ t.hart.wait = .parked ∧ t.hart.pc = s.hart.pc ∧ t.hart.g = s.hart.g ∧
      t.hart.words = s.hart.words ∧ t.hart.open' = s.hart.open' ∧ t.hart.instret = s.hart.instret ∧ t.cores = s.cores
  (∀ (s : State) (a : GReg) (w0 w1 : Word) (rest : List Word), s.hart.words = w0 :: w1 :: rest →
    (∀ r, s.hart.owed r = false) → a ≠ 31 →
    ∃ t, exec (.sub a 31 31) s = .next t ∧ t.hart.words = rest ∧ (a ≠ 0 → t.hart.readG a = w0 - w1)) ∧
  -- three mq sources, the last of which is the destination too
  (∀ (s : State) (w0 w1 w2 : Word) (rest : List Word) (m : OpenMsg), s.hart.words = w0 :: w1 :: w2 :: rest →
    (∀ r, s.hart.owed r = false) → s.hart.open' = some m → m.taken < m.words.length → s.departUsed s.here.core < 64 →
    let gives : Instr → Word → Prop := fun i v =>
      ∃ t, exec i s = .next t ∧ t.hart.words = rest ∧ t.hart.open' = (s.push v).hart.open' ∧ t.cores = (s.push v).cores
    let pos := w1.toNat % 64
    let wid := w1.toNat / 256 % 64 + 1
    gives (.select 31 31 31) (if w2 = 0 then w1 else w0) ∧
    (∃ v, gives (.bfi 31 31 31) v ∧
      ∀ k, k < 64 → v.getLsbD k = if pos ≤ k ∧ k < pos + wid then w0.getLsbD (k - pos) else w2.getLsbD k)) ∧
  (∀ (s : State) (a b c : GReg), (∀ r, s.hart.owed r = false) →
    (s.hart.words.length < mqCount [b, c] → waits s (.add a b c) ∧ waits s (.sub a b c)) ∧
    (s.hart.words.length < mqCount [b, c, a] → waits s (.select a b c) ∧ waits s (.bfi a b c))) ∧
  (∀ (s : State) (v : Word) (m : OpenMsg), s.hart.open' = some m → m.taken < m.words.length →
    let p := m.taken
    let ws := m.words.set p (some v)
    if (∀ w ∈ ws, w ≠ none) then
      (s.push v).hart.open' = none ∧
      ((s.push v).core s.here.core).depart = (s.core s.here.core).depart ++
        [{ dest := m.dest, hart := m.hart, words := ws.filterMap id, sender := s.hid, slot := none, reeve := false }]
    else
      (s.push v).hart.open' = some { m with words := ws, taken := p + 1 } ∧ (s.push v).cores = s.cores)

/-! ### Control transfer -/

/-- R111: the conditional branches of both lengths and the two compact ones, which compare against g0. R112, R113:
CALL and LCALL leave the address of the next instruction in gA and jump; JUMPR reads gB before it writes its link. -/
def Obligations.BranchesAndJumps : Prop :=
  (∀ (s : State) (a b : GReg), Ready s [b, a] 0 →
     let y := s.hart.src [] b
     let x := s.hart.src [b] a
     (∀ d : BitVec 14,
       let o : Word := d.signExtend 64
       Branches s (.beq a b d) a b 4 o (x = y) ∧
       Branches s (.bne a b d) a b 4 o (x ≠ y) ∧
       Branches s (.blt a b d) a b 4 o (x.toInt < y.toInt) ∧
       Branches s (.bge a b d) a b 4 o (y.toInt ≤ x.toInt) ∧
       Branches s (.bltu a b d) a b 4 o (x.toNat < y.toNat) ∧
       Branches s (.bgeu a b d) a b 4 o (y.toNat ≤ x.toNat)) ∧
     (∀ d : BitVec 32,
       let o : Word := d.signExtend 64
       Branches s (.beqL a b d) a b 8 o (x = y) ∧
       Branches s (.bneL a b d) a b 8 o (x ≠ y) ∧
       Branches s (.bltL a b d) a b 8 o (x.toInt < y.toInt) ∧
       Branches s (.bgeL a b d) a b 8 o (y.toInt ≤ x.toInt) ∧
       Branches s (.bltuL a b d) a b 8 o (x.toNat < y.toNat) ∧
       Branches s (.bgeuL a b d) a b 8 o (y.toNat ≤ x.toNat)) ∧
     (a = s.hart.lds → b = 0 → ∀ d : BitVec 10,
       Branches s (.cbnz d) a b 2 (d.signExtend 64) (x ≠ 0) ∧
       Branches s (.cbez d) a b 2 (d.signExtend 64) (x = 0))) ∧
  (∀ (s : State) (a : GReg),
     (Ready s [] a →
       (∀ d : BitVec 19, Jumps s (.call a d) [] a (s.hart.pc + 4) (s.hart.pc + 2 * d.signExtend 64)) ∧
       (∀ d : BitVec 32, Jumps s (.lcall a d) [] a (s.hart.pc + 8) (s.hart.pc + 2 * d.signExtend 64))) ∧
     (∀ (b : GReg) (i : BitVec 14), Ready s [b] a →
       Jumps s (.jumpr a b i) [b] a (s.hart.pc + 4) (s.hart.src [] b + i.signExtend 64)))


/-! ### Scalar memory -/

/-- R150 to R153, R144: a load whose checks pass (R147) and whose lines are not busy gives gA the little-endian number
that the access reads, sign- or zero-extended as its size says; the pc moves past it. The address is gB plus the signed
offset, gB plus the shifted gC for LOADX, gB itself for LOAD.ACQ, and `^` plus eight times the offset for CLD. LOAD.ACQ
waits besides for a store to its line that is not yet performed at its scope (R182). -/
def Obligations.LoadsComplete : Prop :=
  let value : LoadSize → Nat → Word := fun sz m =>
    match sz with
    | .b => (BitVec.ofNat 8 m).signExtend 64
    | .h => (BitVec.ofNat 16 m).signExtend 64
    | .w => (BitVec.ofNat 32 m).signExtend 64
    | .d => BitVec.ofNat 64 m
    | .bu => BitVec.ofNat 64 m
    | .hu => BitVec.ofNat 64 m
    | .wu => BitVec.ofNat 64 m
  let width : LoadSize → Nat := fun sz =>
    match sz with
    | .b => 1
    | .h => 2
    | .w => 4
    | .d => 8
    | .bu => 1
    | .hu => 2
    | .wu => 4
  let done : State → Instr → How → Word → LoadSize → List GReg → GReg → Word → Prop := fun s i h va sz srcs a len =>
    ∀ bs s2, s.readAt h va (width sz) = .done bs s2 →
      ∃ t, exec i s = .next t ∧ Retired s2 t srcs a (value sz (numOf bs)) (s2.hart.pc + len)
  ∀ (s : State) (a b : GReg) (sz : LoadSize),
    (Ready s [b] a →
      (∀ off : BitVec 11, done s (.load a b off sz) .load (s.hart.src [] b + off.signExtend 64) sz [b] a 4) ∧
      (∀ off : BitVec 32, done s (.loadL a b off sz) .load (s.hart.src [] b + off.signExtend 64) sz [b] a 8) ∧
      (∀ scope,
        let h : How := { acc := 1, need := .read, style := .sync }
        (∀ ps s1, s.check s.who h (s.hart.src [] b) (width sz) = .done ps s1 → s1.readPending scope ps = false) →
        done s (.loadAcq a b scope sz) h (s.hart.src [] b) sz [b] a 4)) ∧
    (∀ (c : GReg) (sc : BitVec 2), Ready s [b, c] a →
      done s (.loadx a b c sc sz) .load (s.hart.src [] b + s.hart.src [b] c <<< sc.toNat) sz [b, c] a 4) ∧
    (∀ off : BitVec 5, Ready s [s.hart.lds] a →
      done s (.cld a off) .load (s.hart.src [] s.hart.lds + 8 * off.setWidth 64) .d [s.hart.lds] a 2)

/-- R150 to R153: a store whose checks pass and whose lines are not busy writes the low bytes of its data register, and
moves the pc past itself; it writes no register. STORE.REL waits besides until the older stores are performed at its
scope (R182). -/
def Obligations.StoresComplete : Prop :=
  let width : StoreSize → Nat := fun sz => match sz with | .b => 1 | .h => 2 | .w => 4 | .d => 8
  let done : State → Instr → How → Word → StoreSize → Word → List GReg → Word → Prop := fun s i h va sz data srcs len =>
    ∀ s2, s.writeAt h va (leBytes (width sz) data.toNat) = .done () s2 →
      ∃ t, exec i s = .next t ∧ Retired s2 t srcs 0 0 (s2.hart.pc + len)
  ∀ (s : State) (a b : GReg) (sz : StoreSize),
    (Ready s [b, a] 0 →
      let base := s.hart.src [] b
      let data := s.hart.src [b] a
      (∀ off : BitVec 11, done s (.store a b off sz) .store (base + off.signExtend 64) sz data [b, a] 4) ∧
      (∀ off : BitVec 32, done s (.storeL a b off sz) .store (base + off.signExtend 64) sz data [b, a] 8) ∧
      (∀ scope, s.storesPending scope = false →
        done s (.storeRel a b scope sz) { acc := 2, need := .write, style := .sync } base sz data [b, a] 4)) ∧
    (∀ (c : GReg) (sc : BitVec 2), Ready s [b, c, a] 0 →
      done s (.storex a b c sc sz) .store (s.hart.src [] b + s.hart.src [b] c <<< sc.toNat) sz (s.hart.src [b, c] a)
        [b, c, a] 4) ∧
    (∀ off : BitVec 5, Ready s [s.hart.lds, a] 0 →
      done s (.cst a off) .store (s.hart.src [] s.hart.lds + 8 * off.setWidth 64) .d (s.hart.src [s.hart.lds] a)
        [s.hart.lds, a] 2)

/-- R126, R147, R150 to R153, R157, R166, R171: a load, store, atomic, WAITM or maintenance operation of any form whose
check fails traps, having changed no register and popped no word: the trap's cause and value are those of the check, with
ACC 1 for a load, 2 for a store and for INVAL, and 3 for an atomic and WAITM. (At TASK a failed translation goes to a
reeve where the parish has one: ReeveFaults.) -/
def Obligations.FailedAccessTraps : Prop :=
  ∀ (s : State) (a b c : GReg) (e : Bad),
    (e.cause ≠ 0x05 ∨ s.hart.status.priv ≠ .task ∨ e.addr.extractLsb' 56 8 ≠ 0 ∨ (s.pdata s.pp).reevemap = 0) →
    let fails : Instr → List GReg → GReg → How → Word → Nat → Prop := fun i srcs dst h va n =>
      Ready s srcs dst → s.check s.who h va n = .bad e → exec i s = .next (s.trap e.cause e.addr h.acc)
    let base := s.hart.src [] b
    let scaled (sh : BitVec 2) : Word := base + s.hart.src [b] c <<< sh.toNat
    let l := s.hart.lds
    let maint (acc : BitVec 2) (need : Need) : How := { acc := acc, need := need, style := .maint }
    (∀ sz,
      (∀ off : BitVec 11, fails (.load a b off sz) [b] a .load (base + off.signExtend 64) (loadBytes sz)) ∧
      (∀ off : BitVec 32, fails (.loadL a b off sz) [b] a .load (base + off.signExtend 64) (loadBytes sz)) ∧
      (∀ sh, fails (.loadx a b c sh sz) [b, c] a .load (scaled sh) (loadBytes sz)) ∧
      (∀ sc, fails (.loadAcq a b sc sz) [b] a { acc := 1, need := .read, style := .sync } base (loadBytes sz))) ∧
    (∀ sz,
      (∀ off : BitVec 11, fails (.store a b off sz) [b, a] 0 .store (base + off.signExtend 64) (storeBytes sz)) ∧
      (∀ off : BitVec 32, fails (.storeL a b off sz) [b, a] 0 .store (base + off.signExtend 64) (storeBytes sz)) ∧
      (∀ sh, fails (.storex a b c sh sz) [b, c, a] 0 .store (scaled sh) (storeBytes sz)) ∧
      (∀ sc, s.storesPending sc = false →
        fails (.storeRel a b sc sz) [b, a] 0 { acc := 2, need := .write, style := .sync } base (storeBytes sz))) ∧
    (∀ off : BitVec 5,
      fails (.cld a off) [l] a .load (s.hart.src [] l + 8 * off.setWidth 64) 8 ∧
      fails (.cst a off) [l, a] 0 .store (s.hart.src [] l + 8 * off.setWidth 64) 8) ∧
    (∀ o : AmoOps,
      let h : How := { acc := 3, need := .rmw, style := .atomic }
      let va := s.hart.src [] o.b + o.off.signExtend 64
      let n := if o.dbl then 8 else 4
      (∀ i, i ∈ [Instr.amoadd o, .amoand o, .amoor o, .amoxor o, .amomin o, .amomax o, .amominu o, .amomaxu o, .amoswap o,
          .amofadd o] → fails i [o.b, o.c] o.a h va n) ∧
      fails (.cas o) [o.b, o.c, o.a] o.a h va n) ∧
    (∀ dbl sc, fails (.waitm a b c dbl sc) [b, c] a { acc := 3, need := .read, style := .watch } base (if dbl then 8 else 4)) ∧
    (∀ sc, fails (.clean b sc) [b] 0 (maint 1 .read) base 1 ∧ fails (.flush b sc) [b] 0 (maint 1 .read) base 1 ∧
      (s.hart.status.priv ≠ .task → fails (.inval b sc) [b] 0 (maint 2 .write) base 1))

/-- R212, R213: a hart at TASK whose translation fails, in a parish that has a reeve, asks it. A load or a store that
fails so sends the reeve of its core four words (the handler's address, the address, the access and the hart's own
number), and sleeps, with its pc, its registers and its arrived words as they were. The message starts the handler at
SUPER in the context that the reeve core keeps for it, while that is free. A reply of two words, of which the first is 0,
wakes the hart: 0 makes the instruction issue again, 2 takes cause 0x06 and any other value 0x05, with the address and the
access of the fault. -/
def Obligations.ReeveFaults : Prop :=
  (∀ (s : State) (a b : GReg) (e : Bad), e.cause = 0x05 → e.addr.extractLsb' 56 8 = 0 → s.hart.status.priv = .task →
     (s.pdata s.pp).reevemap ≠ 0 →
     let map := (List.range 32).filter fun i => (s.pdata s.pp).reevemap.getLsbD i
     let reeve : CoreId := { s.here.core with core := map.getD (s.here.core.core % map.length) 0 }
     let asks : Instr → How → Prop := fun i h =>
       ∃ t m, exec i s = .next t ∧ (t.core s.here.core).depart = (s.core s.here.core).depart ++ [m] ∧
         m.dest = reeve ∧ m.hart = none ∧ m.reeve = true ∧
         m.words.length = 4 ∧ m.words.getD 0 0 = (s.pdata s.pp).reevevec ∧ m.words.getD 1 0 = e.addr ∧
         m.words.getD 3 0 = s.hid ∧
         (let w := m.words.getD 2 0
          w.extractLsb' 32 32 = s.hart.taskId ∧ w.extractLsb' 16 16 = s.hart.asid ∧ w.extractLsb' 8 2 = h.acc ∧
          w.getLsbD 11 = false ∧ w.getLsbD 12 = e.perm ∧ w.extractLsb' 0 8 = 0) ∧
         t.hart.wait = .asleep { addr := e.addr, acc := h.acc, vec := false, mat := false } ∧
         t.hart.pc = s.hart.pc ∧ t.hart.g = s.hart.g ∧ t.hart.words = s.hart.words ∧ t.hart.status = s.hart.status ∧
         t.mem = s.mem
     (∀ (off : BitVec 11) sz, Ready s [b] a →
       s.check s.who .load (s.hart.src [] b + off.signExtend 64) (loadBytes sz) = .bad e → asks (.load a b off sz) .load) ∧
     (∀ (off : BitVec 11) sz, Ready s [b, a] 0 →
       s.check s.who .store (s.hart.src [] b + off.signExtend 64) (storeBytes sz) = .bad e → asks (.store a b off sz) .store)) ∧
  (∀ (s : State) (c : CoreId) (m : Msg) (rest : List Msg), (s.core c).arrival = m :: rest → m.reeve = true →
     s.runs (s.ppOf c) = true → s.recovery = false → c.die ∉ s.lostDies → s.tableRoom (s.ppOf c) 1 = true →
     let kept : Place := { core := c, hart := Config.hartsOf (Config.classOf s.member c) - 1 }
     let x := (s.pdata (s.ppOf c)).reeveCtx
     s.isFree kept = true →
     ∃ t, exec (.messageDispatch c) s = .next t ∧ (t.core c).arrival = rest ∧ t.mem = s.mem ∧
       (t.hartAt kept).pc = m.words.headD 0 ∧ (t.hartAt kept).status = Status.start .super ∧
       (∀ r, r ≠ 31 → (t.hartAt kept).readG r = if r = 4 then 3 else if r = 5 then m.sender else 0) ∧
       (t.hartAt kept).words = m.words.drop 1 ∧ (t.hartAt kept).asid = x.asid ∧ (t.hartAt kept).ptroot = x.ptroot ∧
       (t.hartAt kept).ccid = x.ccid ∧ (t.hartAt kept).frm = 0 ∧ (t.hartAt kept).prio = 3 ∧
       (t.hartAt kept).wait = .running) ∧
  (∀ (s : State) (m : Msg) (rest : List Msg) (c : CoreId) (k : Nat) (f : Asleep),
     let p : Place := { core := m.dest, hart := k }
     let h := s.hartAt p
     (s.core c).depart.filter Msg.passes = m :: rest → m.hart = some k → h.wait = .asleep f →
     m.dest.die ∉ s.lostDies → s.runs (s.ppOf m.dest) = true → s.sendWaits c m = false → s.reaches c.die m.dest.die = true →
     let v := m.words.getD 1 0
     let code : Nat := if v = 2 then 6 else 5
     ∃ t, exec (.messageDeparture c) s = .next t ∧ (t.core c).depart = dropFirst (fun y => y == m) (s.core c).depart ∧
       (t.hartAt p).g = h.g ∧ (t.hartAt p).words = h.words ∧ t.mem = s.mem ∧
       (v = 0 → (t.hartAt p).wait = .running ∧ (t.hartAt p).pc = h.pc ∧ (t.hartAt p).status = h.status) ∧
       (v ≠ 0 → h.status.fbusy = false → h.tdeleg.getLsbD code = false →
         (t.hartAt p).bankF = { pc := h.pc, cause := causeWord false false f.vec f.acc (BitVec.ofNat 8 code), val := f.addr } ∧
         (t.hartAt p).status.priv = .firm))

/-- R117, R147: at FIRM an address is physical, and an access to HBM that stays in one page, on a die that is not lost
and clear of poison, passes its checks, sets no bit of a page table and reads one piece of memory. R150: a load stores
nothing. Where the walker has no A bit left to set (R209), every byte of memory, every other hart and every register
that the load does not name are as they were. -/
def Obligations.LoadFrame : Prop :=
  (∀ (s : State) (va : Word) (n : Nat) (h : How), s.hart.status.priv = .firm → 0 < n → n ≤ 65536 →
     va.toNat % 65536 + n ≤ 65536 → va.toNat < 2 ^ 39 → (h.style = .plain ∨ h.style = .fetch) →
     s.lostDies = [] → s.poison = [] →
     s.check s.who h va n =
       .done [{ va := va.toNat, n := n, pa := va.toNat, region := .hbm, kind := .cached, leaf := none }] s) ∧
  (∀ (s s2 : State) (h : How) (va : Word) (n : Nat) (bs : List Byte) (ps : List Piece) (s1 : State),
     s.check s.who h va n = .done ps s1 → h.need = .read →
     (∀ p ∈ ps, ∀ e, p.leaf = some e → e.pte &&& 0x40 = 0x40) → s.readAt h va n = .done bs s2 →
     (∀ x, readByte s2.mem x = readByte s.mem x) ∧ s2.hart = s.hart ∧ s2.others = s.others ∧ s2.moots = s.moots ∧
     ((∀ e ∈ s.coh.l2, e.1.1 = s.pp → e.2.ahead = []) → ∀ p, ps = [p] → (∀ off, p.region ≠ .dev off) →
       ∀ k, k < n → bs.getD k 0 = readByte s.mem (s.cell p.pa + k)))

/-- R7, R150: bytes stored are the bytes read. A store to a part of ordinary memory that no page migration copies leaves
the little-endian bytes of its data at its physical address, and every byte outside the parts it stores to, as the
check gives them, as it was (a store to the range table apart, which may remove an extent, R452). The walker has no A or
D bit left to set (R209). -/
def Obligations.StoreFrame : Prop :=
  ∀ (s s2 : State) (h : How) (va : Word) (bs : List Byte) (ps : List Piece) (s1 : State),
    MemOk s → s.check s.who h va bs.length = .done ps s1 → h.need = .write →
    (∀ p ∈ ps, ∀ e, p.leaf = some e → e.pte &&& 0xC0 = 0xC0) → s.writeAt h va bs = .done () s2 →
    ((∀ p ∈ ps, ∀ off, p.region = .dev off → ¬ (0x40000 ≤ off ∧ off < 0x40800)) →
      ∀ x, (∀ p ∈ ps, x < s.cell p.pa ∨ s.cell p.pa + p.n ≤ x) →
      (∀ m ∈ s.migs, ∀ p ∈ ps, ∀ k, k < p.n → x ≠ s.cell (m.new + (p.pa + k) % 65536)) →
      readByte s2.mem x = readByte s.mem x) ∧
    (∀ p, ps = [p] → (∀ off, p.region ≠ .dev off) → (∀ k, k < bs.length → s.migOf (p.pa + k) = none) →
      ∀ k, k < bs.length → readByte s2.mem (s.cell p.pa + k) = bs.getD k 0) ∧
    s2.hart = s.hart ∧ s2.others = s.others ∧ s2.moots = s.moots

/-- R157, R159: an atomic reads, computes and writes as one action. It gives gA the value read, sign-extended from 32
bits in the .w form (not AMOFADD's, which is zero-extended), and leaves in memory what its operation says; CAS writes only
where the value read is that of gA. (It waits first for the stores that its ordering names, R161, R182.) -/
def Obligations.AtomicsComplete : Prop :=
  ∀ (s : State) (o : AmoOps) (p : Piece) (s1 s2 : State),
    let n := if o.dbl then 8 else 4
    let va := s.hart.src [] o.b + o.off.signExtend 64
    let old := numOf (s1.readPieces [p])
    let src := (s.hart.src [o.b] o.c).toNat % 2 ^ (8 * n)
    let exp := (s.hart.src [o.b, o.c] o.a).toNat % 2 ^ (8 * n)
    let sx : Nat → Int := fun x => if 2 ^ (8 * n - 1) ≤ x then (x : Int) - 2 ^ (8 * n) else x
    let got : Word := if o.dbl then BitVec.ofNat 64 old else (BitVec.ofNat 32 old).signExtend 64
    let done : Instr → List GReg → Option Nat → Word → FFlags → Prop := fun i srcs new v fl =>
      Ready s srcs o.a → s1.atomicWaits o [p] = false → s1.touchAtomic p o.far new.isSome = .ok s2 →
      ∃ t, exec i s = .next t ∧
        let s3 := match new with | some x => s2.putBytes p.pa (leBytes n x) | none => s2
        Retired { s3 with hart := { s3.hart with fflags := s3.hart.fflags ||| fl } } t srcs o.a v (s3.hart.pc + 8)
    s.check s.who { acc := 3, need := .rmw, style := .atomic } va n = .done [p] s1 →
    done (.amoadd o) [o.b, o.c] (some ((old + src) % 2 ^ (8 * n))) got 0 ∧
    done (.amoand o) [o.b, o.c] (some (old &&& src)) got 0 ∧
    done (.amoor o) [o.b, o.c] (some (old ||| src)) got 0 ∧
    done (.amoxor o) [o.b, o.c] (some (old ^^^ src)) got 0 ∧
    done (.amomin o) [o.b, o.c] (some (if sx src < sx old then src else old)) got 0 ∧
    done (.amomax o) [o.b, o.c] (some (if sx old < sx src then src else old)) got 0 ∧
    done (.amominu o) [o.b, o.c] (some (Nat.min old src)) got 0 ∧
    done (.amomaxu o) [o.b, o.c] (some (Nat.max old src)) got 0 ∧
    done (.amoswap o) [o.b, o.c] (some src) got 0 ∧
    (let r := fpAdd (if o.dbl then .fp64 else .fp32) .rne 0 old src
     done (.amofadd o) [o.b, o.c] (some r.code) (BitVec.ofNat 64 old) r.flags) ∧
    done (.cas o) [o.b, o.c, o.a] (if old = exp then some src else none) got 0

/-- R163 to R165, R169: fences and PREFETCH complete. FENCE.acq, FENCE.rel, FENCE.full and FENCE.SV wait, with nothing changed, while
some store awaits the invalidations of other copies (R182), and FENCE.VS while that is so or vector work of the hart that
is not held is in its queue; FENCE.VV closes the open convoy and marks the one that follows, which waits likewise. The model's
own are: that one hart's operations are performed in order otherwise (log 4), that held work is not awaited (log 40), and
that a fence awaits the stores of every parish (log 71). After FENCE.I the core's fetches read memory anew. PREFETCH raises no trap, whatever its address. R166 to R168: WAITM completes when
the value at its address differs from gC, and gives gA that value; while it is equal the hart parks on the location at
the same pc. -/
def Obligations.FencesAndWaitmComplete : Prop :=
  (∀ s : State,
     (∀ sc,
       (s.storesPending sc = false →
         Gives s (.fenceAcq sc) [] 0 0 4 ∧ Gives s (.fenceRel sc) [] 0 0 4 ∧ Gives s (.fenceFull sc) [] 0 0 4) ∧
       (s.storesPending sc = true →
         exec (.fenceAcq sc) s = .next s.stall ∧ exec (.fenceRel sc) s = .next s.stall ∧ exec (.fenceFull sc) s = .next s.stall)) ∧
     (s.storesPending .system = false → Gives s .fenceSv [] 0 0 4) ∧
     (s.storesPending .system = true → exec .fenceSv s = .next s.stall) ∧
     GivesFrom s { s with hart := { s.hart with vec := s.hart.vec.fence } } .fenceVv [] 0 0 4 ∧
     s.hart.vec.fence.vv = true ∧ (∀ k ∈ s.hart.vec.fence.queue.getLast?, k.closed = true) ∧
     GivesFrom s (s.freshFetch s.here.core) .fenceI [] 0 0 4 ∧
     (∀ t, exec .fenceI s = .next t → (t.core s.here.core).l1i = []) ∧
     (s.hart.liveConvoys = [] → s.storesPending .system = false → Gives s .fenceVs [] 0 0 4) ∧
     (s.hart.liveConvoys ≠ [] ∨ s.storesPending .system = true → ∃ t, exec .fenceVs s = .next t ∧ t.hart.pc = s.hart.pc ∧ t.hart.wait = .parked ∧
       t.hart.g = s.hart.g ∧ t.mem = s.mem) ∧
     (∀ (b : GReg) (write : Bool), Ready s [b] 0 →
       ∃ t, exec (.prefetch b write) s = .next t ∧ t.hart.pc = s.hart.pc + 4 ∧ t.hart.g = s.hart.g ∧
         t.hart.status = s.hart.status ∧ (s.hart.status.priv = .firm → t.mem = s.mem))) ∧
  (∀ (s : State) (a b c : GReg) (dbl : Bool) (sc : Scope) (p : Piece) (s1 s2 : State),
     let n := if dbl then 8 else 4
     let v := numOf (s2.readPieces [p])
     let cmp := (s.hart.src [b] c).toNat % 2 ^ (8 * n)
     Ready s [b, c] a →
     s.check s.who { acc := 3, need := .read, style := .watch } (s.hart.src [] b) n = .done [p] s1 →
     s1.readPending sc [p] = false → s1.touchReads [p] = .ok s2 →
     (v ≠ cmp → ∃ t, exec (.waitm a b c dbl sc) s = .next t ∧
       Retired s2 t [b, c] a (if dbl then BitVec.ofNat 64 v else (BitVec.ofNat 32 v).signExtend 64) (s2.hart.pc + 4)) ∧
     (v = cmp → ∃ t, exec (.waitm a b c dbl sc) s = .next t ∧ (∃ e, t.hart.wait = .watching p.pa e) ∧
       t.hart.pc = s2.hart.pc ∧ t.hart.g = s2.hart.g ∧ t.hart.words = s2.hart.words ∧ t.mem = s2.mem))

/-- R170 to R172, R162: cache maintenance of an address whose checks pass acts on the 128-byte line of memory that holds
it, which is two lines of the caches in CXL memory (R451; log 41), for the scope's point of coherence, and completes; on
croft store, device registers and device kind it has no effect. CLEAN leaves every copy above the point where it stood, and
clean; FLUSH leaves no copy above it; neither changes a byte or a poisoned sector, and every byte reads as it did. INVAL leaves
no copy above the point and writes nothing back: where a copy above was dirty, the line reads as the point held it, and no byte
outside the line changes. Whatever the state of the line was, no dirty data is left above the point. INVAL is of SUPER and
FIRM: at TASK it takes cause 0x03. -/
def Obligations.MaintenanceCompletes : Prop :=
  ∀ (s : State) (b : GReg) (sc : Scope) (p : Piece) (s1 s2 : State),
    let va := s.hart.src [] b
    let act : Instr → BitVec 2 → Need → State → Prop := fun i acc need u =>
      s.check s.who { acc := acc, need := need, style := .maint } va 1 = .done [p] s1 →
      ∃ t, exec i s = .next t ∧ Retired u t [b] 0 0 (u.hart.pc + 4)
    Ready s [b] 0 →
    let ls := linesOf (p.pa / 128 * 128) 128
    let pt := scopePoint sc
    let on (f : State → Nat → State) : State := ls.foldl f (s2.accessed .scalar)
    let cleaned := on fun s l => s.cleanLine s.pp l pt
    let flushed := on fun s l => s.flushLine s.pp l pt
    let invalid := on fun s l => s.invalLine s.pp l pt
    (p.region.cacheable = true → p.kind ≠ .device →
      ls.foldl (fun (o : Held) l => o.bind fun s => s.maintReaches pt l) (.ok s1) = .ok s2 →
      act (.clean b sc) 1 .read cleaned ∧ act (.flush b sc) 1 .read flushed ∧
      (s.hart.status.priv ≠ .task → act (.inval b sc) 2 .write invalid) ∧
      -- CLEAN: what is held stays held, and nothing above the point is dirty
      (∀ l ∈ ls, ¬ DirtyAbove cleaned s2.pp l pt) ∧ cleaned.mem = s2.mem ∧ cleaned.poison = s2.poison ∧
      (∀ c, ((cleaned.core c).l1d.map fun x => x.1) = (s2.core c).l1d.map fun x => x.1) ∧
      (cleaned.coh.l2.map fun e => (e.1, e.2.owned, e.2.valid)) = s2.coh.l2.map (fun e => (e.1, e.2.owned, e.2.valid)) ∧
      cleaned.coh.dir = s2.coh.dir ∧
      -- FLUSH: nothing is held above the point
      (∀ l ∈ ls, ¬ DirtyAbove flushed s2.pp l pt ∧ ¬ HeldAbove flushed s2.pp l pt ∧
        (pt ≠ .parish → flushed.coh.dirOf l = Dir.reset)) ∧ flushed.mem = s2.mem ∧ flushed.poison = s2.poison ∧
      -- INVAL: what was dirty above the point is lost
      (∀ l ∈ ls, ¬ DirtyAbove invalid s2.pp l pt ∧ ¬ HeldAbove invalid s2.pp l pt ∧
        (pt ≠ .parish → invalid.coh.dirOf l = Dir.reset)) ∧
      (MemOk s2 → (∀ l ∈ ls, ∀ k, s2.heldAt s2.pp l pt = some k → k.bytes.length = lineSize l) →
        (∀ x, (∀ l ∈ ls, x < s2.cell (lineAddr l) ∨ s2.cell (lineAddr l) + lineSize l ≤ x) →
          readByte invalid.mem x = readByte s2.mem x) ∧
        (∀ l ∈ ls, (∀ m ∈ ls, m ≠ l → s2.cell (lineAddr m) + lineSize m ≤ s2.cell (lineAddr l) ∨
            s2.cell (lineAddr l) + lineSize l ≤ s2.cell (lineAddr m)) →
          invalid.lineBytes l = match s2.heldAt s2.pp l pt with | some k => k.bytes | none => s2.lineBytes l))) ∧
    ((p.region.cacheable = false ∨ p.kind = .device) →
      act (.clean b sc) 1 .read s1 ∧ act (.flush b sc) 1 .read s1 ∧
      (s.hart.status.priv ≠ .task → act (.inval b sc) 2 .write s1)) ∧
    (s.hart.status.priv = .task → exec (.inval b sc) s = .next (s.trap 0x03 (encBits (.inval b sc))))


/-! ### Scalar floating point -/

/-- R231 to R238, R219, R223, R224, R229: an instruction of class F on a core that carries the class computes on the low W
bits of its sources under its rounding mode (`.dyn` is SY.FRM), advances SY.SEED once when the mode is stochastic, ORs
its flags into SY.FFLAGS, and gives gA the result with the bits above W zero (integers extended to 64 bits). With a flag
raised that SY.FENABLE enables it takes cause 0x0C instead, with those flags as the value, and changes nothing else. That
one that draws waits for the older queued instructions that may draw is the model's: R282 orders the draws, and no rule
says how (log 49). -/
def Obligations.FloatingPointCompletes : Prop :=
  let does : State → Instr → List GReg → GReg → Rm → (Mode → Nat → Nat × FFlags) → Prop := fun s i srcs a rm f =>
    s.carriesHere .F = true → Ready s srcs a →
      let m := modeOf rm s.hart.frm
      (m = .sr → s.hart.drawsAhead = true → exec i s = .next s.stall) ∧
      ((m = .sr → s.hart.drawsAhead = false) →
      let r := f m (srNext s.hart.seed).toNat
      let u : State := { s with hart := { s.hart with
        fflags := s.hart.fflags ||| r.2, seed := if m = .sr then srNext s.hart.seed else s.hart.seed } }
      if r.2 &&& s.hart.fenable = 0 then
        ∃ t, exec i s = .next t ∧ Retired u t srcs a (BitVec.ofNat 64 r.1) (s.hart.pc + 4) .f
      else exec i s = .next (s.trap 0x0C ((r.2 &&& s.hart.fenable).setWidth 64)))
  ∀ (s : State) (a b c : GReg) (f : FpFmt) (rm : Rm),
    let w := (fmtOf f).width
    let x := (s.hart.src [] b).toNat % 2 ^ w
    let y := (s.hart.src [b] c).toNat % 2 ^ w
    let z := (s.hart.src [b, c] a).toNat % 2 ^ w
    let res : FRes → Nat × FFlags := fun r => (r.code, r.flags)
    does s (.fadd a b c f rm) [b, c] a rm (fun m d => res (fpAdd (fmtOf f) m d x y)) ∧
    does s (.fsub a b c f rm) [b, c] a rm (fun m d => res (fpSub (fmtOf f) m d x y)) ∧
    does s (.fmul a b c f rm) [b, c] a rm (fun m d => res (fpMul (fmtOf f) m d x y)) ∧
    does s (.fdiv a b c f rm) [b, c] a rm (fun m d => res (fpDiv (fmtOf f) m d x y)) ∧
    does s (.fsqrt a b f rm) [b] a rm (fun m d => res (fpSqrt (fmtOf f) m d x)) ∧
    does s (.frnd a b f rm) [b] a rm (fun m d => res (fpIntegral (fmtOf f) m d x)) ∧
    does s (.fma a b c f rm) [b, c, a] a rm (fun m d => res (fpFma (fmtOf f) m d false false x y z)) ∧
    does s (.fms a b c f rm) [b, c, a] a rm (fun m d => res (fpFma (fmtOf f) m d false true x y z)) ∧
    does s (.fnma a b c f rm) [b, c, a] a rm (fun m d => res (fpFma (fmtOf f) m d true false x y z)) ∧
    does s (.fnms a b c f rm) [b, c, a] a rm (fun m d => res (fpFma (fmtOf f) m d true true x y z)) ∧
    does s (.fmin a b c f) [b, c] a .rne (fun _ _ => res (fpMinMax (fmtOf f) false x y)) ∧
    does s (.fmax a b c f) [b, c] a .rne (fun _ _ => res (fpMinMax (fmtOf f) true x y)) ∧
    does s (.fsgn a b c f .cp) [b, c] a .rne (fun _ _ => (x % 2 ^ (w - 1) + y / 2 ^ (w - 1) * 2 ^ (w - 1), 0)) ∧
    does s (.fsgn a b c f .neg) [b, c] a .rne (fun _ _ => (x % 2 ^ (w - 1) + (1 - y / 2 ^ (w - 1)) * 2 ^ (w - 1), 0)) ∧
    does s (.fsgn a b c f .xor) [b, c] a .rne
      (fun _ _ => (x % 2 ^ (w - 1) + (x / 2 ^ (w - 1) + y / 2 ^ (w - 1)) % 2 * 2 ^ (w - 1), 0)) ∧
    (∀ o, does s (.fcmp a b c f o) [b, c] a .rne
      (fun _ _ => ((fpCompare (fmtOf f) (fcmpRel o) x y).1.toNat, (fpCompare (fmtOf f) (fcmpRel o) x y).2))) ∧
    does s (.fclass a b f) [b] a .rne (fun _ _ => (fpClass (fmtOf f) x, 0)) ∧
    does s (.fmvx a b f) [b] a .rne (fun _ _ => (x, 0)) ∧
    (∀ src dst sat,
      let r := fun m d => cvtTo dst m sat d (cvtValue src (s.hart.src [] b).toNat)
      does s (.fcvt a b src dst sat rm) [b] a rm (fun m d =>
        (match cvtInt dst with
         | some (true, n) => ((BitVec.ofNat n (r m d).code).signExtend 64).toNat
         | _ => (r m d).code, (r m d).flags)))

/-- R218, R224, R225: special operands, in every format of the scalar instructions and every rounding mode. A NaN operand
gives the canonical NaN, and NV exactly when an operand is signalling; the invalid cases give the canonical NaN and NV;
division of a finite non-zero value by zero gives a signed infinity and DZ alone. R220 to R224, R234: for finite operands
a finite sum, difference, product, quotient or fused result is the exact one rounded once; so is a square root, whose
square stands to the operand as its rounding asks. -/
def Obligations.FloatingPointSpecials : Prop :=
 (∀ (f : FpFmt) (m : Mode) (d b c a : Nat),
    let k := fmtOf f
    let x := fpValue k b
    let y := fpValue k c
    let z := fpValue k a
    let nv : Bool → FFlags := fun p => if p then 16 else 0
    (x.isNan || y.isNan →
      fpAdd k m d b c = { code := k.nanCode, flags := nv (x.isSnan || y.isSnan) } ∧
      fpSub k m d b c = { code := k.nanCode, flags := nv (x.isSnan || y.isSnan) } ∧
      fpMul k m d b c = { code := k.nanCode, flags := nv (x.isSnan || y.isSnan) } ∧
      fpDiv k m d b c = { code := k.nanCode, flags := nv (x.isSnan || y.isSnan) }) ∧
    (x.isNan || y.isNan || z.isNan → ∀ np na, (fpFma k m d np na b c a).code = k.nanCode) ∧
    (x.isNan → fpSqrt k m d b = { code := k.nanCode, flags := nv x.isSnan } ∧
      fpIntegral k m d b = { code := k.nanCode, flags := nv x.isSnan }) ∧
    (∀ p q, x = .inf p → y = .inf q →
      (p ≠ q → fpAdd k m d b c = { code := k.nanCode, flags := 16 }) ∧
      (p = q → fpSub k m d b c = { code := k.nanCode, flags := 16 }) ∧
      fpDiv k m d b c = { code := k.nanCode, flags := 16 }) ∧
    (∀ p e, x = .inf p → y = .fin e → e.isZero = true →
      fpMul k m d b c = { code := k.nanCode, flags := 16 } ∧ fpMul k m d c b = { code := k.nanCode, flags := 16 }) ∧
    (∀ e g, x = .fin e → y = .fin g → g.isZero = true →
      (e.isZero = true → fpDiv k m d b c = { code := k.nanCode, flags := 16 }) ∧
      (e.isZero = false → fpDiv k m d b c = { code := k.signed (e.neg != g.neg) k.infCode, flags := 8 })) ∧
    (∀ e, x = .fin e → e.isZero = false → e.neg = true → fpSqrt k m d b = { code := k.nanCode, flags := 16 })) ∧
 (∀ (f : FpFmt) (m : Mode) (d b c a : Nat) (x y z : Int),
    let k := fmtOf f
    let u : Int := 2 ^ 1074
    unitsOf k b = some x → unitsOf k c = some y → unitsOf k a = some z →
    Rounds k m (fpAdd k m d b c) (x + y) 1 ∧ Rounds k m (fpSub k m d b c) (x - y) 1 ∧
    Rounds k m (fpMul k m d b c) (x * y) u ∧
    (y ≠ 0 → Rounds k m (fpDiv k m d b c) (if y < 0 then -(x * u) else x * u) y.natAbs) ∧
    (∀ np na, Rounds k m (fpFma k m d np na b c a) ((if np then -(x * y) else x * y) + (if na then -z else z) * u) u) ∧
    (0 ≤ x → ∀ v, unitsOf k (fpSqrt k m d b).code = some v →
      0 ≤ v ∧ ((fpSqrt k m d b).flags.getLsbD 0 = true ↔ v * v ≠ x * u) ∧
      ∀ q w, unitsOf k q = some w → 0 ≤ w →
        (m = .rne ∨ m = .rna → (v < w → 4 * (x * u) ≤ (v + w) * (v + w)) ∧ (w < v → (v + w) * (v + w) ≤ 4 * (x * u))) ∧
        (m = .rtz ∨ m = .rdn → v * v ≤ x * u ∧ (w * w ≤ x * u → w ≤ v)) ∧
        (m = .rup → x * u ≤ v * v ∧ (x * u ≤ w * w → v ≤ w)) ∧
        (m = .sr → ¬ (v < w ∧ w * w < x * u) ∧ ¬ (w < v ∧ x * u < w * w))))

/-! ### Reset, traps and privilege -/

/-- R458, R117, R120, R122, R241, R242, R315, R189, R469: what a cold reset leaves. Hart 0 of C-core 0 of parish 0 of the
G-die stands at the boot ROM's entry at FIRM with SY.FTVEC at its trap entry; no line is in a directory, and every
parish outside the G-die is off. That the member is the Y-4822, that memory lists nothing, and the zeros of registers
for which the spec gives no value are the model's choices (log 1, 2, 17). -/
def Obligations.ResetValues : Prop :=
  let s := State.reset
  s.hart.pc = 0x020000100000 ∧ s.hart.ftvec = 0x02000010F000 ∧ s.hart.status.priv = .firm ∧ s.hart.status.fpp = .firm ∧
  s.hart.status.spp = .task ∧ s.hart.status.fbusy = false ∧ s.hart.status.sbusy = false ∧ s.hart.tdeleg = 0 ∧
  s.here = { core := { die := 0, parish := 0, core := 0 }, hart := 0 } ∧ s.hart.wait = .running ∧
  (∀ r, r ≠ 31 → s.hart.readG r = 0) ∧ s.hart.seed = 0x5EEDC0DE ∧ s.hart.fflags = 0 ∧ s.hart.fenable = 0 ∧
  s.hart.mixctl = 0x4000000000404080 ∧ s.hart.vec.vn = 0 ∧ s.hart.mat.shape = 0x20000 ∧
  (∀ line, (s.coh.dirOf line).st = .I) ∧ (∀ pp, 2 ≤ pp → (s.power pp).st = .off) ∧ s.links = [] ∧ s.lostDies = []

/-- R121 to R123, R128, R129: a synchronous trap. It goes to SUPER when it comes from TASK or SUPER, TDELEG has the bit of
its code, and it is not a SYSCALL of SUPER; everything else goes to FIRM, and so does a trap destined for SUPER that
finds SBUSY set, with DOUBLE in its cause. The bank of the level takes the pc of the trapping instruction, the cause and
the value; the status is saved and the level's BUSY bit set; the pc goes to the handler. A trap to FIRM that finds FBUSY
set locks the hart up and changes no bank. No general register and no byte of memory changes. -/
def Obligations.TrapEntry : Prop :=
  ∀ (s : State) (code : BitVec 8) (value : Word) (acc : BitVec 2),
    let h := s.hart
    let t := (s.trap code value acc).hart
    let toSuper := h.status.priv ≠ .firm ∧ ¬ (code = 0x0F ∧ h.status.priv = .super) ∧ h.tdeleg.getLsbD code.toNat = true
    let entry : Word → Word := fun v =>
      (v &&& 0xFFFFFFFFFFFFFF00) + if v.getLsbD 0 then 64 * code.setWidth 64 else 0
    let cause : Word := (256 : Word) * acc.setWidth 64 + code.setWidth 64
    t.g = h.g ∧ (s.trap code value acc).mem = s.mem ∧
    (toSuper ∧ h.status.sbusy = false →
      t.bankS = { pc := h.pc, cause := cause, val := value } ∧ t.bankF = h.bankF ∧
      t.status = { h.status with spp := h.status.priv, spaie := h.status.saie, saie := false, sbusy := true, priv := .super } ∧
      t.pc = entry h.tvec ∧ t.wait = .running) ∧
    (¬ (toSuper ∧ h.status.sbusy = false) → h.status.fbusy = false →
      t.bankF = { pc := h.pc, cause := cause + (if toSuper then 0x4000000000000000 else 0), val := value } ∧ t.bankS = h.bankS ∧
      t.status = { h.status with fpp := h.status.priv, fpaie := h.status.faie, faie := false, fbusy := true, priv := .firm } ∧
      t.pc = entry h.ftvec ∧ t.wait = .running) ∧
    (¬ (toSuper ∧ h.status.sbusy = false) → h.status.fbusy = true →
      t.wait = .lockup ∧ t.bankS = h.bankS ∧ t.bankF = h.bankF ∧ t.status = h.status ∧ t.pc = h.pc)

/-- R126, R132: SYSCALL and BREAK take causes 0x0F and 0x0E with their 10-bit code as the value. R84, R47, R128: an
encoding that is no instruction takes cause 0x01 with the encoding as the value, and the fetch at an odd pc takes
cause 0x04 with the pc as the value. A step that has nothing due before it takes these traps where its fetch finds such a
pc or such bytes, and where a halfword of the instruction fails its check, the trap of that check. Where no handler runs,
each of the four completes by entering one: the bank of the level saves the pc, the cause and the value, the level's
handler is entered with its busy bit set, and no general register and no byte of memory changes. -/
def Obligations.SynchronousTraps : Prop :=
  (∀ (s : State) (code : BitVec 10),
     exec (.syscall code) s = .next (s.trap 0x0F (code.setWidth 64)) ∧
     exec (.brk code) s = .next (s.trap 0x0E (code.setWidth 64))) ∧
  (∀ s : State,
     (∀ enc, exec (.illegalInstruction enc) s = .next (s.trap 0x01 enc)) ∧
     (s.hart.pc.getLsbD 0 = true → exec .fetchFault s = .next (s.trap 0x04 s.hart.pc)) ∧
     (s.hart.pc.getLsbD 0 = false → s.hart.pc.extractLsb' 56 8 ≠ 0 → exec .fetchFault s = .next (s.trap 0x05 s.hart.pc))) ∧
  (∀ s : State, s.turns = [] → 0 ∉ s.lostDies → s.hart.wait = .running → s.recovery = false → s.before = none →
     let pc := s.hart.pc
     let asked (e : Bad) : Prop :=
       e.cause = 0x05 ∧ s.hart.status.priv = .task ∧ e.addr.extractLsb' 56 8 = 0 ∧ (s.pdata s.pp).reevemap ≠ 0
     let rest (b0 : List Byte) : Nat := lengthOf (BitVec.ofNat 16 (leNat b0)) / 2 - 1
     (pc.getLsbD 0 = true → step s = .next (s.trap 0x04 pc)) ∧
     (∀ e, pc.getLsbD 0 = false → s.fetchHalves pc 1 = .bad e → ¬ asked e → step s = .next (s.trap e.cause e.addr)) ∧
     (∀ e b0 s1, pc.getLsbD 0 = false → s.fetchHalves pc 1 = .done b0 s1 → s1.fetchHalves (pc + 2) (rest b0) = .bad e →
       ¬ asked e → step s = .next (s.trap e.cause e.addr)) ∧
     (∀ b0 b1 s1 s2 n enc, pc.getLsbD 0 = false → s.fetchHalves pc 1 = .done b0 s1 →
       s1.fetchHalves (pc + 2) (rest b0) = .done b1 s2 → decode (b0 ++ b1) = .error (.illegal n enc) →
       step s = .next (s2.trap 0x01 enc))) ∧
  (∀ s : State, s.hart.status.fbusy = false → s.hart.status.sbusy = false →
     let h := s.hart
     let entry : Word → Nat → Word := fun v code =>
       (v &&& 0xFFFFFFFFFFFFFF00) + if v.getLsbD 0 then BitVec.ofNat 64 (64 * code) else 0
     let enters : Instr → Nat → Word → Prop := fun i code value =>
       let bank : Bank := { pc := h.pc, cause := BitVec.ofNat 64 code, val := value }
       ∃ t, exec i s = .next t ∧ t.hart.wait = .running ∧ t.hart.g = h.g ∧ t.mem = s.mem ∧ t.others = s.others ∧
         (if h.status.priv ≠ .firm ∧ ¬ (code = 0x0F ∧ h.status.priv = .super) ∧ h.tdeleg.getLsbD code = true then
           t.hart.bankS = bank ∧ t.hart.bankF = h.bankF ∧ t.hart.pc = entry h.tvec code ∧
           t.hart.status = { h.status with
             spp := h.status.priv, spaie := h.status.saie, saie := false, sbusy := true, priv := .super }
         else
           t.hart.bankF = bank ∧ t.hart.bankS = h.bankS ∧ t.hart.pc = entry h.ftvec code ∧
           t.hart.status = { h.status with
             fpp := h.status.priv, fpaie := h.status.faie, faie := false, fbusy := true, priv := .firm })
     (∀ code : BitVec 10, enters (.syscall code) 0x0F (code.setWidth 64) ∧ enters (.brk code) 0x0E (code.setWidth 64)) ∧
     (∀ enc, enters (.illegalInstruction enc) 0x01 enc) ∧
     (h.pc.getLsbD 0 = true → enters .fetchFault 0x04 h.pc) ∧
     (∀ e, s.fetch = .bad e →
       (e.cause ≠ 0x05 ∨ h.status.priv ≠ .task ∨ e.addr.extractLsb' 56 8 ≠ 0 ∨ (s.pdata s.pp).reevemap = 0) →
       enters .fetchFault e.cause.toNat e.addr))

/-- R128: an asynchronous trap. A pending cause is taken when the level it is for is not busy, when the hart runs below
that level, or at it with its AIE set; a kill notice (2) goes before a debug request (1). It is no longer pending, and
its cause has ASYNC set. The entry saves the level and the enable as a synchronous trap's does: into SPP and SPAIE with SAIE
cleared and SBUSY set for SUPER, into FPP and FPAIE with FAIE cleared and FBUSY set for FIRM, and every other field of the
status stays. -/
def Obligations.AsynchronousTraps : Prop :=
  ∀ s : State,
    let h := s.hart
    let ready : Nat → Prop := fun c =>
      if h.tdeleg.getLsbD (32 + c) then
        h.status.sbusy = false ∧ (h.status.priv = .task ∨ (h.status.priv = .super ∧ h.status.saie = true))
      else h.status.fbusy = false ∧ (h.status.priv ≠ .firm ∨ h.status.faie = true)
    let taken : Nat → Prop := fun c =>
      ∃ t, exec .asyncTrap s = .next t ∧ t.hart.g = h.g ∧ t.mem = s.mem ∧ t.hart.wait = .running ∧
        (if h.status.priv ≠ .firm ∧ h.tdeleg.getLsbD (32 + c) then
          t.hart.bankS = { pc := h.pc, cause := 0x8000000000000000 + BitVec.ofNat 64 c, val := 0 } ∧
          t.hart.status = { h.status with
            spp := h.status.priv, spaie := h.status.saie, saie := false, sbusy := true, priv := .super } ∧
          t.hart.bankF = h.bankF ∧
          t.hart.pc = (h.tvec &&& 0xFFFFFFFFFFFFFF00) + (if h.tvec.getLsbD 0 then 0x800 + 64 * BitVec.ofNat 64 c else 0)
        else
          t.hart.bankF = { pc := h.pc, cause := 0x8000000000000000 + BitVec.ofNat 64 c, val := 0 } ∧
          t.hart.status = { h.status with
            fpp := h.status.priv, fpaie := h.status.faie, faie := false, fbusy := true, priv := .firm } ∧
          t.hart.bankS = h.bankS ∧
          t.hart.pc = (h.ftvec &&& 0xFFFFFFFFFFFFFF00) + (if h.ftvec.getLsbD 0 then 0x800 + 64 * BitVec.ofNat 64 c else 0))
    (h.pend2 = true ∧ ready 2 → taken 2 ∧ ∀ t, exec .asyncTrap s = .next t → t.hart.pend2 = false ∧ t.hart.pend1 = h.pend1) ∧
    (¬ (h.pend2 = true ∧ ready 2) → h.pend1 = true ∧ ready 1 →
      taken 1 ∧ ∀ t, exec .asyncTrap s = .next t → t.hart.pend1 = false ∧ t.hart.pend2 = h.pend2) ∧
    (¬ (h.pend2 = true ∧ ready 2) → ¬ (h.pend1 = true ∧ ready 1) → exec .asyncTrap s = .refused (.notEnabled "ASYNC_TRAP"))

/-- R130: ERET at SUPER and at FIRM. It retires at the level it leaves, and changes no general register and no byte of
memory. At TASK it takes cause 0x03. -/
def Obligations.TrapReturn : Prop :=
  ∀ s : State,
    let h := s.hart
    (h.status.priv = .super → ∃ t, exec .eret s = .next t ∧ t.hart.pc = h.bankS.pc ∧
      t.hart.status = { h.status with priv := h.status.spp, saie := h.status.spaie, sbusy := false } ∧
      t.hart.g = h.g ∧ t.hart.bankS = h.bankS ∧ t.hart.bankF = h.bankF ∧ t.hart.instret = h.instret + 1 ∧
      (∀ x, readByte t.mem x = readByte s.mem x)) ∧
    (h.status.priv = .firm → ∃ t, exec .eret s = .next t ∧ t.hart.pc = h.bankF.pc ∧
      t.hart.status = { h.status with priv := h.status.fpp, faie := h.status.fpaie, fbusy := false } ∧
      t.hart.g = h.g ∧ t.hart.bankS = h.bankS ∧ t.hart.bankF = h.bankF ∧ t.hart.instret = h.instret + 1 ∧
      (∀ x, readByte t.mem x = readByte s.mem x)) ∧
    (h.status.priv = .task → exec .eret s = .next (s.trap 0x03 (encBits .eret)))

/-- R117, R118, R131, R162: what TASK may not do. Each takes the privilege trap, cause 0x03, with its encoding as the
value; a register number that no chapter assigns takes cause 0x01. -/
def Obligations.PrivilegeTraps : Prop :=
  ∀ s : State,
    (s.hart.status.priv = .task →
      exec .halt s = .next (s.trap 0x03 (encBits .halt)) ∧
      (∀ b c m, exec (.tlbinv b c m) s = .next (s.trap 0x03 (encBits (.tlbinv b c m)))) ∧
      (∀ b sc, exec (.inval b sc) s = .next (s.trap 0x03 (encBits (.inval b sc)))) ∧
      (∀ a num, num ∈ [0x001#12, 0x002#12, 0x003#12, 0x004#12, 0x005#12, 0x006#12, 0x00B#12, 0x040#12, 0x041#12, 0x063#12] →
        exec (.srd a num) s = .next (s.trap 0x03 (encBits (.srd a num))) ∧
        exec (.swr a num) s = .next (s.trap 0x03 (encBits (.swr a num))) ∧
        exec (.sswap a num) s = .next (s.trap 0x03 (encBits (.sswap a num)))) ∧
      (∀ a num, num ∈ [0x000#12, 0x00C#12, 0x011#12, 0x042#12, 0x062#12] →
        exec (.swr a num) s = .next (s.trap 0x03 (encBits (.swr a num))))) ∧
    (s.hart.status.priv ≠ .firm → ∀ a num, num ∈ [0x021#12, 0x022#12, 0x023#12, 0x024#12, 0x026#12, 0x210#12] →
      exec (.srd a num) s = .next (s.trap 0x03 (encBits (.srd a num)))) ∧
    (∀ a num, num ∈ [0x007#12, 0x00E#12, 0x020#12, 0x025#12, 0x034#12, 0x043#12, 0x103#12, 0x212#12, 0x400#12, 0xFFF#12] →
      exec (.srd a num) s = .next (s.trap 0x01 (encBits (.srd a num))) ∧
      exec (.swr a num) s = .next (s.trap 0x01 (encBits (.swr a num))) ∧
      exec (.sswap a num) s = .next (s.trap 0x01 (encBits (.sswap a num))))

/-! ### System registers -/

/-- R118, R119, R132: SRD gives gA the value of a register that the level may read; SWR writes gA to a register that the
level may write; SSWAP does both, the old value being read first. A read of MEM.RASLOG pops one entry, and one of W.DIRDATA
answers the directory's entry where the home is not lost. The accesses that wait (R228, R200, R471) are left out by
hypotheses. Two clauses are the model's: a read of SY.CYCLE moves it by one more than a free value (log 5), and an SWR of
SY.INSTRET counts itself, so that it leaves the value written plus one (log 37). -/
def Obligations.SystemRegisterAccess : Prop :=
  ∀ (s : State) (a : GReg) (num : BitVec 12) (r : Rights), rightsOf num.toNat = some r →
    s.regReady num.toNat = .ok s →
    let l := s.hart.status.priv.rank
    let v := s.hart.src [] a
    (r.read ≤ l → Ready s [] a → num.toNat ∉ [0x010, 0x102, 0x210] →
      Gives s (.srd a num) [] a (s.regValue num.toNat) 4) ∧
    (r.read ≤ l → Ready s [] a → num = 0x102#12 → homeOf s.hart.diraddr.toNat ∉ s.lostDies →
      Gives s (.srd a num) [] a
        (if lineInHbm (lineOf s.hart.diraddr.toNat) then (s.coh.dirOf (lineOf s.hart.diraddr.toNat)).word else 0) 4) ∧
    (r.read ≤ l → Ready s [] a → num = 0x210#12 →
      GivesFrom s { s with raslog := s.raslog.drop 1 } (.srd a num) [] a (s.raslog.headD 0) 4) ∧
    (Ready s [] a → num = 0x010#12 →
      let n := (s.core s.here.core).cycle + 1 + Config.freeCycles s.free
      ∃ t, exec (.srd a num) s = .next t ∧ t.hart.pc = s.hart.pc + 4 ∧ (t.core s.here.core).cycle = n ∧
        t.free = s.free + 1 ∧ (a ≠ 0 → a ≠ 31 → t.hart.readG a = n)) ∧
    (r.write ≤ l → s.windowDenied num.toNat = false → Ready s [a] 0 → s.killHeld num.toNat v = none →
      ∃ t, exec (.swr a num) s = .next t ∧
        Retired ((s.pop [a]).writeReg num.toNat v) t [] 0 0 (((s.pop [a]).writeReg num.toNat v).hart.pc + 4) ∧
        (num = 0x011#12 → t.hart.instret = v + 1)) ∧
    (r.read ≤ l → r.write ≤ l → s.windowDenied num.toNat = false → Ready s [a] a → num.toNat ∉ [0x010, 0x102, 0x210] →
      ∃ t, exec (.sswap a num) s = .next t ∧
        Retired ((s.pop [a]).writeReg num.toNat v) t [] a (s.regValue num.toNat)
          (((s.pop [a]).writeReg num.toNat v).hart.pc + 4))

/-- R8, R97, R120 to R123, R138, R202 to R205, R227, R384, R385: what a register holds after a write of `v`, as a read of
it then returns: its writable fields take the value and its other bits stay. SY.REEVEMAP stores 16 bits on the G-die and 32
elsewhere; each byte of W.HASHSEL stores 0 for SEL 0b00 and 0b11, and for SEL 0b01 no bit of the field that it does not use. -/
def Obligations.SystemRegisterFields : Prop :=
  ∀ (s : State) (v : Word),
    let after : Nat → Word := fun num => (s.writeReg num v).regValue num
    let f : Nat → Word := fun k => (v >>> k) &&& 1
    after 0x001 = v ∧ after 0x002 = v &&& 0xC000000000000BFF ∧ after 0x003 = v ∧ after 0x004 = v &&& 0xFFFFFFFFFFFFFF01 ∧
    after 0x005 = v &&& 0x60001FFFE ∧ after 0x006 = v ∧
    (s.hart.status.priv = .firm → v.extractLsb' 0 5 ≠ 31 → v.extractLsb' 8 5 ≠ 31 → v.extractLsb' 16 5 ≠ 31 →
      after 0x00B = v &&& 0x1F1F1F) ∧
    after 0x00C = (v &&& 0xC000000000FFFFFF) ||| (s.hart.mixctl &&& 0x3000000) ∧ after 0x011 = v ∧ after 0x021 = v ∧
    after 0x022 = v &&& 0xC000000000000BFF ∧ after 0x023 = v ∧ after 0x024 = v &&& 0xFFFFFFFFFFFFFF01 ∧ after 0x026 = v ∧
    after 0x030 = v &&& 0x1F ∧ after 0x031 = (if 6 ≤ (v &&& 7).toNat then 0 else v &&& 7) ∧ after 0x032 = v &&& 0x1F ∧
    after 0x033 = (if v &&& 0xFFFFFFFF = 0 then 0x5EEDC0DE else v &&& 0xFFFFFFFF) ∧ after 0x040 = v &&& 0xFFFF ∧
    after 0x041 = v &&& 0xFFFFFFFFFE000 ∧ after 0x042 = v &&& 0xFF ∧ after 0x045 = v &&& ~~~7 ∧
    after 0x060 = v &&& ~~~7 ∧ after 0x061 = (v &&& ~~~7) ||| 1 ∧ after 0x062 = v &&& 0x80000000FFFFFFFF ∧
    after 0x063 = v &&& ~~~7 ∧ after 0x101 = v &&& 0xFFFFFFFFFFF80 ∧
    after 0x044 = v &&& (if s.here.core.die = 0 then 0xFFFF else 0xFFFFFFFF) ∧ after 0x068 = v &&& 0xFFFFFFFFFFFFF ∧
    (∀ k, k < 8 →
      let b := v.extractLsb' (8 * k) 8
      let sel := b.extractLsb' 6 2
      (after 0x100).extractLsb' (8 * k) 8 = if sel = 1 then b &&& 0xC7 else if sel = 2 then b else 0) ∧
    (s.hart.status.priv = .firm → v.extractLsb' 4 2 ≠ 3 → v.getLsbD 3 = false →
      after 0x000 = (v &&& 0x1FBC) ||| 2) ∧
    (s.hart.status.priv = .super →
      ((s.writeReg 0x000 v).hart.status.fbusy, (s.writeReg 0x000 v).hart.status.faie,
        (s.writeReg 0x000 v).hart.status.fpp, (s.writeReg 0x000 v).hart.status.priv) =
      (s.hart.status.fbusy, s.hart.status.faie, s.hart.status.fpp, s.hart.status.priv) ∧
      after 0x000 &&& 0x280 = v &&& 0x280 ∧ (after 0x000 >>> 11) &&& 1 = f 11)

/-- R386, R385, R212, R8, R466, R464, R433, R467: the event rows of register writes, each as a write by the current
hart. SY.HBASE disables the window, records the writer's context and, at TASK, its owner; SY.HLIMIT enables the
window; either is cause 0x03 at TASK for another than the owner; SY.HSTRAY and SY.REEVEVEC record the writer's context; another register takes its writable fields; MEM.RATE
keeps the code of a channel written 0b11; a read of MEM.RASLOG pops one entry; a write of a word of a key clears
VALID; a channel that has switched serves again, those that waited for it first. R401, R468: a kill of a live task reaches it, and a kill of any other
task has no effect; MEM.MIGCTL frees the entry of the page it names, with bit 0 set only when the copy is complete,
and a page without an entry changes nothing. -/
def Obligations.RegisterWriteEvents : Prop :=
  (∀ s : State,
     let c := s.here.core
     let x := s.core c
     let denied : Prop := s.hart.status.priv = .task ∧ x.howner.getLsbD 63 = true ∧ x.howner.extractLsb' 0 32 ≠ s.hart.taskId
     (denied → ∀ v, ∃ e1 e2, exec (.hbaseWrite v) s = .next (s.trap 0x03 e1) ∧ exec (.hlimitWrite v) s = .next (s.trap 0x03 e2)) ∧
     (∀ v, ¬ denied → ∃ t, exec (.hbaseWrite v) s = .next t ∧ (t.core c).hbase = v &&& ~~~7 ∧ (t.core c).hen = false ∧
       (t.core c).winCtx = { asid := s.hart.asid, ptroot := s.hart.ptroot, ccid := s.hart.ccid, frm := s.hart.frm } ∧
       (t.core c).howner = (if s.hart.status.priv = .task then 0x8000000000000000 + s.hart.taskId.setWidth 64 else x.howner) ∧
       (t.core c).hlimit = x.hlimit ∧ t.hart = s.hart ∧ t.mem = s.mem) ∧
     (∀ v, ¬ denied → ∃ t, exec (.hlimitWrite v) s = .next t ∧ t.core c = { x with hlimit := v &&& ~~~7, hen := true } ∧
       t.hart = s.hart ∧ t.mem = s.mem) ∧
     (∀ v, ∃ t, exec (.hstrayWrite v) s = .next t ∧ t.core c = { x with
       hstray := v &&& ~~~7, strayCtx := { asid := s.hart.asid, ptroot := s.hart.ptroot, ccid := 0, frm := 0 } } ∧
       t.hart = s.hart ∧ t.mem = s.mem) ∧
     (∀ v, ∃ t, exec (.reevevecWrite v) s = .next t ∧ t.pdata s.pp = { s.pdata s.pp with
       reevevec := v &&& ~~~7
       reeveCtx := { asid := s.hart.asid, ptroot := s.hart.ptroot, ccid := s.hart.ccid, frm := 0 } } ∧
       t.hart = s.hart ∧ t.mem = s.mem) ∧
     (∀ num v r, rightsOf num.toNat = some r → r.write < 3 → ownWrite num.toNat = false →
       exec (.registerWrite num v) s = .next (s.writeReg num.toNat v)) ∧
     (∀ reg v, ∃ t, exec (.rateWrite reg v) s = .next t ∧ t.mem = s.mem ∧ ∀ k, k < 32 →
       (alGet 0 reg.toNat t.rates).extractLsb' (2 * k) 2 =
         if v.extractLsb' (2 * k) 2 = 3 then (alGet 0 reg.toNat s.rates).extractLsb' (2 * k) 2 else v.extractLsb' (2 * k) 2) ∧
     (∃ t, exec .raslogRead s = .next t ∧ t.raslog = s.raslog.drop 1 ∧ t.hart = s.hart ∧ t.mem = s.mem) ∧
     (∀ (k : BitVec 6) (j : Fin 4) v, ∃ t, exec (.keyWrite k j v) s = .next t ∧ (t.keySlot k.toNat).valid = false ∧
       (t.keySlot k.toNat).key.extractLsb' (64 * j.val) 64 = v ∧ t.mem = s.mem ∧
       ∀ i, i < 4 → i ≠ j.val →
         (t.keySlot k.toNat).key.extractLsb' (64 * i) 64 = (s.keySlot k.toNat).key.extractLsb' (64 * i) 64) ∧
     (∀ wd ch, s.switching.contains (wd, ch) = true → ∃ t, exec (.channelSwitchEnd wd ch) s = .next t ∧
       t.switching.length + 1 = s.switching.length ∧ (s.coh.waiting = [] → t.mem = s.mem))) ∧
  (∀ s : State,
     (∀ v, exec (.tkill v) s = .next (if s.isLive (v.extractLsb' 0 32) then s.notify (v.extractLsb' 0 32) else s)) ∧
     (∀ page m, page < 2 ^ 36 → s.migs.find? (fun m => m.old == page * 65536) = some m →
       (∃ t, exec (.migctlFree page) s = .next t ∧ t.migs.length + 1 = s.migs.length ∧ t.hart = s.hart ∧
         (m.bits = BitVec.allOnes 512 → t.mem = s.mem)) ∧
       (m.bits = BitVec.allOnes 512 → ∃ t, exec (.migctlFreeIfComplete page) s = .next t ∧
         t.migs.length + 1 = s.migs.length ∧ t.mem = s.mem) ∧
       (m.bits ≠ BitVec.allOnes 512 → exec (.migctlFreeIfComplete page) s = .next s)) ∧
     (∀ page, page < 2 ^ 36 → (∀ m ∈ s.migs, m.old ≠ page * 65536) →
       exec (.migctlFree page) s = .next s ∧ exec (.migctlFreeIfComplete page) s = .next s))

/-- R132, R133, R137: PAUSE, HALT, WFM, YIELD and MIGRATE complete, and what the hart then waits for. MIGRATE keeps the kind
of context, and a hart that finds no context waits in the Carter queue; it has no effect towards CCLASS 0b11, its own class
or core, a class that the member lacks, or, for a compute hart, class C. It takes cause 0x03 with EXACT at TASK, 0x0A with a
grant, and 0x06 towards a core that does not exist or that has no compute context for a compute hart; while a link on the way
to the context sleeps it waits (R200). That EXACT makes CCLASS irrelevant, for which R133's step 4 states no condition, is the
model's reading (log 38), and so is ACC 0b00 in the cause register of its cause 0x06 (log 78). -/
def Obligations.WaitsAndMoves : Prop :=
  ∀ s : State,
    (∀ b, Ready s [b] 0 →
      let n := ((s.hart.src [] b).extractLsb' 0 16).toNat
      ∃ t, exec (.pause b) s = .next t ∧ t.hart.pc = s.hart.pc + 4 ∧ t.hart.g = s.hart.g ∧ t.mem = s.mem ∧
        t.hart.wait = if n = 0 then s.hart.wait else .paused n) ∧
    (s.hart.status.priv ≠ .task → ∃ t, exec .halt s = .next t ∧ t.hart.pc = s.hart.pc + 4 ∧ t.hart.g = s.hart.g ∧
      t.mem = s.mem ∧ t.hart.wait = .halted) ∧
    (s.hart.words ≠ [] → Gives s .wfm [] 0 0 4) ∧
    (s.hart.words = [] → ∃ t, exec .wfm s = .next t ∧ t.hart.pc = s.hart.pc ∧ t.hart.wait = .parked ∧ t.hart.g = s.hart.g) ∧
    (s.hart.status.priv ≠ .task → Gives s .yield [] 0 0 4) ∧
    (s.hart.status.priv = .task → s.hart.mat.grantRows = 0 → s.queueRoom (s.queueParish s.pp) = true →
      ∃ t, exec .yield s = .next t ∧ t.hart.wait = .vacant ∧ t.here = s.here ∧ t.mem = s.mem) ∧
    (∀ b, Ready s [b] 0 → s.hart.mat.grantRows = 0 → (s.hart.src [] b).getLsbD 63 = false →
      let k := (s.hart.src [] b).extractLsb' 18 2
      let own := Config.cclassCode s.cclass
      (k = 3 ∨ k = own → Gives s (.migrate b) [b] 0 0 4) ∧
      (∀ want, k = Config.cclassCode want → Config.hasCore s.member want = false ∨ (want = .C ∧ s.hart.compute = true) →
        Gives s (.migrate b) [b] 0 0 4) ∧
      (∀ want p, k = Config.cclassCode want → Config.hasCore s.member want = true → k ≠ own →
        ¬ (want = .C ∧ s.hart.compute = true) → s.canLeave = true →
        let u := s.finishNone [b] 4
        (u.findOfClass want = some p →
          (s.reaches s.here.core.die p.core.die = true → ∃ t, exec (.migrate b) s = .next t ∧ t.here = p ∧
            t.hart.pc = s.hart.pc + 4 ∧ t.hart.g = s.hart.g ∧ t.hart.compute = s.hart.compute ∧ t.hart.wait = .running ∧
            t.mem = s.mem) ∧
          (s.reaches s.here.core.die p.core.die = false → p.core.die ∉ s.lostDies →
            ∃ t, exec (.migrate b) s = .next t ∧ t.here = s.here ∧ t.hart.pc = s.hart.pc ∧ t.hart.g = s.hart.g ∧
              t.hart.wait = .parked ∧ t.mem = s.mem)) ∧
        (u.findOfClass want = none → ∃ t, exec (.migrate b) s = .next t ∧ t.hart.wait = .vacant ∧
          t.carter.length = s.carter.length + 1 ∧ t.mem = s.mem))) ∧
    (∀ b, Ready s [b] 0 →
      let v := s.hart.src [] b
      let enc := encBits (.migrate b)
      let c : CoreId :=
        { die := (v.extractLsb' 13 4).toNat, parish := (v.extractLsb' 8 5).toNat, core := (v.extractLsb' 3 5).toNat }
      let absent : Prop :=
        Config.coreExists s.member c = false ∨ (Config.classOf s.member c = .C ∧ s.hart.compute = true)
      (v.getLsbD 63 = true → s.hart.status.priv = .task → exec (.migrate b) s = .next (s.trap 0x03 enc)) ∧
      (¬ (v.getLsbD 63 = true ∧ s.hart.status.priv = .task) → s.hart.mat.grantRows ≠ 0 →
        exec (.migrate b) s = .next (s.trap 0x0A enc)) ∧
      (v.getLsbD 63 = true → s.hart.status.priv ≠ .task → s.hart.mat.grantRows = 0 →
        let u := s.finishNone [b] 4
        (absent → exec (.migrate b) s = .next (s.trap 0x06 v)) ∧
        (¬ absent → c = s.here.core → Gives s (.migrate b) [b] 0 0 4) ∧
        (¬ absent → c ≠ s.here.core → s.canLeave = false → exec (.migrate b) s = .next s.stall) ∧
        (∀ p, ¬ absent → c ≠ s.here.core → s.canLeave = true → s.runs (s.ppOf c) = true →
          u.freeContext c s.hart.compute = some p → s.reaches s.here.core.die c.die = true →
          ∃ t, exec (.migrate b) s = .next t ∧ t.here = p ∧ p.core = c ∧ t.hart.pc = s.hart.pc + 4 ∧ t.hart.g = s.hart.g ∧
            t.hart.compute = s.hart.compute ∧ t.hart.wait = .running ∧ t.mem = s.mem) ∧
        (¬ absent → c ≠ s.here.core → s.canLeave = true →
          s.runs (s.ppOf c) = false ∨ u.freeContext c s.hart.compute = none →
          ∃ t f, exec (.migrate b) s = .next t ∧ t.hart.wait = .vacant ∧ t.carter = s.carter ++ [f] ∧ f.exact = some c ∧
            f.hart.pc = s.hart.pc + 4 ∧ f.hart.g = s.hart.g ∧ t.mem = s.mem)))

/-- R131, R132, R211: TLBINV at SUPER and FIRM. Every TLB of the package, those of engines and of stream registers
included, loses the entries of its mode and keeps the others: mode 0 those that map the page of address gB and match ASID
gC, global entries included; mode 1 the entries of the ASID that are not global; mode 2 every entry. It waits first for
the links to every die, for the hart's older queued stores (those of held work apart, log 40), and for stores that are not
yet performed at DEVICE. -/
def Obligations.TlbInvalidation : Prop :=
  ∀ (s : State) (b c : GReg) (mode : Fin 3), s.hart.status.priv ≠ .task → Ready s [b, c] 0 →
    let va := (s.hart.src [] b).toNat % 2 ^ 56
    let asid := (s.hart.src [b] c).extractLsb' 0 16
    let goes : TlbEntry → Bool := fun e =>
      if mode = 0 then e.page == va / 2 ^ e.span && (e.global || e.asid == asid)
      else if mode = 1 then !e.global && e.asid == asid
      else true
    let stays (es : List TlbEntry) : List TlbEntry := es.filter fun e => !goes e
    (∀ d, d ∈ [0, 1, 2, 3, 4, 8, 9, 10, 11, 12, 13, 14, 15] → d ∉ s.lostDies → s.reaches s.here.core.die d = false →
      ∃ t, exec (.tlbinv b c mode) s = .next t ∧ t.hart.pc = s.hart.pc ∧ t.hart.wait = .parked ∧ t.hart.g = s.hart.g ∧
        t.mem = s.mem) ∧
    (s.tlbinvReaches = none → s.tlbinvWaits = true → exec (.tlbinv b c mode) s = .next s.stall) ∧
    (s.tlbinvReaches = none → s.tlbinvWaits = false →
      ∃ t, exec (.tlbinv b c mode) s = .next t ∧ t.hart.pc = s.hart.pc + 4 ∧ t.hart.g = s.hart.g ∧ t.mem = s.mem ∧
      (∀ k, (t.core k).tlb = stays (s.core k).tlb) ∧
      (∀ pp, (t.parish pp).tlb = stays (s.parish pp).tlb) ∧
      (∀ e, alGet [] e t.engTlb = stays (alGet [] e s.engTlb)) ∧
      (∀ k, (t.hart.vec.stream k).pages = stays (s.hart.vec.stream k).pages) ∧
      (∀ p k, ((t.hartAt p).vec.stream k).pages = stays ((s.hartAt p).vec.stream k).pages) ∧
      (∀ k, (t.hart.vec.stream k).base = (s.hart.vec.stream k).base ∧
        (t.hart.vec.stream k).cursor = (s.hart.vec.stream k).cursor))


/-! ### Vector instructions -/

/-- R273 to R277, R54, R57, R249, R59: the arithmetic of the V format, both lengths, and the compact forms. Class E, but
VMULH, VDIV and VREM, which are class V. The source C carries the modifier; in the long form B carries its own. A
compact form reads `^`, the register of LDV, and joins. -/
def Obligations.VectorArithmeticDispatch : Prop :=
  ∀ s : State,
    let short : Instr → Cls → VBin → VBase → Prop := fun i cls op o =>
      let dc := shortDrove o.drv
      Dispatches s i
        { cls := cls, droves := [dc], srcs := (match o.form with | .vx => [o.b] | _ => []), dst := 0, joins := o.j
          ldv := some o.a, mask := o.m, len := 4, enc := encBits i }
        (.bin op o.a ⟨o.c, s.hart.route dc⟩
          (match o.form with | .vv => .vec ⟨o.b, .none⟩ | .vx => .scalar (s.hart.src [] o.b) | .vi => .imm o.b))
    let long : Instr → Cls → VBin → VLong → Prop := fun i cls op o =>
      Dispatches s i
        { cls := cls, droves := [o.dc, o.db], srcs := (match o.form with | .vx => [o.b] | _ => []), dst := 0, joins := o.j
          ldv := some o.a, mask := o.m, len := 8, enc := encBits i }
        (.bin op o.a ⟨o.c, s.hart.route o.dc⟩
          (match o.form with | .vv => .vec ⟨o.b, s.hart.route o.db⟩ | .vx => .scalar (s.hart.src [] o.b) | .vi => .imm o.b))
    let fshort : Instr → VFmaKind → VFmaBase → Prop := fun i k o =>
      let dc := shortDrove o.drv
      Dispatches s i
        { cls := .E, droves := [dc], srcs := (match o.form with | .vx => [o.b] | .vv => []), dst := 0, joins := o.j
          ldv := some o.a, mask := o.m, len := 4, enc := encBits i }
        (.fma k o.a ⟨o.c, s.hart.route dc⟩
          (match o.form with | .vv => .vec ⟨o.b, .none⟩ | .vx => .scalar (s.hart.src [] o.b)))
    let flong : Instr → VFmaKind → VFmaLong → Prop := fun i k o =>
      Dispatches s i
        { cls := .E, droves := [o.dc, o.db], srcs := (match o.form with | .vx => [o.b] | .vv => []), dst := 0, joins := o.j
          ldv := some o.a, mask := o.m, len := 8, enc := encBits i }
        (.fma k o.a ⟨o.c, s.hart.route o.dc⟩
          (match o.form with | .vv => .vec ⟨o.b, s.hart.route o.db⟩ | .vx => .scalar (s.hart.src [] o.b)))
    let compact : Instr → VReg → VWork → Prop := fun i r w =>
      Dispatches s i
        { cls := .E, droves := [], srcs := [], dst := 0, joins := true, ldv := some r, mask := 0, len := 2, enc := encBits i } w
    (∀ o, short (.vadd o) .E .add o ∧ short (.vsub o) .E .sub o ∧ short (.vrsub o) .E .rsub o ∧ short (.vmul o) .E .mul o ∧
      short (.vmulh o) .V .mulh o ∧ short (.vdiv o) .V .div o ∧ short (.vrem o) .V .rem o ∧ short (.vmin o) .E .min o ∧
      short (.vmax o) .E .max o ∧ short (.vand o) .E .and o ∧ short (.vor o) .E .or o ∧ short (.vxor o) .E .xor o ∧
      short (.vshl o) .E .shl o ∧ short (.vshr o) .E .shr o) ∧
    (∀ o, long (.vaddL o) .E .add o ∧ long (.vsubL o) .E .sub o ∧ long (.vrsubL o) .E .rsub o ∧ long (.vmulL o) .E .mul o ∧
      long (.vmulhL o) .V .mulh o ∧ long (.vdivL o) .V .div o ∧ long (.vremL o) .V .rem o ∧ long (.vminL o) .E .min o ∧
      long (.vmaxL o) .E .max o ∧ long (.vandL o) .E .and o ∧ long (.vorL o) .E .or o ∧ long (.vxorL o) .E .xor o ∧
      long (.vshlL o) .E .shl o ∧ long (.vshrL o) .E .shr o) ∧
    (∀ o, fshort (.vfma o) .fma o ∧ fshort (.vfms o) .fms o ∧ fshort (.vfnma o) .fnma o) ∧
    (∀ o, flong (.vfmaL o) .fma o ∧ flong (.vfmsL o) .fms o ∧ flong (.vfnmaL o) .fnma o) ∧
    (∀ r g, compact (.cvadd r g) r (.bin .add r ⟨s.hart.vec.ldv, .none⟩ (.vec ⟨g, .none⟩)) ∧
      compact (.cvmul r g) r (.bin .mul r ⟨s.hart.vec.ldv, .none⟩ (.vec ⟨g, .none⟩)) ∧
      compact (.cvfma r g) r (.fma .fma r ⟨s.hart.vec.ldv, .none⟩ (.vec ⟨g, .none⟩)))

/-- R277, R278, R279, R75: VCMP, which names no vector destination and leaves LDV alone, and VEC.UN. VSQRT, VRSQ, VLOG2,
VCLZ and VPOPC are class V. -/
def Obligations.VectorCompareUnaryDispatch : Prop :=
  ∀ s : State,
    let short : Instr → VRel → VCmpBase → Prop := fun i r o =>
      let dc := shortDrove o.drv
      Dispatches s i
        { cls := .E, droves := [dc], srcs := (match o.form with | .vx => [o.b] | _ => []), dst := 0, joins := o.j
          ldv := none, mask := o.m, len := 4, enc := encBits i }
        (.cmp r o.comb o.md ⟨o.c, s.hart.route dc⟩
          (match o.form with | .vv => .vec ⟨o.b, .none⟩ | .vx => .scalar (s.hart.src [] o.b) | .vi => .imm o.b))
    let long : Instr → VRel → VCmpLong → Prop := fun i r o =>
      Dispatches s i
        { cls := .E, droves := [o.dc, o.db], srcs := (match o.form with | .vx => [o.b] | _ => []), dst := 0, joins := o.j
          ldv := none, mask := o.m, len := 8, enc := encBits i }
        (.cmp r o.comb o.md ⟨o.c, s.hart.route o.dc⟩
          (match o.form with | .vv => .vec ⟨o.b, s.hart.route o.db⟩ | .vx => .scalar (s.hart.src [] o.b) | .vi => .imm o.b))
    let un : Instr → Cls → VUnOp → VUn → Prop := fun i cls op o =>
      let dc := cmodDrove o.mod
      Dispatches s i
        { cls := cls, droves := [dc], srcs := [], dst := 0, joins := o.j, ldv := some o.a, mask := o.m
          len := (match o.mod with | .short _ => 4 | .long _ => 8), enc := encBits i }
        (.un op o.a ⟨o.c, s.hart.route dc⟩)
    (∀ o, short (.vcmpEq o) .eq o ∧ short (.vcmpNe o) .ne o ∧ short (.vcmpLt o) .lt o ∧ short (.vcmpLe o) .le o) ∧
    (∀ o, long (.vcmpEqL o) .eq o ∧ long (.vcmpNeL o) .ne o ∧ long (.vcmpLtL o) .lt o ∧ long (.vcmpLeL o) .le o) ∧
    (∀ o, un (.vmv o) .E .mv o ∧ un (.vneg o) .E .neg o ∧ un (.vabs o) .E .abs o ∧ un (.vnot o) .E .not o ∧
      un (.vsqrt o) .V .sqrt o ∧ un (.vrcp o) .E .rcp o ∧ un (.vrsq o) .V .rsq o ∧ un (.vexp2 o) .E .exp2 o ∧
      un (.vlog2 o) .V .log2 o ∧ un (.vtanh o) .E .tanh o ∧ un (.vclz o) .V .clz o ∧ un (.vpopc o) .V .popc o)

/-- R301 to R311, R280, R281, R437: the whole-vector instructions, the mask instructions, the conversions and QGATHER.
Their general operands are captured; VEXTRACT, MPOPC and MFIRST name a general destination that the queue writes. -/
def Obligations.VectorWholeDispatch : Prop :=
  ∀ s : State,
    let one : Instr → Cls → VReg → Bool → MaskSel → Option Drove → VWork → Prop := fun i cls a j m dc w =>
      Dispatches s i
        { cls := cls, droves := [dc.getD .none], srcs := [], dst := 0, joins := j, ldv := some a, mask := m
          len := (match dc with | none => 4 | some _ => 8), enc := encBits i } w
    let from' : VReg → Option Drove → VSrc := fun c dc => ⟨c, s.hart.route (dc.getD .none)⟩
    let dest : GReg → GDest := fun r => if r = 31 then .msg ((s.hart.open'.map fun m => m.taken).getD 0) else .reg r
    let len : Bool → Nat := fun long => if long then 8 else 4
    (∀ o, Dispatches s (.vsel o)
      { cls := .E, droves := [(match o.mods with | some p => p.2 | none => .none), (match o.mods with | some p => p.1 | none => .none)]
        srcs := [], dst := 0, joins := o.j, ldv := some o.a, mask := o.m, len := (match o.mods with | none => 4 | some _ => 8)
        enc := encBits (.vsel o) }
      (.sel o.a ⟨o.c, s.hart.route (match o.mods with | some p => p.2 | none => .none)⟩
        ⟨o.b, s.hart.route (match o.mods with | some p => p.1 | none => .none)⟩)) ∧
    (∀ o, one (.vred o) .V o.a o.j o.m o.dc (.red o.op false o.a (from' o.c o.dc)) ∧
      one (.vredO o) .V o.a o.j o.m o.dc (.red o.op true o.a (from' o.c o.dc)) ∧
      one (.vscan o) .V o.a o.j o.m o.dc (.scan o.op o.a (from' o.c o.dc))) ∧
    (∀ o, one (.vcompress o) .V o.a o.j o.m o.dc (.compress o.a (from' o.c o.dc)) ∧
      one (.vexpand o) .V o.a o.j o.m o.dc (.expand o.a (from' o.c o.dc)) ∧
      one (.vcvtI4 o) .E o.a o.j o.m o.dc (.grow .i4 o.a (from' o.c o.dc)) ∧
      one (.vcvtE3m2 o) .E o.a o.j o.m o.dc (.grow .e3m2 o.a (from' o.c o.dc)) ∧
      one (.vcvtE2m3 o) .E o.a o.j o.m o.dc (.grow .e2m3 o.a (from' o.c o.dc))) ∧
    (∀ o, one (.vcvt o) .E o.a o.j o.m o.dc (.cvt o.a (from' o.c o.dc) o.tag o.sew o.rm false) ∧
      one (.vcvtSat o) .E o.a o.j o.m o.dc (.cvt o.a (from' o.c o.dc) o.tag o.sew o.rm true)) ∧
    (∀ o, Dispatches s (.viota o)
      { cls := .V, droves := [], srcs := [], dst := 0, joins := o.j, ldv := some o.a, mask := o.m, len := len o.long
        enc := encBits (.viota o) } (.iota o.a)) ∧
    (∀ o, Dispatches s (.vreshape o)
      { cls := .V, droves := [o.dc.getD .none], srcs := [o.b], dst := 0, joins := o.j, ldv := some o.a, mask := o.m
        len := (match o.dc with | none => 4 | some _ => 8), enc := encBits (.vreshape o) }
      (.reshape o.a (from' o.c o.dc) (s.hart.src [] o.b))) ∧
    (∀ o, Dispatches s (.vextract o)
      { cls := .E, droves := [o.dc.getD .none], srcs := [o.b], dst := o.a, joins := false, ldv := none, mask := 0
        len := (match o.dc with | none => 4 | some _ => 8), enc := encBits (.vextract o) }
      (.extract (dest o.a) (from' o.c o.dc) (s.hart.src [] o.b))) ∧
    (∀ o, Dispatches s (.vinsert o)
      { cls := .E, droves := [], srcs := [o.b, o.c], dst := 0, joins := o.j, ldv := some o.a, mask := o.m, len := len o.long
        enc := encBits (.vinsert o) }
      (.insert o.a (s.hart.src [] o.b) (s.hart.src [o.b] o.c))) ∧
    (∀ o,
      let mask : Instr → MaskOp → Prop := fun i op => Dispatches s i
        { cls := .E, droves := [], srcs := [], dst := 0, joins := o.j, ldv := none, mask := 0, len := len o.long
          enc := encBits i } (.mask op o.a o.b o.c)
      mask (.mand o) .and ∧ mask (.mor o) .or ∧ mask (.mxor o) .xor ∧ mask (.mandn o) .andn) ∧
    (∀ o, Dispatches s (.mmov o)
      { cls := .E, droves := [], srcs := [], dst := 0, joins := o.j, ldv := none, mask := 0, len := len o.long
        enc := encBits (.mmov o) } (.mmov o.a o.c)) ∧
    (∀ o,
      let count : Instr → VWork → Prop := fun i w => Dispatches s i
        { cls := .E, droves := [], srcs := [], dst := o.a, joins := false, ldv := none, mask := 0, len := len o.long
          enc := encBits i } w
      count (.mpopc o) (.mpopc (dest o.a) o.c) ∧ count (.mfirst o) (.mfirst (dest o.a) o.c)) ∧
    (∀ a b c m, Dispatches s (.qgather a b c m)
      { cls := .E, droves := [], srcs := [c], dst := 0, joins := false, ldv := some a, mask := m, len := 4
        enc := encBits (.qgather a b c m) } (.gather a b (s.hart.src [] c)))

/-- R289 to R298, R254: the vector loads and stores. The base, the stride and the dimensions are captured at dispatch, the
index group is read when the convoy runs; an access by a stream register captures its address and moves the cursor on by
VN. Sweeps and indexed accesses are class V. VTAG and VFSAVE enter the queue too, and so does VFRESTORE once the queues
have emptied, unless its frame needs a class that the core lacks (R271); that held work is not awaited is the model's choice
(log 40). -/
def Obligations.VectorMemoryDispatch : Prop :=
  ∀ s : State,
    let base : GReg → Option (BitVec 32) → Word := fun b off => s.hart.src [] b + (off.map fun x => x.signExtend 64).getD 0
    let at' : GReg → VAddr → Option (BitVec 32) → VAt := fun b a off =>
      match a with
      | .sweep => .sweep (base b off) s.hart.vec.dim[0] s.hart.vec.dim[1] s.hart.vec.dim[2]
      | .strided c => if c = 0 then .unit (base b off) else .strided (base b off) (s.hart.src [b] c)
    let srcs : GReg → VAddr → List GReg := fun b a =>
      match a with
      | .sweep => [b]
      | .strided c => if c = 0 then [b] else [b, c]
    let cls : VAddr → Cls := fun a => match a with | .sweep => .V | .strided _ => .E
    let len : Option (BitVec 32) → Nat := fun off => if off.isSome then 8 else 4
    let strm : BitVec 3 → Option (BitVec 32) → VAt := fun k off =>
      let w := s.hart.vec.stream k
      .stream k (w.base + (off.map fun x => x.signExtend 64).getD 0) w.stride w.cursor
    let moved : BitVec 3 → State → State := fun k t =>
      let w := s.hart.vec.stream k
      t.putStream k { w with cursor := w.cursor + BitVec.ofNat 32 s.hart.vec.vn }
    let ld : Instr → VLdOps → Option (BitVec 32) → Prop := fun i o off => Dispatches s i
      { cls := cls o.addr, droves := [], srcs := srcs o.b o.addr, dst := 0, joins := o.j, ldv := some o.a, mask := o.m
        len := len off, enc := encBits i } (.load o.a (at' o.b o.addr off) o.tag o.u)
    let st : Instr → VStOps → Option (BitVec 32) → Prop := fun i o off => Dispatches s i
      { cls := cls o.addr, droves := [], srcs := srcs o.b o.addr, dst := 0, joins := o.j, ldv := none, mask := o.m
        len := len off, enc := encBits i } (.store o.a (at' o.b o.addr off) o.u)
    let ldx : Instr → VLdxOps → Option (BitVec 32) → Prop := fun i o off => Dispatches s i
      { cls := .V, droves := [], srcs := [o.b], dst := 0, joins := o.j, ldv := some o.a, mask := o.m, len := len off
        enc := encBits i } (.load o.a (.indexed (base o.b off) o.c) o.tag o.u)
    let stx : Instr → VStxOps → Option (BitVec 32) → Prop := fun i o off => Dispatches s i
      { cls := .V, droves := [], srcs := [o.b], dst := 0, joins := o.j, ldv := none, mask := o.m, len := len off
        enc := encBits i } (.store o.a (.indexed (base o.b off) o.c) o.u)
    let own : Instr → List GReg → Option VReg → VWork → Prop := fun i rs ldv w => Dispatches s i
      { cls := .E, droves := [], srcs := rs, dst := 0, joins := false, ldv := ldv, mask := 0, len := 4, enc := encBits i } w
    (∀ o, ld (.vld o) o none ∧ ∀ off, ld (.vldL o off) o (some off)) ∧
    (∀ o, st (.vst o) o none ∧ ∀ off, st (.vstL o off) o (some off)) ∧
    (∀ o, ldx (.vldx o) o none ∧ ∀ off, ldx (.vldxL o off) o (some off)) ∧
    (∀ o, stx (.vstx o) o none ∧ ∀ off, stx (.vstxL o off) o (some off)) ∧
    (∀ o, Dispatches s (.vldW o)
      { cls := .E, droves := [], srcs := [], dst := 0, joins := o.j, ldv := some o.a, mask := o.m, len := len o.off
        enc := encBits (.vldW o) } (.load o.a (strm o.w o.off) o.tag false) (moved o.w)) ∧
    (∀ o, Dispatches s (.vstW o)
      { cls := .E, droves := [], srcs := [], dst := 0, joins := o.j, ldv := none, mask := o.m, len := len o.off
        enc := encBits (.vstW o) } (.store o.a (strm o.w o.off) false) (moved o.w)) ∧
    (∀ a t, own (.vtag a t) [] (some a) (.vtag a t)) ∧
    (∀ b, own (.vfsave b) [b] none (.vfsave (s.hart.src [] b))) ∧
    -- VFRESTORE waits for all older queued work, and its first reads may show that it needs class V
    (∀ b,
      let a := s.hart.src [] b
      (s.hart.liveConvoys = [] → s.hart.liveMats = [] → (∀ t, s.restoreNeedsV a ≠ .busy t) →
        (∀ t, s.restoreNeedsV a ≠ .done true t) → own (.vfrestore b) [b] none (.vfrestore a)) ∧
      (s.carriesHere .E = true → Ready s [b] 0 →
        (s.hart.liveConvoys ≠ [] ∨ s.hart.liveMats ≠ [] → exec (.vfrestore b) s = .next s.stall) ∧
        (∀ t, s.hart.liveConvoys = [] → s.hart.liveMats = [] → s.restoreNeedsV a = .done true t →
          exec (.vfrestore b) s = .next (s.migrationTrap .V (encBits (.vfrestore b))))))

/-- R251 to R254, R296, R298, R299: VSETN gives VN the smaller of gB and VLMAX, and gA the same; VSETN.G shares
min(gB, N × VLMAX) elements in groups of 16 among the N members of the gang; VSETD sets a dimension; WSET and WADV set and
move a stream register. They act at dispatch. A stream register that takes a new value holds the translations of at most
four pages after it, none at FIRM, and nothing else of the hart and no byte of memory changes. -/
def Obligations.VectorConfiguration : Prop :=
  ∀ s : State,
    s.carriesHere .E = true →
    (∀ o : VSetOps, Ready s [o.b] o.a → s.hart.vecFull = false →
      let avl := (s.hart.src [] o.b).toNat
      let vlmax := 2048 / (match o.sew with | .e8 => 8 | .e16 => 16 | .e32 => 32 | .e64 => 64) *
        (match o.grp with | .x1 => 1 | .x2 => 2 | .x4 => 4 | .x8 => 8)
      let form : VCfg := { mz := o.mz, tz := o.tz, grp := o.grp, sew := o.sew }
      let n := match s.hart.gang with | some k => k.size | none => 1
      let r := match s.hart.gang with | some k => k.rank | none => 0
      let total := min avl (n * vlmax)
      let groups := (total + 15) / 16
      let start := 16 * (r * (groups / n) + min r (groups % n))
      let mine := min (16 * (groups / n + if r < groups % n then 1 else 0)) (total - start)
      (∃ t, exec (.vsetn o) s = .next t ∧ t.hart.vec.vn = min avl vlmax ∧ t.hart.vec.form = form ∧
        (o.a ≠ 0 → o.a ≠ 31 → t.hart.readG o.a = BitVec.ofNat 64 (min avl vlmax)) ∧
        (∀ q, q ≠ o.a → q ≠ 31 → t.hart.readG q = s.hart.readG q) ∧ t.hart.pc = s.hart.pc + 4 ∧
        t.hart.vec.v = s.hart.vec.v ∧ t.hart.vec.m = s.hart.vec.m ∧ t.mem = s.mem) ∧
      (∃ t, exec (.vsetnG o) s = .next t ∧ t.hart.vec.vn = mine ∧ t.hart.vec.form = form ∧
        (o.a ≠ 0 → o.a ≠ 31 → t.hart.readG o.a = BitVec.ofNat 64 (mine + start * 2 ^ 32)) ∧
        (∀ q, q ≠ o.a → q ≠ 31 → t.hart.readG q = s.hart.readG q) ∧ t.hart.pc = s.hart.pc + 4 ∧
        t.hart.vec.v = s.hart.vec.v ∧ t.hart.vec.m = s.hart.vec.m ∧ t.mem = s.mem)) ∧
    (∀ b c (d : Fin 3), Ready s [b, c] 0 → s.hart.vecFull = false →
      ∃ t, exec (.vsetd b c d) s = .next t ∧ t.hart.pc = s.hart.pc + 4 ∧ t.hart.g = s.hart.g ∧ t.hart.vec.vn = s.hart.vec.vn ∧
        t.hart.vec.dim = s.hart.vec.dim.set d { len := (s.hart.src [] b).extractLsb' 0 32, stride := s.hart.src [b] c } ∧
        t.mem = s.mem) ∧
    (∀ k b c off, Ready s [b, c] 0 → s.hart.vecBarrier = false →
      ∃ t, exec (.wset k b c off) s = .next t ∧
        let x : Stream :=
          { base := s.hart.src [] b + (off.map fun x => x.signExtend 64).getD 0
            stride := (s.hart.src [b] c).extractLsb' 0 32, cursor := 0, pages := [] }
        Retired (s.putStream k x) t [b, c] 0 0 (s.hart.pc + if off.isSome then 8 else 4)) ∧
    (∀ k x, ∃ ps d,
      (s.putStream k x).hart = { s.hart with vec := s.hart.vec.setStream k { x with pages := ps, due := d } } ∧
      ps.length ≤ 4 ∧ (s.hart.status.priv = .firm → ps = [] ∧ d = false) ∧ (s.putStream k x).mem = s.mem) ∧
    (∀ k b off, Ready s [b] 0 → s.hart.vecBarrier = false →
      let w := s.hart.vec.stream k
      ∃ t, exec (.wadv k b off) s = .next t ∧
        let x : Stream := { w with
          cursor := w.cursor + (s.hart.src [] b).extractLsb' 0 32
          base := w.base + (off.map fun x => x.signExtend 64).getD 0 }
        Retired (s.putStream k x) t [b] 0 0 (s.hart.pc + if off.isSome then 8 else 4))

/-- R261, R262, R413: the convoy that a member enters. One that does not join closes the open convoy and opens one of
its own, closed at once when the instruction forms a convoy alone; one that joins an open convoy stands behind its
members, and the sixteenth closes it; when the convoy it followed has closed, it runs as a closed convoy of its own.
R263, R267, R269, R413, R414: the rows of the vector unit. A convoy at the head of the queue starts once it is closed and
its hart has the turn of the core's unit, and, behind a FENCE.VV, once no store is pending (R164; that the stores of every
parish are awaited is the model's, log 71, and so is the joiner behind a convoy closed otherwise, log 46); when
the groups that a member names are not aligned, or its tags do not agree, the queue of its level stops with cause 0x09
and no vector register changes; an open convoy closes when the hart dispatches nothing; a convoy whose members have
run drains: its flags merge, its members are counted, and it leaves the queue. -/
def Obligations.ConvoysFormAndRun : Prop :=
  (∀ (v : Vec) (m : VMember) (c : Convoy) (q : List Convoy),
     let fresh : Bool → Convoy := fun closed =>
       { members := [m], closed := closed, held := false, restart := false, raised := 0, done := none, fenced := v.vv }
     (v.queue = q ++ [c] → (v.enqueue m false).queue = q ++ [{ c with closed := true }, fresh m.work.own] ∧
       (v.enqueue m false).last = [m]) ∧
     (v.queue = [] → (v.enqueue m false).queue = [fresh m.work.own] ∧ (v.enqueue m true).queue = [fresh true]) ∧
     (v.queue = q ++ [c] → c.closed = false →
       (v.enqueue m true).queue = q ++ [{ c with members := c.members ++ [m], closed := decide (15 ≤ c.members.length) }] ∧
       (v.enqueue m true).last = v.last ++ [m]) ∧
     (v.queue = q ++ [c] → c.closed = true → (v.enqueue m true).queue = q ++ [c, fresh true]) ∧
     (∀ j, (v.enqueue m j).v = v.v ∧ (v.enqueue m j).m = v.m ∧ (v.enqueue m j).vn = v.vn ∧ (v.enqueue m j).form = v.form ∧
       (v.enqueue m j).dim = v.dim ∧ (v.enqueue m j).w = v.w)) ∧
  (∀ (s : State) (c : Convoy) (q : List Convoy),
     s.hart.vec.queue = c :: q → c.held = false →
     (c.closed = true → c.fenced = true → s.storesPending .system = true →
       exec .convoyStart s = .refused (.notEnabled "CONVOY_START")) ∧
     (c.closed = true → s.unitTurn = true → s.storesPending .device = false → ∀ m, c.members = [m] → m.tag = none →
       m.check s.hart.vec.shapes = none →
       (∀ a, m.work ≠ .vfsave a ∧ m.work ≠ .vfrestore a) → m.level = s.hart.status.priv →
       ∃ t, exec .convoyStart s = .next t ∧ t.hart.vec.v = s.hart.vec.v ∧ t.hart.vec.m = s.hart.vec.m ∧ t.mem = s.mem ∧
         (s.hart.status.fbusy = false → s.hart.status.priv = .firm → t.hart.bankF.cause = 0x809 ∧ t.hart.bankF.val = m.enc)) ∧
     ((∃ k ∈ c :: q, k.closed = false) → ∃ t, exec .convoyClose s = .next t ∧ t.hart.pc = s.hart.pc ∧ t.mem = s.mem ∧
       t.hart.vec.queue.length = s.hart.vec.queue.length ∧ ∀ k ∈ t.hart.vec.queue.getLast?, k.closed = true) ∧
     (∀ fl, c.done = some fl → (c.raised ||| fl) &&& s.hart.fenable = 0 → s.hart.status.priv ≠ .task → (∀ m ∈ c.members, m.level ≠ .task) →
       ∃ t, exec .convoyDrain s = .next t ∧ t.hart.vec.queue = q ∧ t.hart.fflags = s.hart.fflags ||| fl ∧
         t.hart.instret = s.hart.instret + BitVec.ofNat 64 c.members.length ∧ t.hart.vec.v = s.hart.vec.v ∧ t.mem = s.mem))

/-- R243, R248, R249, R256, R257, R259, R273 to R282, R301 to R311: what a convoy of one instruction that accesses no memory
leaves when it starts. The elements of the destination are the results of the instruction's sources, routed or not:
integer operations modulo 2^SEW, floating ones of the format that the operation tag names, each with the draw that its place
gives it under the stochastic mode; comparisons and the mask instructions write mask bits; a reduction writes element 0;
VEXTRACT, MPOPC and MFIRST write a general destination. Inactive and tail elements follow MZ and TZ; no other register and
no byte of memory changes; the flags are those of the active elements, and SY.SEED moves by the draws. That a conversion
from an integer tag under the stochastic mode rounds by a free value is the model's (log 48). R286 to R298: a convoy of one
vector load or store at FIRM of elements in HBM, one after another, strided, indexed, swept or along a stream register, once
it has run: the load has given each active element the bytes at its address and changed no byte of memory, and the
store has left at each address the bytes of the last element that names it, where it keeps the order, and every other byte,
and every vector register, as it was. An element outside a sweep is masked off (R294). -/
def Obligations.VectorElementResults : Prop :=
 (∀ (s : State) (c : Convoy) (m : VMember) (tag : Tag), Starts s c m tag → m.work.isMem = false →
    (m.work.own = true → ∃ d tg, m.work = .vtag d tg) →
    let v := s.hart.vec
    let w := sewBits m.form.sew
    let g := grpRegs m.form.grp
    let act : Nat → Bool := fun e => decide (m.mask = 0) || (v.mask m.mask.toNat).testBit e
    let live : List Nat := (List.range m.vn).filter act
    let rank : Nat → Nat := fun e => ((List.range e).filter act).length
    let src : VSrc → Nat → Nat := sourceOf s m
    let fmt := tagFmt tag m.form.sew
    let mode := modeOfFrm m.frm
    let sr := decide (mode = .sr)
    let int : Nat → Int := fun x => if tag = .sint ∧ 2 ^ (w - 1) ≤ x then (x : Int) - 2 ^ w else x
    let wrap : Int → FRes := fun x => { code := (x % 2 ^ w).toNat, flags := 0 }
    let plain : Nat → FRes := fun x => { code := x, flags := 0 }
    let opnd : VOpnd → Bool → Nat → Nat := fun b shift e =>
      match b with
      | .vec x => src x e
      | .scalar x => x.toNat % 2 ^ w
      | .imm i =>
        if shift then i.toNat
        else match fmt with
          | some f => (fpRound f .rne false 0 (Ex.ofInt i.toInt)).code
          | none => (i.toInt % 2 ^ w).toNat
    ∃ t, exec .convoyStart s = .next t ∧ t.mem = s.mem ∧ t.hart.pc = s.hart.pc ∧
      ((∀ o x, (∀ i, m.work ≠ .extract o x i)) → (∀ o x, m.work ≠ .mpopc o x ∧ m.work ≠ .mfirst o x) → t.hart.g = s.hart.g) ∧
      -- the binary majors, on integers and on bits
      (∀ op d x b, m.work = .bin op d x b → (op.bitwise = true ∨ fmt = none) →
        let c1 := src x
        let b1 := opnd b (decide (op = .shl ∨ op = .shr))
        Elementwise s t c m d g w 1 act false fun e _ =>
          match op with
          | .add => plain ((c1 e + b1 e) % 2 ^ w)
          | .sub => wrap (int (c1 e) - int (b1 e))
          | .rsub => wrap (int (b1 e) - int (c1 e))
          | .mul => plain (c1 e * b1 e % 2 ^ w)
          | .mulh => wrap (int (c1 e) * int (b1 e) / 2 ^ w)
          | .div =>
            if b1 e = 0 then plain (if tag = .sint then (if 0 ≤ int (c1 e) then 2 ^ (w - 1) - 1 else 2 ^ (w - 1)) else 2 ^ w - 1)
            else wrap ((int (c1 e)).tdiv (int (b1 e)))
          | .rem => if b1 e = 0 then plain (c1 e) else wrap ((int (c1 e)).tmod (int (b1 e)))
          | .min => plain (if int (b1 e) < int (c1 e) then b1 e else c1 e)
          | .max => plain (if int (c1 e) < int (b1 e) then b1 e else c1 e)
          | .and => plain (c1 e &&& b1 e)
          | .or => plain (c1 e ||| b1 e)
          | .xor => plain (c1 e ^^^ b1 e)
          | .shl => plain (c1 e * 2 ^ (b1 e % w) % 2 ^ w)
          | .shr => wrap (int (c1 e) / 2 ^ (b1 e % w))) ∧
      -- on a floating format
      (∀ op d x b f, m.work = .bin op d x b → op.bitwise = false → fmt = some f →
        let c1 := src x
        let b1 := opnd b false
        (op ≠ .mulh ∧ op ≠ .rem) ∧
        (∀ mx, (op = .min ∧ mx = false) ∨ (op = .max ∧ mx = true) →
          Elementwise s t c m d g w 1 act false fun e _ => fpMinMax f mx (c1 e) (b1 e)) ∧
        (op = .add → Elementwise s t c m d g w 1 act sr fun e k => fpAdd f mode k (c1 e) (b1 e)) ∧
        (op = .sub → Elementwise s t c m d g w 1 act sr fun e k => fpSub f mode k (c1 e) (b1 e)) ∧
        (op = .rsub → Elementwise s t c m d g w 1 act sr fun e k => fpSub f mode k (b1 e) (c1 e)) ∧
        (op = .mul → Elementwise s t c m d g w 1 act sr fun e k => fpMul f mode k (c1 e) (b1 e)) ∧
        (op = .div → Elementwise s t c m d g w 1 act sr fun e k => fpDiv f mode k (c1 e) (b1 e))) ∧
      (∀ kind d x b, m.work = .fma kind d x b →
        let c1 := src x
        let b1 := opnd b false
        let d1 := src ⟨d, .none⟩
        (fmt = none → Elementwise s t c m d g w 1 act false fun e _ =>
          match kind with
          | .fma => plain ((c1 e * b1 e + d1 e) % 2 ^ w)
          | .fms => wrap ((c1 e : Int) * b1 e - d1 e)
          | .fnma => wrap ((d1 e : Int) - c1 e * b1 e)) ∧
        (∀ f, fmt = some f → Elementwise s t c m d g w 1 act sr fun e k =>
          fpFma f mode k (decide (kind = .fnma)) (decide (kind = .fms)) (c1 e) (b1 e) (d1 e))) ∧
      (∀ op d x, m.work = .un op d x →
        let c1 := src x
        (fmt = none ∨ op = .not ∨ op = .clz ∨ op = .popc → Elementwise s t c m d g w 1 act false fun e _ =>
          match op with
          | .neg => wrap (-(c1 e : Int))
          | .abs => if tag = .sint then wrap (int (c1 e)).natAbs else plain (c1 e)
          | .not => plain (2 ^ w - 1 - c1 e)
          | .clz => plain (if c1 e = 0 then w else w - 1 - Nat.log2 (c1 e))
          | .popc => plain ((List.range w).filter (c1 e).testBit).length
          | _ => plain (c1 e)) ∧
        (∀ f, fmt = some f →
          (op = .mv → Elementwise s t c m d g w 1 act false fun e _ => plain (c1 e)) ∧
          (op = .neg → Elementwise s t c m d g w 1 act false fun e _ => plain (f.signed (!f.sign (c1 e)) (c1 e % f.signW))) ∧
          (op = .abs → Elementwise s t c m d g w 1 act false fun e _ => plain (c1 e % f.signW)) ∧
          (op.special = true → Elementwise s t c m d g w 1 act sr fun e k => fpSpecial f op mode k (c1 e)))) ∧
      (∀ r comb k x b, m.work = .cmp r comb k x b →
        let c1 := src x
        let b1 := opnd b false
        let old : Nat → Bool := (v.mask k.toNat).testBit
        let res : Nat → Bool × FFlags := fun e =>
          match fmt with
          | some f => fpCompare f (match r with | .eq => .eq | .ne => .ne | .lt => .lt | .le => .le) (c1 e) (b1 e)
          | none => (match r with
            | .eq => decide (c1 e = b1 e)
            | .ne => decide (c1 e ≠ b1 e)
            | .lt => decide (int (c1 e) < int (b1 e))
            | .le => decide (int (c1 e) ≤ int (b1 e)), 0)
        (m.vn = 0 → t.hart.vec.v = v.v ∧ t.hart.vec.m = v.m) ∧
        (m.vn ≠ 0 → Masked s t m k act fun e =>
          if comb = 0 then (res e).1 else if comb = 1 then old e && (res e).1 else if comb = 2 then old e || (res e).1
          else !(res e).1) ∧
        Ends s t c (live.foldl (fun fl e => fl ||| (res e).2) 0) 0) ∧
      -- reductions and scans
      (∀ op ordered d x, m.work = .red op ordered d x → m.vn ≠ 0 →
        let f := redFmt op tag m.form.sew
        let step := redStep f (decide (tag = .sint)) w op mode
        let t0 : Tally := { fl := 0, seed := c.seed.getD s.hart.seed, draws := 0 }
        let r := if ordered then inOrder step t0 (live.map (src x))
          else tree step t0 ((List.range m.vn).map fun e => if act e then some (src x e) else none)
        let z := r.1.getD (match f with | some f => redFpId f op | none => redIntId (decide (tag = .sint)) w op)
        Filled s t m d g w 1 1 (fun _ => true) (fun _ => z) ∧ Ends s t c r.2.fl r.2.draws) ∧
      (∀ op d x, m.work = .scan op d x → m.vn ≠ 0 →
        let step := redStep (redFmt op tag m.form.sew) (decide (tag = .sint)) w op mode
        let upTo : Nat → Option Nat × Tally := fun n =>
          inOrder step { fl := 0, seed := c.seed.getD s.hart.seed, draws := 0 } (((List.range n).filter act).map (src x))
        Filled s t m d g w 1 m.vn act (fun e => (upTo (e + 1)).1.getD 0) ∧ Ends s t c (upTo m.vn).2.fl (upTo m.vn).2.draws) ∧
      (∀ op ordered d x, (m.work = .red op ordered d x ∨ m.work = .scan op d x) → m.vn = 0 →
        t.hart.vec.v = v.v ∧ t.hart.vec.m = v.m) ∧
      -- rearrangements
      (∀ d x y, m.work = .sel d x y → Ends s t c 0 0 ∧
        Filled s t m d g w 1 m.vn (fun _ => true) fun e => if (v.mask m.mask.toNat).testBit e then src x e else src y e) ∧
      (∀ d x, m.work = .compress d x → Ends s t c 0 0 ∧
        Filled s t m d g w 1 live.length (fun _ => true) fun e => (live.map (src x)).getD e 0) ∧
      (∀ d x, m.work = .expand d x → Ends s t c 0 0 ∧ Filled s t m d g w 1 m.vn act fun e => src x (rank e)) ∧
      (∀ d, m.work = .iota d → Ends s t c 0 0 ∧ Filled s t m d g w 1 m.vn (fun _ => true) rank) ∧
      (∀ d x row, m.work = .reshape d x row → Ends s t c 0 0 ∧ Filled s t m d g w 1 m.vn act fun e =>
        let r := m.vn / row.toNat
        src x (e % r * row.toNat + e / r)) ∧
      (∀ d y i, m.work = .insert d y i → Ends s t c 0 0 ∧ t.hart.vec.m = v.m ∧
        (∀ r, (r < d.toNat ∨ d.toNat + g ≤ r) → t.hart.vec.reg r = v.reg r) ∧
        ∀ e, e < m.form.vlmax → elemOf (t.hart.vec.group d g) w e =
          if e = i.toNat ∧ e < m.vn ∧ act e = true then y.toNat % 2 ^ w else elemOf (v.group d g) w e) ∧
      (∀ r x i, m.work = .extract (.reg r) x i → t.hart.vec.v = v.v ∧ t.hart.vec.m = v.m ∧ ∀ q, q ≠ 31 →
        t.hart.readG q =
          if q = r ∧ r ≠ 0 then (if i.toNat < m.vn then BitVec.ofInt 64 (int (src x i.toNat)) else 0) else s.hart.readG q) ∧
      -- masks
      (∀ op k x y, m.work = .mask op k x y → Ends s t c 0 0 ∧
        let p : Nat → Bool := (v.mask x.toNat).testBit
        let q : Nat → Bool := (v.mask y.toNat).testBit
        Masked s t m k (fun _ => true) fun e =>
          match op with
          | .and => p e && q e
          | .or => p e || q e
          | .xor => p e ^^ q e
          | .andn => p e && !q e) ∧
      (∀ k x, m.work = .mmov k x → Ends s t c 0 0 ∧ Masked s t m k (fun _ => true) (v.mask x.toNat).testBit) ∧
      (∀ r x, m.work = .mpopc (.reg r) x → t.hart.vec.v = v.v ∧ t.hart.vec.m = v.m ∧ ∀ q, q ≠ 31 → t.hart.readG q =
        if q = r ∧ r ≠ 0 then BitVec.ofNat 64 ((List.range m.vn).filter (v.mask x.toNat).testBit).length else s.hart.readG q) ∧
      (∀ r x, m.work = .mfirst (.reg r) x → t.hart.vec.v = v.v ∧ t.hart.vec.m = v.m ∧ ∀ q, q ≠ 31 → t.hart.readG q =
        if q = r ∧ r ≠ 0 then
          (match (List.range m.vn).find? (v.mask x.toNat).testBit with | some e => BitVec.ofNat 64 e | none => -1)
        else s.hart.readG q) ∧
      -- conversions and expansions
      (∀ d x dt ds rm sat, m.work = .cvt d x dt ds rm sat →
        let per := if tag = .e2m1x2 then 2 else 1
        let round := modeOf rm m.frm
        let open' := decide (round = .sr) && fmt.isNone && decide (tag ≠ .e2m1x2)
        ∃ (n : Nat) (free : Nat → Nat), m.dstRegs tag = some n ∧
          Elementwise s t c m d n (dstBits dt ds) per act (decide (round = .sr) && !open') fun p k =>
            cvtTo (cvtFmtOf dt ds) round sat (if open' then free p else k)
              (cvtValue (cvtFmtOf tag m.form.sew) (src x (p / per) / 2 ^ (4 * (p % per))))) ∧
      (∀ k d x, m.work = .grow k d x →
        let per := if k = .i4 then 2 else 1
        ∃ n, m.dstRegs tag = some n ∧ Elementwise s t c m d n 8 per act false fun p _ =>
          plain (expandTo k (src x (p / per) % 256) (p % per))) ∧
      -- VTAG records a shape, and changes no bit
      (∀ d tg, m.work = .vtag d tg → Ends s t c 0 0 ∧ t.hart.vec.m = v.m ∧
        ∀ i, t.hart.vec.reg i =
          if d.toNat ≤ i ∧ i < d.toNat + g then { v.reg i with tag := tg, sew := m.form.sew, grp := m.form.grp } else v.reg i)) ∧
 (∀ (s t : State) (c k : Convoy) (m : VMember) (d : VReg) (a : VAt) (q q' : List Convoy),
    let w := sewBits m.form.sew
    let n := w / 8
    let g := grpRegs m.form.grp
    let place : Nat → Nat := fun e => ((elementAt s m a e).getD 0).toNat
    let active : Nat → Bool := fun e =>
      (decide (m.mask = 0) || (s.hart.vec.mask m.mask.toNat).testBit e) && (elementAt s m a e).isSome
    s.hart.vec.queue = c :: q → c.members = [m] → c.held = false → c.restart = false → c.upTo = 0 → c.done = none → m.wrote = [] →
    m.tag = none → m.level = .firm → m.vn ≤ m.form.vlmax →
    (∀ e, e < m.vn → active e = true → place e % n = 0 ∧ place e + n ≤ 2 ^ 39) →
    s.lostDies = [] → s.poison = [] → s.migs = [] → MemOk s → (∀ e ∈ s.coh.l2, e.2.ahead = []) →
    exec .convoyStart s = .next t → t.hart.vec.queue = k :: q' → k.done ≠ none →
    t.hart.g = s.hart.g ∧ t.hart.pc = s.hart.pc ∧
    (∀ tg, m.work = .load d a tg false →
      t.mem = s.mem ∧ Filled s t m d g w 1 m.vn active fun e => numOf (s.memBytes (place e) n)) ∧
    (∀ u, m.work = .store d a u →
      t.hart.vec.v = s.hart.vec.v ∧ t.hart.vec.m = s.hart.vec.m ∧
      (∀ e i, e < m.vn → active e = true → i < n →
        (∀ e', e' < m.vn → active e' = true → e' ≠ e → place e' = place e → u = false ∧ e' < e) →
        readByte t.mem (place e + i) = BitVec.ofNat 8 (elemOf (s.hart.vec.group d g) w e / 2 ^ (8 * i))) ∧
      (∀ x, (∀ e, e < m.vn → active e = true → x < place e ∨ place e + n ≤ x) → readByte t.mem x = readByte s.mem x)))

/-! ### Matrix instructions -/

/-- R320, R326, R335 to R343: the matrix instructions enter the matrix queue with their general operands captured.
MMAS captures the address of its stream register and moves the cursor on by 1; MEXT sets LDV; MRING captures the
visits of the shape that the queue ahead of it leaves. R329: MWAIT completes once the matrix queue holds nothing
older and the stores before it are performed (R182), and only then merges the matrix flags into SY.FFLAGS; until then it
waits, with nothing changed; a merged flag that SY.FENABLE enables is then reported, with VEC set. That held work is not
awaited (log 40), that MRING sees the shape that the queue ahead of it leaves (log 51), and that MWAIT awaits the stores of
every parish (log 71), are the model's. -/
def Obligations.MatrixDispatchAndWait : Prop :=
  (∀ s : State,
     let b := s.hart.src []
     (∀ a r, DispatchesMat s (.mattach a r) (encBits (.mattach a r)) [r] a 0
       (.attach (if a = 31 then .msg ((s.hart.open'.map fun m => m.taken).getD 0) else .reg a) (b r))) ∧
     DispatchesMat s .mdetach (encBits .mdetach) [] 0 0 .detach ∧
     (∀ r, DispatchesMat s (.mshape r) (encBits (.mshape r)) [r] 0 0 (.shape (b r))) ∧
     (∀ t r c, DispatchesMat s (.mtld t r c) (encBits (.mtld t r c)) [r, c] 0 0 (.ld t (b r) (s.hart.src [r] c))) ∧
     (∀ k r c, DispatchesMat s (.mtldk k r c) (encBits (.mtldk k r c)) [r, c] 0 0 (.ldk k (b r) (s.hart.src [r] c))) ∧
     (∀ t r c, DispatchesMat s (.mtst t r c) (encBits (.mtst t r c)) [r, c] 0 0 (.st t (b r) (s.hart.src [r] c))) ∧
     DispatchesMat s .mzero (encBits .mzero) [] 0 0 .zero ∧
     DispatchesMat s .mrel (encBits .mrel) [] 0 0 .rel ∧
     (∀ t n, DispatchesMat s (.mring t n) (encBits (.mring t n)) [] 0 0
       (.ring t n ((s.hart.shapeAhead.extractLsb' 21 3).toNat + 1))) ∧
     (∀ o, DispatchesMat s (.mma o) (encBits (.mma o)) [] 0 0 (.mma o)) ∧
     (∀ o k,
       let w := s.hart.vec.stream k
       DispatchesMat s (.mmas o k) (encBits (.mmas o k)) [] 0 0
         (.mmas o k (w.base + w.cursor.setWidth 64 * w.stride.signExtend 64)) true id
         (fun t => t.putStream k { w with cursor := w.cursor + 1 })) ∧
     (∀ a c relu f m, DispatchesMat s (.mext a c relu f m) (encBits (.mext a c relu f m)) [c] 0 m (.ext a (b c) relu f) true
       (fun v => { v with ldv := a })) ∧
     (∀ a r c relu f m, DispatchesMat s (.mextst a r c relu f m) (encBits (.mextst a r c relu f m)) [r, c] 0 m
       (.extst a (b r) (s.hart.src [r] c) relu f) true)) ∧
  (∀ s : State, s.carriesHere .M = true →
     (s.hart.liveMats = [] → s.storesPending .device = false → s.hart.mat.flags &&& s.hart.fenable = 0 →
       ∃ t, exec .mwait s = .next t ∧
         Retired { s with hart := { s.hart with
           fflags := s.hart.fflags ||| s.hart.mat.flags, mat := { s.hart.mat with flags := 0 } } } t [] 0 0
           (s.hart.pc + 4) .m) ∧
     (s.hart.liveMats = [] → s.storesPending .device = false → s.hart.mat.flags &&& s.hart.fenable ≠ 0 → s.hart.status.priv = .firm →
       s.hart.status.fbusy = false →
       ∃ t, exec .mwait s = .next t ∧ t.hart.fflags = s.hart.fflags ||| s.hart.mat.flags ∧ t.hart.bankF.cause = 0x80C ∧
         t.hart.bankF.pc = s.hart.pc + 4 ∧ t.hart.bankF.val = (s.hart.mat.flags &&& s.hart.fenable).setWidth 64) ∧
     (s.hart.liveMats ≠ [] ∨ s.storesPending .device = true → ∃ t, exec .mwait s = .next t ∧ t.hart.wait = .parked ∧ t.hart.pc = s.hart.pc ∧
       t.hart.fflags = s.hart.fflags ∧ t.hart.mat = s.hart.mat ∧ t.hart.g = s.hart.g))

/-- R318, R325, R326, R336: what the matrix instruction at the head of the queue does when it runs. MSHAPE takes a value
that it accepts and stops with cause 0x09 for any other, the encoding as the value; MZERO clears the rows of the grant and
no others, and without a grant stops with cause 0x0A. R332 to R334, R339: MMA of two tiles adds, in the rows of the grant
and the 64 columns that it names, the products of the blocks of 32 elements of the tiles' rows, block after block: in
sint8 modulo 2^32, in the other formats with one rounding to nearest of accumulator and block where no product is cut. No
other row or column, no byte of memory and no other croft changes. -/
def Obligations.MatrixQueueRuns : Prop :=
 (∀ (s : State) (m : MMember) (q : List MMember), s.hart.mat.queue = m :: q → m.held = false → m.level = .firm →
    s.hart.status.priv = .firm → s.hart.status.fbusy = false →
    (∀ v, m.work = .shape v →
      (shapeOk v = true → ∃ t, s.startMat = some t ∧ t.hart.mat = { s.hart.mat with shape := v, queue := q } ∧
        t.hart.instret = s.hart.instret + 1 ∧ t.mem = s.mem ∧ t.crofts = s.crofts ∧ t.hart.g = s.hart.g) ∧
      (shapeOk v = false → ∃ t, s.startMat = some t ∧ t.hart.mat.shape = s.hart.mat.shape ∧
        t.hart.bankF.cause = 0x809 ∧ t.hart.bankF.val = m.enc ∧ t.hart.mat.queue.length = q.length + 1)) ∧
    (m.work = .zero →
      (s.hart.mat.grantRows ≠ 0 → ∃ t, s.startMat = some t ∧ t.hart.mat.queue = q ∧ t.mem = s.mem ∧
        ∀ row, alGet 0 row (t.croft (croftOf s.here.core)).acc =
          if s.hart.mat.grantBase ≤ row ∧ row < s.hart.mat.grantBase + s.hart.mat.grantRows then 0
          else alGet 0 row (s.croft (croftOf s.here.core)).acc) ∧
      (s.hart.mat.grantRows = 0 → ∃ t, s.startMat = some t ∧ t.crofts = s.crofts ∧ t.hart.bankF.cause = 0x80A ∧
        t.hart.bankF.val = m.enc)) ∧
    (∀ o u, m.work = .mma o → o.b = .tile u → s.hart.mat.grantRows = 0 →
      ∃ t, s.startMat = some t ∧ t.crofts = s.crofts ∧ t.hart.bankF.cause = 0x80A ∧ t.hart.bankF.val = m.enc) ∧
    (∀ o u, m.work = .mma o → o.b = .tile u → s.hart.mat.grantRows ≠ 0 → shapeOk s.hart.mat.shape = true →
      let x := s.hart.mat
      let me := croftOf s.here.core
      let a : Nat := (x.tile o.t).toNat
      let b : Nat := (x.tile u).toNat
      let col := 64 * o.cb.toNat
      let el : Nat → Nat → Nat → Nat → Nat → Nat := fun tile w row blk i => tile / 2 ^ (1024 * row + w * (32 * blk + i)) % 2 ^ w
      ∃ t, s.startMat = some t ∧ t.hart.mat.queue = q ∧ t.mem = s.mem ∧ t.hart.g = s.hart.g ∧
        t.hart.instret = s.hart.instret + 1 ∧ (∀ k, k ≠ me → t.croft k = s.croft k) ∧
        (∀ row, row < x.grantBase ∨ x.grantBase + x.grantRows ≤ row → (t.croft me).row row = (s.croft me).row row) ∧
        (∀ l j, l < x.grantRows → (j < col ∨ col + 64 ≤ j) → j < 512 →
          rowGet ((t.croft me).row (x.grantBase + l)) j = rowGet ((s.croft me).row (x.grantBase + l)) j) ∧
        (∀ l j, l < x.grantRows → j < 64 →
          let old := rowGet ((s.croft me).row (x.grantBase + l)) (col + j)
          let new := rowGet ((t.croft me).row (x.grantBase + l)) (col + j)
          let sx : Nat → Int := fun v => if 128 ≤ v then (v : Int) - 256 else v
          (shapeCF x.shape = true →
            (new : Int) = ((old : Int) + ((List.range (32 * shapeKB x.shape)).map fun i =>
              sx (el a 8 l 0 i) * sx (el b 8 j 0 i)).sum) % 2 ^ 32) ∧
          (∀ fa fb, matFmt (shapeAF x.shape) = some fa → matFmt (shapeBF x.shape) = some fb →
            new = (List.range (shapeKB x.shape)).foldl (fun acc blk =>
              (mmaBlock acc ((List.range 32).map fun i =>
                (matProduct fa fb (el a fa.width l blk i) (el b fb.width j blk i)
                  (if shapeSCA x.shape then some ((x.scaleTile o.ka).toNat / 2 ^ (64 * l + 8 * blk) % 256) else none)
                  (if shapeSCB x.shape then some ((x.scaleTile o.kb).toNat / 2 ^ (64 * j + 8 * blk) % 256) else none)).1)).1)
              old)))) ∧
 (∀ (acc : Nat) (v : Int) (ps : List Ex), unitsOf .fp32 acc = some v →
    (∀ x ∈ ps, x.sticky = false ∧ -1074 ≤ x.e ∧ ∀ y ∈ ps, x.m ≠ 0 → y.m ≠ 0 → y.top ≤ x.e + 60) →
    let r := mmaBlock acc (ps.map FpNum.fin)
    Rounds .fp32 .rne { code := r.1, flags := r.2 }
      (v + (ps.map fun x => (if x.neg then -1 else 1) * ((x.m * 2 ^ (x.e + 1074).toNat : Nat) : Int)).sum) 1)

/-! ### Moots, tasks and messages -/

/-- R368 to R371: the status that MOOTNEW, MOOTJOIN, MOOTLEAVE and MOOTFREE give, and the record and the handle after
them. A handle in the wrong state is cause 0x07 (R352). A departure is a release at the scope that the member has, and
waits for the stores that it orders (R365). While the table is out of reach, its parish not in RUN or a link to it not
ACTIVE, the hart waits with nothing done (R200, R471). That MOOTFREE of a bound handle whose record is gone answers OK, and
that MOOTNEW of a name whose home is lost is not turned away (log 62), that a handle is checked before operands are awaited
(log 35), and that a departure awaits the stores of every parish (log 71), are the model's. -/
def Obligations.MootRecords : Prop :=
  ∀ (s : State) (a b c : GReg) (x : BitVec 3),
    (∀ h, s.hart.handle x = some h →
      exec (.mootnew a b c x) s = .next (s.trap 0x07 (x.setWidth 64)) ∧
      exec (.mootjoin a b x) s = .next (s.trap 0x07 (x.setWidth 64))) ∧
    (s.hart.handle x = none →
      exec (.mootleave x) s = .next (s.trap 0x07 (x.setWidth 64)) ∧
      exec (.mootfree a x) s = .next (s.trap 0x07 (x.setWidth 64))) ∧
    -- MOOTNEW (R368)
    (s.hart.handle x = none → Ready s [b, c] a →
      let name := s.hart.src [] b
      let attr := s.hart.src [b] c
      let tbl : MootTable := if attr.toNat % 4 = 0 then .parish s.pp else .device
      let bad : Prop := 16 ≤ attr.toNat ∨ attr.toNat % 4 = 3
      (name = 0 → GivesFrom s s (.mootnew a b c x) [b, c] a 5 4) ∧
      (name ≠ 0 → bad → GivesFrom s s (.mootnew a b c x) [b, c] a 6 4) ∧
      (∀ u, name ≠ 0 → ¬ bad → s.tableWait tbl name = some u → exec (.mootnew a b c x) s = .next u) ∧
      (name ≠ 0 → ¬ bad → s.tableWait tbl name = none → (∃ m ∈ s.mootsOf tbl, m.name = name) →
        GivesFrom s s (.mootnew a b c x) [b, c] a 3 4) ∧
      (name ≠ 0 → ¬ bad → s.tableWait tbl name = none → (∀ m ∈ s.mootsOf tbl, m.name ≠ name) →
        (s.sliceFull tbl name = true → GivesFrom s s (.mootnew a b c x) [b, c] a 2 4) ∧
        (s.sliceFull tbl name = false →
          GivesFrom s ((s.setMoots tbl (s.mootsOf tbl ++ [Moot.fresh name attr s.here.core.die])).setHandle x
            (some { table := tbl, name := name, member := 0, na := 0, await := none }))
            (.mootnew a b c x) [b, c] a 0 4))) ∧
    -- MOOTJOIN (R369)
    (s.hart.handle x = none → Ready s [b] a →
      let name := s.hart.src [] b
      let gives (T : State) (v : Word) := GivesFrom s T (.mootjoin a b x) [b] a v 4
      (name = 0 → gives s 5) ∧
      (∀ u, name ≠ 0 → s.moot (.parish s.pp) name = none → s.tableWait .device name = some u →
        exec (.mootjoin a b x) s = .next u) ∧
      (name ≠ 0 → s.moot (.parish s.pp) name = none → s.tableWait .device name = none → s.moot .device name = none →
        gives s 4) ∧
      (∀ tbl m, name ≠ 0 → s.moot tbl name = some m →
        (tbl = .parish s.pp ∨
          (tbl = .device ∧ s.moot (.parish s.pp) name = none ∧ s.tableWait .device name = none)) →
        let lost : Prop := m.members = 0 ∨ (tbl = .device ∧ mootHome name ∈ s.lostDies)
        let far : Prop := m.scope = 1 ∧ m.die ≠ s.here.core.die
        let most := if m.cosched then 4096 else 65535
        (lost → gives s 4) ∧
        (¬ lost → far → gives s 7) ∧
        (¬ lost → ¬ far → m.breaking = true → gives s 11) ∧
        (¬ lost → ¬ far → m.breaking = false → s.hart.memberOf tbl name = true → gives s 12) ∧
        (¬ lost → ¬ far → m.breaking = false → s.hart.memberOf tbl name = false → most ≤ m.members → gives s 8) ∧
        (¬ lost → ¬ far → m.breaking = false → s.hart.memberOf tbl name = false → m.members < most →
          gives ((s.setMoot tbl { m with
              joiners := m.joiners ++ [MootMember.fresh m.nextId], nextId := m.nextId + 1 }).setHandle x
            (some { table := tbl, name := name, member := m.nextId, na := m.gen + 1, await := none })) 0))) ∧
    -- MOOTLEAVE and MOOTFREE (R370, R371)
    (∀ h u, s.hart.handle x = some h → s.tableWait h.table h.name = some u →
      exec (.mootleave x) s = .next u ∧ (Ready s [] a → exec (.mootfree a x) s = .next u)) ∧
    (∀ h, s.hart.handle x = some h → s.tableWait h.table h.name = none →
      (s.arrivalWaits h = true → exec (.mootleave x) s = .next s.stall) ∧
      (s.arrivalWaits h = false →
        GivesFrom s ((s.leaveHandle h h.await.isSome false).setHandle x none) (.mootleave x) [] 0 0 4) ∧
      (Ready s [] a →
        (s.moot h.table h.name = none → GivesFrom s (s.setHandle x none) (.mootfree a x) [] a 0 4) ∧
        (∀ m, s.moot h.table h.name = some m →
          (1 < m.members → GivesFrom s s (.mootfree a x) [] a 9 4) ∧
          (m.members ≤ 1 → m.pend ≠ 0 → GivesFrom s s (.mootfree a x) [] a 10 4) ∧
          (m.members ≤ 1 → m.pend = 0 →
            GivesFrom s ((s.delMoot h.table h.name).setHandle x none) (.mootfree a x) [] a 0 4))))

/-- R372 to R376, R360, R362, R365: an arrival, a wait for a generation, and the two halves of an instruction that arrives
and waits. An arrival is a release, and waits for the stores that it orders. A word that an arrival popped is again the
head of the arrival queue when the moot breaks (R93). One that awaits a generation after that in which the moot broke takes
cause 0x08, whatever has completed since (R360). A MOOTWAIT that is parked for a generation completes once that has
completed, although the moot has broken since (R373). While the table is out of reach the hart waits (R200, R471). That
handles and broken moots are checked before operands are awaited (log 35), and that an arrival awaits the stores of every
parish (log 71), are the model's. -/
def Obligations.MootArrivals : Prop :=
  ∀ (s : State) (a b : GReg) (t : MootType) (x : BitVec 3),
    (s.hart.handle x = none →
      exec (.mootarrive a x) s = .next (s.trap 0x07 (x.setWidth 64)) ∧
      exec (.mootwait a b x) s = .next (s.trap 0x07 (x.setWidth 64)) ∧
      exec (.mootsync a x) s = .next (s.trap 0x07 (x.setWidth 64))) ∧
    (∀ h u, s.hart.handle x = some h → s.tableWait h.table h.name = some u →
      exec (.mootarrive a x) s = .next u ∧ exec (.mootsync a x) s = .next u ∧
      (Ready s [b] a → exec (.mootwait a b x) s = .next u)) ∧
    (∀ h m, s.hart.handle x = some h → s.tableWait h.table h.name = none → s.moot h.table h.name = some m →
      -- MOOTARRIVE (R372)
      (m.broken = true → exec (.mootarrive a x) s = .next (s.trap 0x08 (x.setWidth 64))) ∧
      (m.broken = false → Ready s [] a →
        (h.na = m.gen + 2 ∨ s.arrivalWaits h = true → exec (.mootarrive a x) s = .next s.stall) ∧
        (h.na ≠ m.gen + 2 → s.arrivalWaits h = false →
          GivesFrom s ((s.checkMoot h.table (m.arrive h.member (h.na != m.gen) none)).setHandle x
            (some { h with na := h.na + 1 })) (.mootarrive a x) [] a (h.na.setWidth 64) 4)) ∧
      -- MOOTWAIT (R373)
      (Ready s [b] a →
        let w := (s.hart.src [] b).setWidth 32
        let passed : Prop := 1 ≤ (m.gen - w).toNat ∧ (m.gen - w).toNat ≤ 2 ^ 31
        let bad : Prop := m.broken = true ∧ w ≠ m.brokeGen ∧
          ¬ (h.parked = some w ∧ 1 ≤ (m.brokeGen - w).toNat ∧ (m.brokeGen - w).toNat ≤ 2 ^ 31)
        let T := s.setHandle x (some { h with parked := none })
        (bad → exec (.mootwait a b x) s = .next (T.trap 0x08 (x.setWidth 64))) ∧
        (¬ bad → passed → m.broken = true → w = m.brokeGen → GivesFrom s T (.mootwait a b x) [b] a 1 4) ∧
        (¬ bad → passed → ¬ (m.broken = true ∧ w = m.brokeGen) → GivesFrom s T (.mootwait a b x) [b] a 0 4) ∧
        (¬ bad → ¬ passed → exec (.mootwait a b x) s = .next (s.setHandle x (some { h with parked := some w })).stall)) ∧
      -- MOOTSYNC, MOOTVOTE and MOOTRED that await nothing yet: they arrive, and go on as far as the generation has come
      (∀ i srcs c, (i, srcs, c) ∈ ([(.mootsync a x, [], none),
          (.mootvoteAll a b x, [b], some (.all, s.hart.src [] b)), (.mootvoteAny a b x, [b], some (.any, s.hart.src [] b)),
          (.mootvoteCount a b x, [b], some (.count, s.hart.src [] b)),
          (.mootredAdd a b t x, [b], some (.red .add t, s.hart.src [] b)),
          (.mootredMin a b t x, [b], some (.red .min t, s.hart.src [] b)),
          (.mootredMax a b t x, [b], some (.red .max t, s.hart.src [] b)),
          (.mootredAnd a b x, [b], some (.red .and .uint, s.hart.src [] b)),
          (.mootredOr a b x, [b], some (.red .or .uint, s.hart.src [] b)),
          (.mootredXor a b x, [b], some (.red .xor .uint, s.hart.src [] b))] :
            List (Instr × List GReg × Option (MootOp × Word))) →
        (h.await = none → m.broken = true → exec i s = .next (s.trap 0x08 (x.setWidth 64))) ∧
        (h.await = none → m.broken = false → Ready s srcs a → h.na = m.gen + 2 ∨ s.arrivalWaits h = true →
          exec i s = .next s.stall) ∧
        (h.await = none → m.broken = false → Ready s srcs a → h.na ≠ m.gen + 2 → s.arrivalWaits h = false →
          exec i s = .next ((s.arriveAt x h m c true).await a x srcs none)) ∧
        -- and those that await a generation
        (∀ aw, h.await = some aw → Ready s [] a →
          let passed : Prop := 1 ≤ (m.gen - aw.gen).toNat ∧ (m.gen - aw.gen).toNat ≤ 2 ^ 31
          let T := s.setHandle x (some { h with await := none })
          let back := if srcs.any (fun r => r == 31) then
            { T with hart := { T.hart with words := aw.operand :: T.hart.words, wordsHere := T.hart.wordsHere + 1 } } else T
          let lost : Prop := m.broken = true ∧ aw.gen = m.brokeGen
          let later : Prop :=
            m.broken = true ∧ 1 ≤ (aw.gen - m.brokeGen).toNat ∧ (aw.gen - m.brokeGen).toNat ≤ 2 ^ 31
          (later → exec i s = .next (back.trap 0x08 (x.setWidth 64))) ∧
          (passed → ¬ lost → ¬ later → aw.op = none → GivesFrom s T i [] a 0 4) ∧
          (passed → lost → aw.op = none → GivesFrom s T i [] a 1 4) ∧
          (passed → ¬ lost → ¬ later → aw.op ≠ none →
            GivesFrom s { T with hart := T.hart.raise m.rflags } i [] a m.result 4) ∧
          (passed → lost → aw.op ≠ none → exec i s = .next (back.trap 0x08 (x.setWidth 64))) ∧
          (m.broken = false → ¬ passed → exec i s = .next s.stall) ∧
          (m.broken = true → ¬ passed → exec i s = .next (back.trap 0x08 (x.setWidth 64))))))

/-- R377, R378, R379: expected bytes, queries of a moot, and the gang barrier. An arrival at the barrier is a release, and
waits for the stores that it orders; a waiter outside the gang's parish waits until they are performed for it too. While a
table is out of reach, the hart waits (R200, R471). That these stores are those of every parish (log 71), and that a moot
shows as broken in the step of a loss (log 35), are the model's. -/
def Obligations.MootQueriesAndGangBarrier : Prop :=
  (∀ (s : State) (a b : GReg) (x : BitVec 3) (h : Handle) (m : Moot),
    s.hart.handle x = some h → s.tableWait h.table h.name = none → s.moot h.table h.name = some m →
    (Ready s [b] 0 →
      let n := (s.hart.src [] b).toNat % 2 ^ 56
      (m.pend + n < 2 ^ 56 →
        GivesFrom s (s.checkMoot h.table { m with pend := m.pend + n }) (.mootbytes b x) [b] 0 0 4) ∧
      (2 ^ 56 ≤ m.pend + n →
        GivesFrom s (s.checkMoot h.table { m with pend := 2 ^ 56 - 1, err := true }) (.mootbytes b x) [b] 0 0 4)) ∧
    (Ready s [b] a →
      let sel := s.hart.src [] b
      (sel = 0 → Gives s (.mootquery a b x) [b] a (m.gen.setWidth 64) 4) ∧
      (sel = 1 → Gives s (.mootquery a b x) [b] a (m.rank h.member) 4) ∧
      (sel = 2 → Gives s (.mootquery a b x) [b] a (BitVec.ofNat 64 m.counted.length) 4) ∧
      (sel = 3 → Gives s (.mootquery a b x) [b] a
        (BitVec.ofNat 64 (m.counted.filter fun y => y.left || y.arr0).length) 4) ∧
      (sel = 4 → Gives s (.mootquery a b x) [b] a (BitVec.ofNat 64 m.pend) 4) ∧
      (sel = 5 → ∃ w, Gives s (.mootquery a b x) [b] a w 4 ∧
        w.extractLsb' 0 2 = m.scope ∧ w.getLsbD 2 = m.tol ∧ w.getLsbD 3 = m.cosched ∧ w.extractLsb' 4 4 = 0 ∧
        w.getLsbD 8 = m.breaking ∧ w.extractLsb' 10 6 = 0 ∧
        w.getLsbD 9 = m.err ∧ (w.extractLsb' 16 16).toNat = m.lostcnt % 65536 ∧
        (w.extractLsb' 32 16).toNat = m.members % 65536 ∧ w.extractLsb' 48 16 = 0) ∧
      (sel = 6 → Gives s (.mootquery a b x) [b] a m.name 4) ∧
      (7 ≤ sel.toNat → Gives s (.mootquery a b x) [b] a 0xFFFFFFFFFFFFFFFF 4))) ∧
  (∀ s : State,
    (s.hart.gang = none → GivesFrom s s .gbar [] 0 0 4) ∧
    (∀ r u, s.hart.gang = some r → s.parishWait r.home = some u → exec .gbar s = .next u) ∧
    (∀ r g, s.hart.gang = some r → s.parishWait r.home = none → s.gangOf r = some g →
      let arr := g.arr ||| (1#16 <<< r.rank)
      let here : Prop := g.parish = s.pp
      let late : Prop := g.arr &&& (1#16 <<< r.rank) = 0 ∧
        (here → s.storesPending .parish = true) ∧ (¬ here → s.storesPending .device = true)
      let seen : Prop := here ∨ s.storesPending .device = false
      (r.count = g.gen → late → exec .gbar s = .next s.stall) ∧
      (r.count = g.gen → ¬ late → arr &&& g.live = g.live → g.live ≠ 0 →
        let T := s.setGang r.home { g with arr := 0, gen := g.gen + 1 }
        (seen → GivesFrom s { T with hart := { s.hart with gang := some { r with count := g.gen + 1 } } } .gbar [] 0 0 4) ∧
        (¬ seen → exec .gbar s = .next T.stall)) ∧
      (r.count = g.gen → ¬ late → ¬ (arr &&& g.live = g.live ∧ g.live ≠ 0) →
        exec .gbar s = .next (s.setGang r.home { g with arr := arr }).stall) ∧
      (r.count ≠ g.gen → ¬ (g.arr &&& g.live = g.live ∧ g.live ≠ 0) →
        let T := s.setGang r.home g
        (seen → GivesFrom s { T with hart := { s.hart with gang := some { r with count := g.gen } } } .gbar [] 0 0 4) ∧
        (¬ seen → exec .gbar s = .next T.stall))))

/-- R389, R391, R393: SPAWN queues the task and counts its children, JOIN waits for none to be left, and TASKEND and
MSGDONE end the task, count it off at its parent, and leave the context free. A SPAWN that succeeds and the end of a task
wait for the hart's stores to be performed at DEVICE (R394, R182), and for those of every parish, which is the model's (log
71); JOIN and the end wait while a table that they need is out of reach (R200, R471). -/
def Obligations.TasksCompleteAndEnd : Prop :=
  ∀ s : State,
    (∀ (a b c : GReg) (p : BitVec 2), Ready s [b, c] a →
      let d := s.hart.src [] b
      let arg := s.hart.src [b] c
      let n := (d.extractLsb' 60 4).toNat + 1
      let kind := (d.extractLsb' 58 2).toNat
      let refused (k : Nat) := GivesFrom s s (.spawn a b c p) [b, c] a (0x8000000000000000 + BitVec.ofNat 64 k) 4
      let malformed : Prop := d.extractLsb' 56 2 ≠ 0 ∨ d.getLsbD 0 = true
      let noKind : Prop :=
        (kind = 2 ∧ Config.hasCore s.member .V = false) ∨ (kind = 3 ∧ Config.hasCore s.member .T = false)
      let room : Prop :=
        s.tableRoom s.pp n = true ∧ s.queueRoom (s.queueParish s.pp) = true ∧ s.joinRoom n = true
      (malformed → refused 1) ∧
      (¬ malformed → 1 < n → kind = 0 → refused 2) ∧
      (¬ malformed → (n = 1 ∨ kind ≠ 0) → noKind → refused 3) ∧
      (¬ malformed → (n = 1 ∨ kind ≠ 0) → ¬ noKind → ¬ room → refused 4) ∧
      (¬ malformed → (n = 1 ∨ kind ≠ 0) → ¬ noKind → room → s.storesPending .device = true →
        exec (.spawn a b c p) s = .next s.stall) ∧
      (¬ malformed → (n = 1 ∨ kind ≠ 0) → ¬ noKind → room → s.storesPending .device = false →
        let q := s.newTasks s.pp n
        let r : TaskRec :=
          { desc := d, arg := arg, id := q.1, parent := s.hart.taskId
            ctx := { asid := s.hart.asid, ptroot := s.hart.ptroot, ccid := s.hart.ccid, frm := s.hart.frm }
            prio := p.toNat, level := p.toNat, kill := false, cosched := decide (1 < n), mixctl := s.hart.mixctl
            resume := none, left := some s.here.core, since := 0, slot := none }
        GivesFrom s ((q.2.enqueue s.pp r).updTask s.hart.taskId fun e => { e with join := e.join + BitVec.ofNat 32 n })
          (.spawn a b c p) [b, c] a (q.1.setWidth 64) 4)) ∧
    (∀ u, s.parishWait (homeOfTask s.hart.taskId) = some u → exec .join s = .next u) ∧
    (s.parishWait (homeOfTask s.hart.taskId) = none → ∀ e, s.taskEntry s.hart.taskId = some e →
      (e.join = 0 → GivesFrom s s .join [] 0 0 4) ∧ (e.join ≠ 0 → exec .join s = .next s.stall)) ∧
    (∀ i, i = .taskend ∨ i = .msgdone → s.hart.queuesIdle = false ∨ s.storesPending .device = true →
      exec i s = .next s.stall) ∧
    (∀ i u, i = .taskend ∨ i = .msgdone → s.hart.queuesIdle = true → s.storesPending .device = false →
      s.endWait = some u → exec i s = .next u) ∧
    (s.hart.queuesIdle = true → s.storesPending .device = false → s.endWait = none → ∀ i, i = .taskend ∨ i = .msgdone →
      ∃ t, exec i s = .next t ∧ t.hart.wait = .vacant ∧ t.mem = s.mem ∧ t.others = s.others ∧
        (∀ p e, s.hart.parent = p → p ≠ 0 → p ≠ s.hart.taskId → s.taskEntry p = some e → e.ended = false → e.join ≠ 0 →
          t.taskEntry p = some { e with join := e.join - 1 }))

/-- R402 to R407, R411, R489: opening a message, counting the words that wait, and a message on its way to a context: one
that starts its handler in a free context, one whose words join those of a hart that runs, and a stray one, which starts the
stray handler at SUPER or is discarded. The model's own are: that a message to a core of a lost die is dropped when it
departs (log 39), that a message waits for an entry of the live-task table (log 79), and that a context reserved for a group
is not free (log 80). -/
def Obligations.MessagesMove : Prop :=
  ∀ s : State,
    (∀ (b c : GReg) (core : Bool), Ready s [b, c] 0 →
      let d := s.hart.src [] b
      let n := s.hart.src [b] c
      let dest : CoreId :=
        { die := (d.extractLsb' 13 4).toNat, parish := (d.extractLsb' 8 5).toNat, core := (d.extractLsb' 3 5).toNat }
      let fits : Prop := s.hart.open' = none ∧ 1 ≤ n.toNat ∧ n.toNat ≤ 32 ∧ Config.coreExists s.member dest = true ∧
        (core = true ∨ (d.extractLsb' 0 3).toNat < Config.hartsOf (Config.classOf s.member dest))
      let m : OpenMsg :=
        { dest := dest, hart := if core then none else some (d.extractLsb' 0 3).toNat
          words := List.replicate n.toNat none, taken := 0 }
      (fits → GivesFrom s { s with hart := { s.hart with open' := some m } } (.msgopen b c core) [b, c] 0 0 4) ∧
      (¬ fits → exec (.msgopen b c core) s = .next (s.trap 0x0B 0))) ∧
    (∀ a, Ready s [] a → Gives s (.msgpoll a) [] a (BitVec.ofNat 64 s.hart.words.length) 4) ∧
    -- MESSAGE_DEPARTURE of the message that leaves next
    (∀ (c : CoreId) (m : Msg),
      ((∃ rest, (s.core c).depart.filter Msg.passes = m :: rest) ∨
        ((s.core c).depart.filter Msg.passes = [] ∧ (s.core c).depart.head? = some m)) →
      (m.dest.die ∈ s.lostDies → exec (.messageDeparture c) s = .next (s.undepart c m)) ∧
      (m.dest.die ∉ s.lostDies → s.runs (s.ppOf m.dest) = true → s.reaches c.die m.dest.die = true →
        s.sendWaits c m = false → s.replyTo m = none → s.arrivalUsed m.dest + m.words.length ≤ 64 →
        ∃ t, exec (.messageDeparture c) s = .next t ∧
          (t.core m.dest).arrival = (s.core m.dest).arrival ++ [m] ∧
          (t.core c).depart = dropFirst (fun y => y == m) (s.core c).depart ∧
          t.hart = s.hart ∧ t.others = s.others ∧ t.mem = s.mem)) ∧
    -- MESSAGE_DISPATCH of a message whose handler address passes its core's window
    (∀ (c : CoreId) (m : Msg) (rest : List Msg), (s.core c).arrival = m :: rest → m.reeve = false →
      s.runs (s.ppOf c) = true → s.recovery = false → c.die ∉ s.lostDies → m.words.headD 0 ≠ 0 →
      (s.core c).checkHandler (m.words.headD 0) = .passes →
      (∀ p, m.hart = none → s.freeContext c false = some p → s.tableRoom (s.ppOf c) 1 = true →
        ∃ t, exec (.messageDispatch c) s = .next t ∧ (t.core c).arrival = rest ∧
          (t.hartAt p).pc = m.words.headD 0 ∧ (t.hartAt p).status.priv = .task ∧
          (t.hartAt p).readG 4 = BitVec.ofNat 64 (m.words.length - 1) ∧ (t.hartAt p).readG 5 = m.sender ∧
          (t.hartAt p).readG 6 = 0 ∧ (t.hartAt p).words = m.words.drop 1 ∧ (t.hartAt p).wait = .running ∧
          t.mem = s.mem) ∧
      (∀ k, m.hart = some k → s.isFree { core := c, hart := k } = false →
        ∃ t, exec (.messageDispatch c) s = .next t ∧ (t.core c).arrival = rest ∧
          (t.hartAt { core := c, hart := k }).words = (s.hartAt { core := c, hart := k }).words ++ m.words ∧
          t.mem = s.mem) ∧
      (∀ k, m.hart = some k →
        let p : Place := { core := c, hart := k }
        s.isFree p = true → k ∈ s.taskContexts c → s.isReserved p = false → s.tableRoom (s.ppOf c) 1 = true →
        ∃ t, exec (.messageDispatch c) s = .next t ∧ (t.core c).arrival = rest ∧
          (t.hartAt p).pc = m.words.headD 0 ∧ (t.hartAt p).status.priv = .task ∧
          (t.hartAt p).readG 4 = BitVec.ofNat 64 (m.words.length - 1) ∧ (t.hartAt p).readG 5 = m.sender ∧
          (t.hartAt p).readG 6 = 0 ∧ (t.hartAt p).words = m.words.drop 1 ∧ (t.hartAt p).wait = .running ∧
          t.mem = s.mem)) ∧
    -- a stray message: ENTRY 0, or an address that its core's window refuses; with no handler for it, it is discarded and
    -- counted (R406, R407)
    (∀ (c : CoreId) (m : Msg) (rest : List Msg) (reason : Nat), (s.core c).arrival = m :: rest → m.reeve = false →
      s.runs (s.ppOf c) = true → s.recovery = false → c.die ∉ s.lostDies →
      (m.words.headD 0 = 0 ∧ reason = 3 ∨
        m.words.headD 0 ≠ 0 ∧ (s.core c).checkHandler (m.words.headD 0) = .fails reason) →
      ((s.core c).hstray.extractLsb' 3 61 = 0 →
        ∃ t, exec (.messageDispatch c) s = .next t ∧ (t.core c).arrival = rest ∧
          (t.core c).drops = (if (s.core c).drops = 0xFFFF then 0xFFFF else (s.core c).drops + 1) ∧
          t.hart = s.hart ∧ t.others = s.others ∧ t.mem = s.mem) ∧
      (∀ p, (s.core c).hstray.extractLsb' 3 61 ≠ 0 → s.freeContext c false = some p → s.tableRoom (s.ppOf c) 1 = true →
        ∃ t, exec (.messageDispatch c) s = .next t ∧ (t.core c).arrival = rest ∧ (t.core c).drops = (s.core c).drops ∧
          (t.core c).strays = (if (s.core c).strays = 0xFFFFFFFF then 0xFFFFFFFF else (s.core c).strays + 1) ∧
          (t.hartAt p).pc = (s.core c).hstray &&& ~~~7 ∧ (t.hartAt p).status = Status.start .super ∧
          (t.hartAt p).readG 4 = BitVec.ofNat 64 reason ∧ (t.hartAt p).readG 5 = m.sender ∧
          (t.hartAt p).readG 6 = BitVec.ofNat 64 m.words.length ∧ (t.hartAt p).words = m.words ∧
          (t.hartAt p).asid = (s.core c).strayCtx.asid ∧ (t.hartAt p).ptroot = (s.core c).strayCtx.ptroot ∧
          (t.hartAt p).wait = .running ∧ t.mem = s.mem)) ∧
    -- POST: a launch message departs from the slot, or the write is ignored
    (∀ (slot : BitVec 4) (v : Word),
      let n := (v.extractLsb' 0 6).toNat
      let ok : Prop := s.recovery = false ∧ ((s.postReg slot.toNat).extractLsb' 0 6) = 0 ∧ 1 ≤ n ∧ n ≤ 32
      let k : CoreId := { die := 0, parish := 31, core := slot.toNat }
      (¬ ok → exec (.post slot v) s = .next s) ∧
      (ok → ∃ t m, exec (.post slot v) s = .next t ∧ (t.core k).depart = (s.core k).depart ++ [m] ∧
        m.words = (List.range n).map (fun i => s.windowWord (slot.toNat * 32 + i)) ∧ m.hart = none ∧
        m.dest = { die := 0, parish := (v.extractLsb' 12 1).toNat, core := (v.extractLsb' 8 4).toNat } ∧
        ((t.postReg slot.toNat).extractLsb' 0 6).toNat = n ∧ t.hart = s.hart ∧ t.mem = s.mem)) ∧
    -- a host write of the message window: whole aligned words, or Unsupported Request
    (∀ (off : Nat) (data : List Byte),
      let ok : Prop := data ≠ [] ∧ data.length % 8 = 0 ∧ off % 8 = 0 ∧ off + data.length ≤ 0x1080
      (ok → exec (.hostBar0Write off data) s = .next (s.writeWindow off (wordsOf (data.length / 8) data))) ∧
      (¬ ok → exec (.hostBar0Write off data) s = .next { s with hostOut := s.hostOut ++ [.unsupported] }))
/-! ### The coherence protocol -/

/-- R191, R192, R467: what the home of a line does with GETS, GETX and UPG: it waits behind a transaction, and while the
line's channel changes its rate, answers from the well cache, removes the other copies, or forwards to the owner. That a line
in the well cache does not ask its channel is the model's (log 69). -/
def Obligations.CoherenceRequests : Prop :=
  ∀ (s : State) (pp line : Nat), s.mayAsk pp line = true →
    let d := s.coh.dirOf line
    let free : Prop := d.busy = false ∧ s.snooped line = false ∧ s.switchingOn line = false ∧
      ∀ x ∈ s.coh.waiting, x.line ≠ line
    let owned : Dir := { Dir.reset with st := .O, ptrs := [ptrCode pp] }
    let own (i : Instr) (m : CohMsg) := ∃ t, exec i s = .next t ∧ t.coh.dirOf line = owned ∧
      t.coh.inflight = s.coh.inflight ++ [m] ∧ t.coh.l2 = s.coh.l2 ∧ t.mem = s.mem ∧ t.hart = s.hart
    let forwards (i : Instr) (r : Req) (q : Nat) := ∃ t, exec i s = .next t ∧ (t.coh.dirOf line).busy = true ∧
      t.coh.inflight = s.coh.inflight ++ [.fwd q line] ∧
      t.coh.active = s.coh.active ++ [{ line := line, pp := pp, req := r }] ∧ t.coh.l2 = s.coh.l2 ∧ t.mem = s.mem ∧
      t.hart = s.hart
    (∀ i r, ((i, r) = (.gets pp line, .gets) ∨ (i, r) = (.getx pp line, .getx)) → s.coh.l2Of pp line = none →
      alHas (pp, line) s.coh.l2 = false →
      (¬ free → exec i s = .next { s with coh := { s.coh with
        waiting := s.coh.waiting ++ [{ line := line, pp := pp, req := r }] } }) ∧
      (free → d.st = .I → own i (.data pp line true false)) ∧
      (free → d.st = .O → ∀ q, s.lineOwner line = some q → q ≠ pp → s.dieOf q ∉ s.lostDies → forwards i r q)) ∧
    (alHas (pp, line) s.coh.l2 = false → free → d.st = .S → ∃ t, exec (.gets pp line) s = .next t ∧
      t.coh.dirOf line = d.addSharer pp ∧ t.coh.inflight = s.coh.inflight ++ [.data pp line false false] ∧ t.mem = s.mem) ∧
    -- GETX and UPG of a line in state S: INV to every other copy that the entry names
    (∀ i r, ((i = .getx pp line ∧ r = .getx ∧ alHas (pp, line) s.coh.l2 = false) ∨
        (i = .upg pp line ∧ r = .upg ∧ ∃ x, s.coh.l2Of pp line = some x ∧ x.owned = false)) →
      free → d.st = .S →
      let ps := (d.named s.member).filter fun p => p != pp && !s.lostDies.contains (s.dieOf p)
      let sendsData : Bool := r == .getx || !d.records pp
      (ps ≠ [] → ∃ t, exec i s = .next t ∧
        (t.coh.dirOf line).busy = true ∧ (t.coh.dirOf line).ackcnt = ps.length ∧
        t.coh.inflight = s.coh.inflight ++ ps.map (fun p => .inv p line) ++
          (if sendsData then [.data pp line true true] else []) ∧
        t.coh.active = s.coh.active ++ [{ line := line, pp := pp, req := r }] ∧ t.mem = s.mem) ∧
      (ps = [] → own i (if sendsData then .data pp line true false else .complete pp line true)))

/-- R191 to R193: evictions, invalidations and the answers that end a transaction. Each names the message that
has arrived; none of them changes a byte that a load returns. The model's own are: that PUTS and PUTX are handled at the home
in the event that evicts, and only PUT-ACK travels (log 25), and that a BISNP of shared memory is of one half of a 128-byte
line and may bring another agent's write (log 41), and that a DATA reply waits while a full L2 has no line that it may give
up (log 7). A requester of a lost die owns nothing, and no message goes to it (R465). -/
def Obligations.CoherenceMessages : Prop :=
  ∀ (s : State) (pp line : Nat),
    let d := s.coh.dirOf line
    let same (t : State) : Prop := t.mem = s.mem ∧ t.hart = s.hart ∧ t.others = s.others
    -- PUTS and PUTX
    (∀ i o, ((i, o) = (.puts pp line, false) ∨ (i, o) = (.putx pp line, true)) → s.mayEvict pp line o = true →
      ∃ t, exec i s = .next t ∧ t.coh.l2Of pp line = none ∧ alHas (pp, line) t.coh.evict = true ∧
        t.coh.inflight = s.coh.inflight ++ [.putAck pp line] ∧ same t ∧
        (d.busy = true ∨ d.records pp = false → t.coh.dirOf line = d) ∧
        (o = true → d.busy = false → d.st = .O → d.records pp = true → t.coh.dirOf line = Dir.reset) ∧
        (o = false → d.busy = false → d.st = .S → d.ovf = false → d.records pp = true →
          t.coh.dirOf line = (if (dropFirst (fun q => q == ptrCode pp) d.ptrs) = [] then Dir.reset
            else { d with ptrs := dropFirst (fun q => q == ptrCode pp) d.ptrs }))) ∧
    (s.nextMsg true pp line = some (.putAck pp line) → ∃ t, exec (.putAck pp line) s = .next t ∧
      alHas (pp, line) t.coh.evict = false ∧
      t.coh.inflight = dropFirst (fun x => x == .putAck pp line) s.coh.inflight ∧ same t) ∧
    -- INV and INV_ACK
    (s.nextMsg true pp line = some (.inv pp line) → s.wired pp line = true → ∃ t, exec (.inv pp line) s = .next t ∧
      t.coh.l2Of pp line = none ∧
      t.coh.inflight = dropFirst (fun x => x == .inv pp line) s.coh.inflight ++ [.invAck pp line] ∧
      t.coh.dir = s.coh.dir ∧ same t) ∧
    (s.nextMsg false pp line = some (.invAck pp line) → s.wired pp line = true → ∀ x, s.activeTx line = some x →
      (1 < d.ackcnt → ∃ t, exec (.invAck pp line) s = .next t ∧
        t.coh.dirOf line = { d with ackcnt := d.ackcnt - 1 } ∧ t.coh.active = s.coh.active ∧ same t) ∧
      (d.ackcnt ≤ 1 → (x.req = .getx ∨ x.req = .upg) → (∀ y ∈ s.coh.waiting, y.line ≠ line) → x.line = line →
        let gone := s.lostDies.contains (s.dieOf x.pp)
        ∃ t, exec (.invAck pp line) s = .next t ∧
          t.coh.dirOf line = (if gone then Dir.reset else { Dir.reset with st := .O, ptrs := [ptrCode x.pp] }) ∧
          t.coh.inflight = dropFirst (fun z => z == .invAck pp line) s.coh.inflight ++
            (if gone then [] else [.complete x.pp line true]) ∧
          t.coh.active = dropFirst (fun z => z == x) s.coh.active ∧ same t)) ∧
    -- FWD and FWD_DATA
    (s.nextMsg true pp line = some (.fwd pp line) → s.wired pp line = true →
      (s.coh.inflight.find? fun m => match m with | .fwd _ l => l == line | _ => false) = some (.fwd pp line) →
      ∃ t, exec (.fwd line) s = .next t ∧
        t.coh.inflight = dropFirst (fun x => x == .fwd pp line) s.coh.inflight ++ [.fwdData pp line] ∧
        (∀ x, s.activeTx line = some x → alHas (pp, line) s.coh.l2 = true →
          t.coh.l2Of pp line = (if x.req = .gets then some { L2.reset with valid := wholeLine line } else none)) ∧ same t) ∧
    ((s.coh.inflight.find? fun m => match m with | .fwdData _ l => l == line | _ => false) = some (.fwdData pp line) →
      s.wired pp line = true → ∀ x, s.activeTx line = some x → x.line = line → (∀ y ∈ s.coh.waiting, y.line ≠ line) →
      let gone := s.lostDies.contains (s.dieOf x.pp)
      (x.req = .gets → ∃ t, exec (.fwdData line) s = .next t ∧
        t.coh.dirOf line =
          { Dir.reset with st := .S, ptrs := if gone then [ptrCode pp] else [ptrCode pp, ptrCode x.pp] } ∧
        t.coh.inflight = dropFirst (fun z => z == .fwdData pp line) s.coh.inflight ++
          (if gone then [] else [.data x.pp line false false]) ∧
        t.coh.active = dropFirst (fun z => z == x) s.coh.active ∧ same t) ∧
      (x.req = .getx → ∃ t, exec (.fwdData line) s = .next t ∧
        t.coh.dirOf line = (if gone then Dir.reset else { Dir.reset with st := .O, ptrs := [ptrCode x.pp] }) ∧
        t.coh.inflight = dropFirst (fun z => z == .fwdData pp line) s.coh.inflight ++
          (if gone then [] else [.data x.pp line true false]) ∧
        t.coh.active = dropFirst (fun z => z == x) s.coh.active ∧ same t)) ∧
    -- DATA_REPLY and COMPLETE
    (∀ own pend, s.nextMsg true pp line = some (.data pp line own pend) → s.wired pp line = true →
      let room := (s.unsend (.data pp line own pend)).makeRoom pp line
      (room = none → exec (.dataReply pp line) s = .refused (.notEnabled "DATA_REPLY")) ∧
      (s.l2Count pp < s.l2Room pp → room ≠ none) ∧
      (room ≠ none → ∃ t, exec (.dataReply pp line) s = .next t ∧
        t.coh.l2Of pp line = some { L2.reset with
          owned := own, dirty := own && alHas line s.coh.below, pendingOwn := pend, valid := wholeLine line } ∧
        t.coh.inflight = dropFirst (fun x => x == .data pp line own pend) s.coh.inflight ∧
        (s.l2Count pp < s.l2Room pp → t.coh.dir = s.coh.dir) ∧ same t)) ∧
    (∀ own, s.nextMsg true pp line = some (.complete pp line own) → s.wired pp line = true →
      ∃ t, exec (.complete pp line) s = .next t ∧
        (∀ x, s.coh.l2Of pp line = some x →
          t.coh.l2Of pp line = some { x with owned := own, pendingOwn := false, ahead := [] }) ∧
        (s.coh.l2Of pp line = none → t.coh.l2 = s.coh.l2) ∧
        t.coh.inflight = dropFirst (fun z => z == .complete pp line own) s.coh.inflight ∧ t.coh.dir = s.coh.dir ∧ same t) ∧
    -- BISNP of a half of shared memory, with or without a write of it by another agent, and the host's answer
    -- (R449, R453)
    (∀ addr i, MemOk s → s.region addr = .cxl i → (s.rangeEntry i).shared = true → s.lineBusy (lineOf addr) = false →
      let c := s.cell (lineAddr (lineOf addr))
      (∃ t, exec (.bisnp { addr, data := none }) s = .next t ∧ (∀ p, t.coh.l2Of p (lineOf addr) = none) ∧ same t) ∧
      (∀ bs : List Byte, bs.length = 64 → ∃ t, exec (.bisnp { addr, data := some bs }) s = .next t ∧
        (∀ p, t.coh.l2Of p (lineOf addr) = none) ∧ t.hart = s.hart ∧ t.others = s.others ∧
        ∀ a, readByte t.mem a = if c ≤ a ∧ a < c + 64 then bs.getD (a - c) 0 else readByte s.mem a)) ∧
    (∀ addr, s.coh.snoop.contains (addr / 64) = true → (∀ y ∈ s.coh.waiting, y.line ≠ addr / 128) →
      exec (.bisnpResponse addr) s =
        .next { s with coh := { s.coh with snoop := s.coh.snoop.filter fun g => g != addr / 64 } })

/-- R159, R194, R488, R454: what is performed at the home, on a line that no transaction holds and that no parish owns or
shares: the bytes that a store names, or the result of an atomic, are in memory, and in the new page too when a line of
a page under migration has been copied (R214; log 44), and every other byte is as it was. A store waits, BUSY, while the
home of the new page cannot take it. -/
def Obligations.HomeOperations : Prop :=
  ∀ (s : State) (addr : Nat), MemOk s →
    let line := lineOf addr
    let c := s.cell addr
    let d := s.coh.dirOf line
    let free : Prop := d.busy = false ∧ s.snooped line = false ∧ s.switchingOn line = false ∧
      ∀ x ∈ s.coh.waiting, x.line ≠ line
    -- the byte at `a` once `bs` is stored
    let stored (bs : List Byte) (a : Nat) : Byte :=
      let here : Byte := if c ≤ a ∧ a < c + bs.length then bs.getD (a - c) 0 else readByte s.mem a
      match s.mirrorOf addr with
      | some b =>
        (match (List.range bs.length).reverse.find? fun k => s.cell (b + k) == a with
         | some k => bs.getD k 0
         | none => here)
      | none => here
    (∀ i op, (i = .farAtomic addr op ∨ (i = .scaleUpRequest addr op ∧ lineInHbm line = true ∧ ∀ n, op ≠ .load n) ∨
        (∃ data, i = .homeWrite addr data ∧ op = .store data)) →
      s.homeUp line = true → homeOpFits addr op = true → free → d.st = .I → s.lineOwner line = none →
      ((s.homeBytes addr op).isSome = true → ∀ u, s.touchMirror line = .error u → ∃ t, exec i s = .next t ∧ t.mem = s.mem ∧
        (t.coh.dirOf line).busy = true ∧ t.hart = s.hart ∧
        t.coh.settling = s.coh.settling ++ [{ line := line, pp := 0, req := .far addr op }]) ∧
      ((∃ u, s.touchMirror line = .ok u) → ∃ t, exec i s = .next t ∧ t.coh.dirOf line = Dir.reset ∧ t.hart = s.hart ∧ t.others = s.others ∧
        (s.mirrorOf addr = none → t.coh.l2 = s.coh.l2) ∧
        (∀ n, op = .load n → t.mem = s.mem) ∧
        (∀ data, op = .store data → ∀ a, readByte t.mem a = stored data a) ∧
        (∀ k dbl src exp, op = .amo k dbl src exp →
          let n := if dbl then 8 else 4
          ((sectorsOf addr n).any (fun x => s.poison.contains x) = true → t.mem = s.mem) ∧
          ((sectorsOf addr n).any (fun x => s.poison.contains x) = false →
            let r := amoNew (amoKindOf k) dbl (readNum s.mem c n) (src.toNat % 2 ^ (8 * n)) (exp.toNat % 2 ^ (8 * n))
            (r.1 = none → t.mem = s.mem) ∧
            (∀ v, r.1 = some v → ∀ a, readByte t.mem a =
              stored ((List.range n).map fun k => BitVec.ofNat 8 (v / 2 ^ (8 * k))) a))))) ∧
    (∀ pp data, s.wired pp line = true → s.runs pp = true → data ≠ [] → addr % 32 + data.length ≤ 32 →
      s.requesting pp line = false → alHas (pp, line) s.coh.evict = false → free → d.st = .I → s.lineOwner line = none →
      (∃ u, (s.takeAhead pp addr data).touchMirror line = .ok u) →
      ∃ t, exec (.sectoredStore pp addr data) s = .next t ∧
        t.coh.dirOf line = { Dir.reset with st := .S, ptrs := [ptrCode pp] } ∧
        t.coh.inflight = s.coh.inflight ++ [.complete pp line false] ∧
        ∀ a, readByte t.mem a = stored data a) ∧
    (∀ n, s.homeUp line = true → 0 < n → addr % lineSize line + n ≤ lineSize line → d.busy = false →
      s.snooped line = false → s.switchingOn line = false →
      (∀ q ∈ s.forwardTo line, s.reaches (lineHome line) (s.dieOf q) = true) →
      exec (.homeRead addr n) s = .next s ∧
      (lineInHbm line = true → exec (.scaleUpRequest addr (.load n)) s = .next s))
/-! ### Stewards, the Carter, waits and links -/

/-- R322, R390, R395 to R400: what a Steward does with the records of its parish: a record of no group, or a gang that has
not started and has its turn, starts at once where contexts are free; a member of a group waits for the others in a context
that is reserved for it; a pinned hart that was pre-empted goes on in its own. -/
def Obligations.StewardPlacement : Prop :=
  ∀ (s : State) (pp : Nat),
    -- PLACEMENT and LEND_REQUEST of the first ready record
    (∀ (i : Instr) (q : Nat) (r : TaskRec) (rest : List TaskRec) (ps : List Place),
      (i = .placement pp ∧ q = pp ∨ (i = .lendRequest pp ∧ s.hasFree pp = true ∧ s.tryPlace pp = none ∧
        (s.lenders pp).head? = some q ∧ s.reaches (s.dieOf pp) (s.dieOf q) = true ∧ s.runs q = true ∧ s.dieOf q ∉ s.lostDies ∧ s.placesFor r q = none)) →
      s.runs pp = true → (s.pdata q).ready = r :: rest → s.startsAlone q r = true → s.placesFor r pp = some ps →
      exec i s = .next (s.placeRecord q r ps)) ∧
    (∀ r, s.groupsOfRecord r = [] → s.startsAlone pp r = true) ∧
    -- a member of the group in turn, with too few contexts: one more is reserved for it
    (∀ r rest g p, s.runs pp = true → (s.pdata pp).ready = r :: rest → s.startsAlone pp r = false →
      s.groupInTurn pp = some g → meets (s.clique g) (s.groupsOfRecord r) = true →
      (s.reservedFor pp r).length < r.count → ((s.coresFor r pp).flatMap (s.contextsFor r)).head? = some p →
      ∃ t, exec (.placement pp) s = .next t ∧ t.reservedFor pp r = s.reservedFor pp r ++ [p] ∧ t.hart = s.hart ∧
        t.others = s.others ∧ (t.pdata pp).queue = (s.pdata pp).queue ∧ t.mem = s.mem) ∧
    -- a hart that kept its context goes on there
    (∀ p, s.runs pp = true → (s.pdata pp).queue = [] →
      (s.places.find? fun p => s.ppOf p.core == pp && (s.hartAt p).wait == .preempted && (s.groupsOf (s.hartAt p)).isEmpty) =
        some p →
      exec (.placement pp) s = .next (s.setHart p { s.hartAt p with wait := .running })) ∧
    -- a record of one task that has not run starts as R390 says
    (∀ (r : TaskRec) (p : Place), r.resume = none → r.desc.extractLsb' 60 4 = 0 →
      let h := (s.placeRecord pp r [p]).hartAt p
      h.pc = (r.desc.extractLsb' 0 56).setWidth 64 ∧ h.status = Status.start .task ∧ h.taskId = r.id ∧
      h.parent = r.parent ∧ h.prio = r.prio ∧ h.asid = r.ctx.asid ∧ h.ptroot = r.ctx.ptroot ∧ h.ccid = r.ctx.ccid ∧
      h.frm = r.ctx.frm ∧ h.compute = (r.desc.extractLsb' 58 2 != 0) ∧ h.wait = .running ∧ h.vec = Vec.reset ∧
      h.mat = Mat.reset ∧
      ∀ k, k ≠ 31 → h.readG k =
        if k = 4 then r.arg else if k = 6 then r.parent.setWidth 64 else 0) ∧
    -- a task that has run goes on where it stopped
    (∀ (r : TaskRec) (h : Hart) (p : Place), r.resume = some h → r.left = some p.core →
      let t := (s.placeRecord pp r [p]).hartAt p
      t.pc = h.pc ∧ t.g = h.g ∧ t.status = h.status ∧ t.vec = h.vec ∧ t.mat = h.mat ∧ t.taskId = h.taskId ∧
      t.handles = h.handles ∧ t.wait = .running) ∧
    -- OVERFLOW_RETURN and LEVEL_LIFT
    (∀ r t, (s.pdata pp).overflow = r :: t → (s.pdata pp).queue.length < 1024 → ∃ u n, exec (.overflowReturn pp) s = .next u ∧
      (u.pdata pp).queue = (s.pdata pp).queue ++ [{ r with since := n, slot := none }] ∧ (u.pdata pp).overflow = t ∧
      u.hart = s.hart ∧ u.mem = s.mem) ∧
    (∀ (level : Fin 3) r, (s.pdata pp).queue.find? (fun r => r.level == level.val) = some r →
      2 ^ 20 ≤ (s.pdata pp).lift.getD level.val 0 → ∃ u, exec (.levelLift pp level) s = .next u ∧
      (u.pdata pp).queue = dropFirst (fun x => x.id == r.id) (s.pdata pp).queue ++ [{ r with level := level.val + 1 }] ∧
      (u.pdata pp).lift.getD level.val 0 = 0 ∧ u.hart = s.hart ∧ u.mem = s.mem) ∧
    -- RESERVATION_RELEASE, and GROUP_START of one member that waits or of pinned members alone
    (∀ x, (s.parish pp).reserved = some x →
      exec (.reservationRelease pp) s = .next (s.setParish pp { s.parish pp with
        reserved := none, released := ((s.parish pp).released.filter fun y => y != x.1) ++ [x.1] })) ∧
    (∀ g g' r e, s.groupRecords (s.clique g) = [(pp, r)] → (s.parish pp).reserved = some (g', [e]) → e.id = r.id →
      r.count = 1 →
      (∀ q ∈ s.groupHarts (s.clique g), (s.hartAt q).wait ≠ .preempted ∧ (s.hartAt q).evict = false) →
      (∀ f ∈ s.carter, meets (s.clique g) (s.groupsOf f.hart) = false) →
      let t := (s.setParish pp { s.parish pp with reserved := none }).placeRecord pp r [e.place]
      exec (.groupStart g) s = .next { t with parishes := t.parishes.map fun e =>
        (e.1, { e.2 with released := e.2.released.filter fun x => !(s.clique g).contains x }) }) ∧
    (∀ g p, s.groupRecords (s.clique g) = [] → p ∈ s.places → (s.hartAt p).wait = .preempted →
      g ∈ s.groupsOf (s.hartAt p) → (∀ q ∈ s.groupHarts (s.clique g), (s.hartAt q).evict = false) →
      (∀ f ∈ s.carter, meets (s.clique g) (s.groupsOf f.hart) = false) →
      ∃ u, exec (.groupStart g) s = .next u ∧ (u.hartAt p).wait = .running ∧ (u.hartAt p).pc = (s.hartAt p).pc ∧
        u.mem = s.mem) ∧
    -- PREEMPTION of a hart of no group: at once, or between groups of elements of the convoy that it runs, when urgent
    (∀ r rest p, s.runs pp = true → (s.pdata pp).ready = r :: rest → s.placeable r pp = false → s.victim pp r = some p →
      s.groupsOf (s.hartAt p) = [] →
      (r.prio = 3 → (s.hartAt p).midConvoy = true →
        exec (.preemption pp) s = .next (s.setHart p { s.hartAt p with evict := true, urgent := true })) ∧
      (r.prio ≠ 3 ∨ (s.hartAt p).midConvoy = false → s.runs (s.ppOf p.core) = true →
        (s.pdata (s.ppOf p.core)).queue.length < 1024 →
        ∃ u x, exec (.preemption pp) s = .next u ∧ (u.hartAt p).wait = .vacant ∧
          (u.pdata (s.ppOf p.core)).queue = (s.pdata (s.ppOf p.core)).queue ++ [x] ∧ x.id = (s.hartAt p).taskId ∧
          x.prio = (s.hartAt p).prio ∧ x.left = some p.core ∧ x.desc = (s.hartAt p).desc ∧ x.arg = (s.hartAt p).arg ∧
          (∃ h, x.resume = some h ∧ h.pc = (s.hartAt p).pc ∧ h.g = (s.hartAt p).g ∧ h.status = (s.hartAt p).status) ∧
          u.mem = s.mem))

/-- R138, R139, R141, R143: the window's end, the two kinds of move, and the Carter queue. The fourth window in a row with one
preferred class, other than the current one, asks for a move, unless it is class C for a compute hart. The model's own are:
that a move that a grant forbids is dropped until a window ends again (log 60), that a free context goes to a hart that moves
although frames wait in the queue for others (log 61), and that the others of a group run on while a member waits there
(log 75). -/
def Obligations.MigrationMoves : Prop :=
  ∀ s : State,
    (65536 ≤ s.hart.winCount → ∃ t, exec .window s = .next t ∧ t.hart.winCount = 0 ∧ t.hart.nv = 0 ∧ t.hart.nm = 0 ∧
      t.hart.nf = 0 ∧
      (let want := s.hart.preferred s.cclass
       let four : Prop := s.hart.windows.take 3 = [want, want, want]
       let on : Bool := s.hart.mixctl.getLsbD 62
       t.hart.windows = (if on then (want :: s.hart.windows).take 4 else []) ∧
       t.hart.moveTo =
         if on = true ∧ four ∧ want ≠ s.cclass ∧ ¬ (want = .C ∧ s.hart.compute = true) then some want else none) ∧
      t.hart.pc = s.hart.pc ∧ t.hart.g = s.hart.g ∧ t.mem = s.mem ∧ t.here = s.here) ∧
    (∀ (h : Hart) (k : CoreClass),
      let heavy (thr : BitVec 8) (n : BitVec 16) : Prop := thr ≠ 0 ∧ thr.toNat * 256 ≤ n.toNat
      let v : Prop := heavy (h.mixctl.extractLsb' 16 8) h.nv
      let m : Prop := heavy (h.mixctl.extractLsb' 8 8) h.nm
      let f : Prop := heavy (h.mixctl.extractLsb' 0 8) h.nf
      (¬ v → ¬ m → ¬ f → ∀ x, h.mixctl.extractLsb' 24 2 = Config.cclassCode x → h.preferred k = x) ∧
      (¬ v → ¬ m → f → h.preferred k = if Config.carries k .F then k else .V) ∧
      (v → ¬ m → h.preferred k = .V) ∧ (¬ v → m → ¬ f → h.preferred k = .T) ∧
      (m → v ∨ f → h.preferred k = k)) ∧
    (∀ k, s.hart.moveTo = some k → s.hart.yields = true →
      let drops : Prop := exec .mixMigration s = .next { s with hart := { s.hart with moveTo := none } }
      (s.hart.mat.grantRows ≠ 0 → drops) ∧
      (s.hart.mat.grantRows = 0 → k ≠ s.cclass →
        (s.hart.queuesEmpty = false ∨ s.unsent = true → exec .mixMigration s = .next s.stall) ∧
        (s.hart.queuesEmpty = true → s.unsent = false →
          (∀ p u, s.findOfClass k = some p → s.linkWait p.core.die = some u → exec .mixMigration s = .next u) ∧
          (∀ p, s.findOfClass k = some p → s.linkWait p.core.die = none → ∃ t, exec .mixMigration s = .next t ∧ t.here = p ∧ t.hart.pc = s.hart.pc ∧
            t.hart.g = s.hart.g ∧ t.hart.compute = s.hart.compute ∧ t.hart.moveTo = none ∧ t.hart.wait = .running ∧
            t.mem = s.mem) ∧
          (s.findOfClass k = none → drops)))) ∧
    -- R139, R142: an instruction of a class that this core does not carry
    (∀ (c : Cls) (enc : Word), s.carriesHere c = false →
      let compute := s.hart.compute || needsCompute c
      let needs := c :: s.hart.needs
      let has := Config.memberHas s.member c
      let held := s.hart.mixctl.getLsbD 63
      let granted : Prop := s.hart.mat.grantRows ≠ 0
      let queued : Prop := s.hart.vec.queue ≠ [] ∨ s.hart.mat.queue ≠ [] ∨ s.unsent = true
      (has = false → exec (.migrationTrap c enc) s = .next (s.trap 0x01 enc)) ∧
      (has = true → held = true → exec (.migrationTrap c enc) s = .next (s.trap 0x02 enc)) ∧
      (has = true → held = false → granted → exec (.migrationTrap c enc) s = .next (s.trap 0x0A enc)) ∧
      (has = true → held = false → ¬ granted → queued → exec (.migrationTrap c enc) s = .next s.stall) ∧
      (has = true → held = false → ¬ granted → ¬ queued → s.someCoreTakes needs compute = false →
        exec (.migrationTrap c enc) s = .next (s.trap 0x02 enc)) ∧
      (has = true → held = false → ¬ granted → ¬ queued → s.someCoreTakes needs compute = true →
        (∀ p, ({ s with hart := Hart.vacant } : State).findContext s.here.core needs compute = some p →
          s.reaches s.here.core.die p.core.die = false →
          exec (.migrationTrap c enc) s = .next (s.wake s.here.core.die p.core.die).stall) ∧
        (∀ p, ({ s with hart := Hart.vacant } : State).findContext s.here.core needs compute = some p →
          s.reaches s.here.core.die p.core.die = true →
          ∃ t, exec (.migrationTrap c enc) s = .next t ∧ t.here = p ∧ t.hart.pc = s.hart.pc ∧ t.hart.g = s.hart.g ∧
            t.hart.compute = compute ∧ t.hart.wait = .running ∧ t.hart.status = s.hart.status ∧ t.mem = s.mem) ∧
        (({ s with hart := Hart.vacant } : State).findContext s.here.core needs compute = none →
          exec (.migrationTrap c enc) s = .next { s.unheld s.here with
            carter := s.carter ++
              [{ hart := (s.hart.settleWindow s.cclass).noPages, needs := needs, compute := compute, origin := s.here.core
                 exact := none, cls := none }]
            hart := Hart.vacant }))) ∧
    (∀ f rest p, s.carter = f :: rest → s.frameContext f = some p → s.reaches f.origin.die p.core.die = true →
      ∃ t, exec .carterQueuePlacement s = .next t ∧ t.carter = rest ∧ (t.hartAt p).pc = f.hart.pc ∧
        (t.hartAt p).g = f.hart.g ∧ (t.hartAt p).compute = (f.hart.compute || f.compute) ∧
        (t.hartAt p).wait = (if s.groupWaits f.hart then .preempted else .running) ∧ t.mem = s.mem)

/-- R132, R168, R199, R200, R324, R359, R423, R454, R463, R465, R472: waits that end, links, latches, a die that is lost, and
the bytes that a request has performed, which leave its moot's PEND. That no die is lost with a link between two compute
dies, until a request has waited for it (log 26), that PEER_TIMEOUT marks the next access of one agent (log 42), and which
pieces of a request's bytes leave PEND before its end (log 13), are the model's. -/
def Obligations.WaitsLinksAndLosses : Prop :=
  ∀ s : State,
    (∀ p a, (s.hartAt p).wait = .watching a true →
      exec (.wakeNotice p) s = .next (s.setHart p { s.hartAt p with wait := .running })) ∧
    (∀ p a, (s.hartAt p).wait = .watching a false →
      exec (.watchPoll p) s = .next (s.setHart p { s.hartAt p with wait := .running })) ∧
    (∀ p n, (s.hartAt p).wait = .paused n →
      exec (.pauseExpiry p) s = .next (s.setHart p { s.hartAt p with wait := .running })) ∧
    (∀ a, ((∃ p, a = .hart p ∧ p ∈ s.places) ∨
        (∃ e, a = .engine e ∧ kickSlot (0x20000 + (e.die * 128 + e.parish * 32 + e.core) * 8) = some e)) →
      exec (.peerTimeout a) s = .next { s with timeout := some a }) ∧
    (∀ l, linkExists l = true →
      (s.linkState l = .doze ∨ s.linkState l = .sleep → (∃ x ∈ s.waking, x.1 = l) →
        let u : State := { s with links := alSet l .active s.links, waking := s.waking.filter fun x => x.1 != l }
        let still (x : Nat × Option CoreId × Nat) : Bool :=
          !u.reaches (s.dieOf x.1) (lineHome x.2.2) && !s.lostDies.contains (s.dieOf x.1) &&
            !s.lostDies.contains (lineHome x.2.2)
        exec (.linkActive l) s = .next { u with reqHeld := s.reqHeld.filter still }) ∧
      (s.linkState l = .active →
        exec (.linkDoze l) s = .next { s with links := alSet l (if s.maySleep l then .sleep else .doze) s.links }) ∧
      (s.linkState l ≠ .lost → ∀ ok,
        ∃ t, exec (.linkRetrain l ok) s = .next t ∧
          (ok = true → t.links = s.links ∧ t.hart = s.hart ∧ t.mem = s.mem ∧
            (s.raslog.length < 64 → t.raslog.length = s.raslog.length + 1)) ∧
          (ok = false → ∀ d, dieBehind l = some d → d ∈ t.lostDies) ∧
          (ok = false → dieBehind l = none → t.linkState l = .lost ∧ t.lostDies = s.lostDies))) ∧
    (∀ d, (d ≤ 4 ∨ (8 ≤ d ∧ d ≤ 15)) → d ∉ s.lostDies → (∃ x ∈ s.waking, dieLostWith x = d) →
      ∃ t, exec (.dieLost d) s = .next t ∧
      (∀ x, x ∈ t.lostDies ↔ x ∈ s.lostDies ∨ x = d ∨ (1 ≤ d ∧ d ≤ 4 ∧ (x = 2 * d + 6 ∨ x = 2 * d + 7)))) ∧
    -- PEND_DECREMENT: lines of a MIGRATE that its entry holds as copied, or the next piece of a COPY
    (∀ tbl name n,
      let counts (q : Notice) : Prop :=
        q.done / 2 % 2 = 1 ∧ q.name = name ∧ (q.par = 0xFFFF ∧ tbl = .device ∨
          q.par ≠ 0xFFFF ∧ q.par < Config.parishCount s.member ∧ tbl = .parish q.par)
      let open' (e : EngineId) (q : Notice) : Prop := s.noticeHeld q = none ∧
        ∀ d, s.noticeDie q = some d → d ∈ s.lostDies ∨ s.reaches e.die d = true
      let owes (x : EngineId × EngReq) : Prop := (copyRec x.2.bytes).mode = 1 ∧ counts (copyNotice x.2.bytes) ∧ 0 < n ∧
        ∃ m, s.migOf (copyRec x.2.bytes).src.toNat = some m ∧
          x.2.landed + n ≤ 128 * ((List.range 512).filter fun i => m.bits.getLsbD i).length
      let subtracts (u : State) (t : State) : Prop :=
        (u.moot tbl name = none → t = u) ∧
        ∀ m, u.moot tbl name = some m →
          t = u.checkMoot tbl (if n ≤ m.pend then { m with pend := m.pend - n } else { m with pend := 0, err := true })
      (∀ x, s.migrating = [x] → owes x → open' x.1 (copyNotice x.2.bytes) →
        ∃ t, exec (.pendDecrement tbl name n) s = .next t ∧
          subtracts { s with migrating := [(x.1, { x.2 with landed := x.2.landed + n })] } t) ∧
      (∀ e q s1, (∀ x ∈ s.migrating, ¬ owes x) → s.copyOf e = some (q, s1) →
        let c := copyRec q.bytes
        let done := q.landed / 2 ^ c.esize
        (s.busyEngines.find? fun x => (s.copyPiece tbl name n x).isSome) = some e → open' e (copyNotice q.bytes) →
        ∀ x u, s1.copyFrom (q.who e) c (n / 2 ^ c.esize) done = .ok (x, u) → x.status = .ok →
        ∃ t, exec (.pendDecrement tbl name n) s = .next t ∧
          subtracts { u with migrating := u.migrating ++ [(e, { q with landed := q.landed + n })] } t) ∧
      ((∀ x ∈ s.migrating, ¬ owes x) →
        (∀ e ∈ s.busyEngines, ∀ q s1, s.copyOf e = some (q, s1) →
          ¬ (counts (copyNotice q.bytes) ∧ 0 < n ∧ n % 2 ^ (copyRec q.bytes).esize = 0 ∧
            q.landed + n ≤ (copyNotice q.bytes).total)) →
        exec (.pendDecrement tbl name n) s = .refused (.notEnabled "PEND_DECREMENT"))) ∧
    (∀ (k : CroftId) (n : Bool),
      let next : CroftId := { k with croft := (k.croft + 1) % 8 }
      let l := (s.croft k).latch n
      ((s.croft k).out n).head? = some none → ((s.croft next).latch n).full = false →
      ∃ t, exec (.latchForward k n) s = .next t ∧ (t.croft k).latch n = Latch.reset ∧
        (t.croft next).latch n = ({ full := true, tile := l.tile, scale := l.scale, visits := l.visits - 1
                                    readers := (s.croft next).holders, released := [] } : Latch).settle ∧
        t.hart = s.hart ∧ t.mem = s.mem)
/-! ### Engines -/

/-- R417, R420, R421: XCOPY, QWALK and KICK check the record's address, and queue the request with the context captured
at submission; a full queue answers 2^63 + 1 to XCOPY and QWALK, and stalls KICK. A request is a release at DEVICE, and
waits for the links on its way (R200). That the stores of every parish are awaited is the model's (log 71). -/
def Obligations.EngineSubmission : Prop :=
  ∀ s : State,
    let req (t : State) (pa : Nat) : EngReq :=
      { rec' := pa, level := t.hart.status.priv
        ctx := { asid := t.hart.asid, ptroot := t.hart.ptroot, ccid := t.hart.ccid, frm := t.hart.frm }
        since := t.clock, bytes := [] }
    let full : Word := 0x8000000000000001
    (∀ a b, Ready s [b] a →
      let ra := s.hart.src [] b
      let d := s.here.core.die
      (∀ e, s.checkRecord .copy ra = .bad e → exec (.xcopy a b) s = .next (s.fail e 3)) ∧
      (∀ t, s.checkRecord .copy ra = .busy t → exec (.xcopy a b) s = .next t.stall) ∧
      (∀ pa s1, s.checkRecord .copy ra = .done pa s1 →
        (256 ≤ (s.copyQueue d).length → GivesFrom s s (.xcopy a b) [b] a full 4) ∧
        ((s.copyQueue d).length < 256 → s.storesPending .device = true → exec (.xcopy a b) s = .next s.stall) ∧
        ((s.copyQueue d).length < 256 → s.storesPending .device = false →
          GivesFrom s { s1 with clock := s1.clock + 1, copyQ := alSet d (s1.copyQueue d ++ [req s1 pa]) s1.copyQ }
            (.xcopy a b) [b] a 0 4)) ∧
      (∀ e, s.checkRecord .walk ra = .bad e → exec (.qwalk a b) s = .next (s.fail e 3)) ∧
      (∀ t, s.checkRecord .walk ra = .busy t → exec (.qwalk a b) s = .next t.stall) ∧
      (∀ pa s1, s.checkRecord .walk ra = .done pa s1 →
        let w := homeOf pa
        (w ∈ s.lostDies → exec (.qwalk a b) s = .next (s.trap 0x0D ra 3)) ∧
        (w ∉ s.lostDies → ∀ t, s.reachDie d w = .error t → exec (.qwalk a b) s = .next t.stall) ∧
        (w ∉ s.lostDies → ∀ t, s.reachDie d w = .ok t →
          (64 ≤ (s.walkQueue w).length → GivesFrom s s (.qwalk a b) [b] a full 4) ∧
          ((s.walkQueue w).length < 64 → s.storesPending .device = true → exec (.qwalk a b) s = .next s.stall) ∧
          ((s.walkQueue w).length < 64 → s.storesPending .device = false →
            GivesFrom s { s1 with clock := s1.clock + 1, walkQ := alSet w (s1.walkQueue w ++ [req s1 pa]) s1.walkQ }
              (.qwalk a b) [b] a 0 4)))) ∧
    (∀ b c, Ready s [b, c] 0 →
      let va := s.hart.src [] b
      let how : How := { acc := 2, need := .write, style := .kick }
      (∀ x, s.check s.who how va 8 = .bad x → exec (.kick b c) s = .next (s.fail x 2)) ∧
      (∀ ps s1 e, s.check s.who how va 8 = .done ps s1 → kickedBy ps = some e →
        let rec' := s1.checkRecord (if e.parish = 1 then .walk else .copy) (s.hart.src [b] c)
        (∀ x, rec' = .bad x → exec (.kick b c) s = .next (s1.fail x 3)) ∧
        (∀ pa s2, rec' = .done pa s2 →
          (e.die ∈ s2.lostDies → exec (.kick b c) s = .next (s2.trap 0x0D va 2)) ∧
          (e.die ∉ s2.lostDies → ∀ t, s2.reachDie s.here.core.die e.die = .error t → exec (.kick b c) s = .next t.stall) ∧
          (e.die ∉ s2.lostDies → ∀ t, s2.reachDie s.here.core.die e.die = .ok t →
            (16 ≤ (s2.kicks e).length ∨ s2.storesPending .device = true → exec (.kick b c) s = .next s2.stall) ∧
            ((s2.kicks e).length < 16 → s2.storesPending .device = false →
              GivesFrom s { s2 with clock := s2.clock + 1, kickQ := alSet e (s2.kicks e ++ [req s2 pa]) s2.kickQ }
                (.kick b c) [b, c] 0 0 4)))))

/-- R214, R417, R422, R428, R431, R435, R436, R441, R457: an engine hart carries out the request that it takes next, and
reports how it ended: COPY by elements, from the first that PEND_DECREMENT has not performed, SEAL and OPEN at the
Lockhouse, walks at a Quarrier, and collectives at the network engine, each whole; MIGRATE line by line. The model's own are:
that one step does the rest of a COPY, and the whole of the others (log 13), which home counts a migrated page (log 57), and
that COLLECTIVE_TIMEOUT draws a free value for word 1 (logs 29 and 11). -/
def Obligations.EngineRequestsRun : Prop :=
  ∀ (s : State) (e : EngineId),
    let cleared (t : State) : State := { t with timeout := if t.timeout = some (.engine e) then none else t.timeout }
    (∀ r kick bs, Serves s e 256 copyNotice r kick bs →
      let c := copyRec bs
      let u := s.takeReq e kick
      let ends (i : Instr) (x : Ended) (v : State) : Prop :=
        ∀ t, v.report e r (copyNotice bs) x = .ok t → exec i s = .next t
      let status (x : EndStatus) : Ended := { status := x, cause := 0, count := 0, addr := 0 }
      (e.parish = 0 ∨ e.parish = 2 → c.mode = 0 →
        (c.plain bs = true → r.landed = 0 → ∀ x v, u.copyFrom (r.who e) c c.total 0 = .ok (x, v) → ends (.copyRecord e) x v) ∧
        (c.plain bs = false → ends (.copyRecord e) (status .badrec) u)) ∧
      (e.parish = 0 → c.mode = 2 ∨ c.mode = 3 → c.sealed bs = true → s.lockQ.length < 64 → s.lockWait = [] →
        ∃ t n, exec (.copyRecord e) s = .next t ∧ t.lockQ = s.lockQ ++ [{ r with bytes := bs, since := n }] ∧
          t.mem = s.mem ∧ t.hart = s.hart) ∧
      (e.parish = 0 ∨ e.parish = 2 → c.mode = 1 →
        (c.migrates bs = false → ends (.migrateRecord e) (status .badrec) u) ∧
        (c.migrates bs = true → r.level = .task → ends (.migrateRecord e) (status .priv) u) ∧
        (c.migrates bs = true → r.level ≠ .task → s.migRoom c.src.toNat = false →
          ends (.migrateRecord e) (status .migbusy) u) ∧
        (c.migrates bs = true → r.level ≠ .task → s.migRoom c.src.toNat = true →
          exec (.migrateRecord e) s = .next { u with
            migs := s.migs ++ [{ old := c.src.toNat, new := c.dst.toNat, bits := 0 }]
            migrating := s.migrating ++ [(e, { r with bytes := bs })] })) ∧
      (e.parish = 2 → c.mode = 2 → ∀ x v, sealWork e r bs u = .ok (x, v) → ends (.sealRecord e) x v) ∧
      (e.parish = 2 → c.mode = 3 → ∀ x v, openWork e r bs u = .ok (x, v) → ends (.openRecord e) x v)) ∧
    -- a migration in progress copies its next line, as one step at the home, or is complete
    (∀ r m, (s.migrating.find? fun x => x.1 == e && (copyRec x.2.bytes).mode == 1) = some (e, r) → s.migOf (copyRec r.bytes).src.toNat = some m →
      let w : Who := { r.who e with level := .firm }
      (∀ i bs s1 s2, m.next = some i → s.engRead w (BitVec.ofNat 64 (m.old + 128 * i)) 128 = .done bs s1 →
        s1.engWrite w (BitVec.ofNat 64 (m.new + 128 * i)) bs = .done () s2 →
        exec (.migrateRecord e) s = .next (s2.setMig { m with bits := m.bits ||| (1#512 <<< i) })) ∧
      (m.next = none → s.noticeHeld (copyNotice r.bytes) = none →
        (∀ d, s.noticeDie (copyNotice r.bytes) = some d → d ∈ s.lostDies ∨ s.reaches e.die d = true) → ∀ t,
        ({ s with migrating := s.migrating.filter fun y => y.1 != e } : State).report e r (copyNotice r.bytes)
          { status := .ok, cause := 0, count := 8192, addr := 0 } = .ok t → exec (.migrateRecord e) s = .next t)) ∧
    -- a COPY, some pieces of which PEND_DECREMENT has performed, goes to its end
    (∀ r, (s.migrating.find? fun x => x.1 == e && (copyRec x.2.bytes).mode == 0) = some (e, r) →
      let c := copyRec r.bytes
      let done := r.landed / 2 ^ c.esize
      c.plain r.bytes = true → s.noticeHeld (copyNotice r.bytes) = none →
      (∀ d, s.noticeDie (copyNotice r.bytes) = some d → d ∈ s.lostDies ∨ s.reaches e.die d = true) →
      ∀ x v, ({ s with migrating := s.migrating.filter fun y => y.1 != e } : State).copyFrom (r.who e) c (c.total - done) done =
        .ok (x, v) → ∀ t, v.report e r (copyNotice r.bytes) x = .ok t → exec (.copyRecord e) s = .next t) ∧
    (∀ r kick bs, Serves s e 128 walkNotice r kick bs → e.parish = 1 →
      let w := walkRec bs
      ∀ i, (i = .chase e ∧ w.mode = 0 ∨ i = .uwalk e ∧ w.mode = 1) → w.ok bs = true →
      ∀ x v, (s.takeReq e kick).walksFrom
          (fun s n => if w.mode = 0 then s.chaseWalk (r.who e) w n else s.uwalkWalk (r.who e) w n) w.count 0 = .ok (x, v) →
        ∀ t, v.report e r (walkNotice bs) x = .ok t → exec i s = .next t) ∧
    (∀ r kick bs, Serves s e 256 collNotice r kick bs → e.parish = 3 →
      let c := collRec bs
      (∀ i others, (i = .allreduce e others ∧ c.op = 0) ∨ (i = .allgather e others ∧ c.op = 1) ∨
          (i = .reducescatter e others ∧ c.op = 2) ∨ (i = .broadcast e others ∧ c.op = 3) →
        ∀ x v, collWork e others r bs (s.takeReq e kick) = .ok (x, v) →
          ∀ t, v.report e r (collNotice bs) x = .ok t → exec i s = .next t) ∧
      (c.ok bs = true → r.ctx.ccid = 0 → c.done = 0 →
        exec (.collectiveTimeout e) s = .next (cleared { (s.takeReq e kick) with free := (s.takeReq e kick).free + 1 }))) ∧
    (∀ r rest, s.lockWait = (e, r) :: rest → s.lockQ.length < 64 →
      exec .lockhouseAdmit s = .next { s with clock := s.clock + 1, lockWait := rest, lockQ := s.lockQ ++ [{ r with since := s.clock }] }) ∧
    -- a report asked for by no bit of DONE changes nothing, a mailbox takes word 1 before word 0, and a moot's PEND loses
    -- the bytes of the request
    (∀ r n x, n.done = 0 → s.report e r n x = .ok (cleared s)) ∧
    (∀ r n x s1 s2, n.done = 1 → n.mbox.toNat % 16 = 0 →
      s.engWrite (r.who e) (n.mbox + 8) (bytesOf 8 x.addr.toNat) = .done () s1 →
      s1.engWrite (r.who e) n.mbox (bytesOf 8 x.word.toNat) = .done () s2 → s.report e r n x = .ok (cleared s2)) ∧
    (∀ r n x tbl, n.done = 2 → x.status ≠ .badrec → s.parTable n.par = some tbl →
      s.report e r n x = .ok ((cleared s).pendSub tbl n.name (n.total - r.landed)))

/-- R375, R376, R429, R456, R457: what a moot's generation gives for integer operations, in which a member that gave no
operand counts for nothing; the address of an element of a COPY record with up to ten dimensions, of which the first
varies fastest; and what the ranks of a collective receive. -/
def Obligations.ReductionsAndElementAddresses : Prop :=
  (∀ (ins : List (Option Word)) (t : MootType),
    let l := ins.filterMap id
    (mootResult (some .all) ins).1 = (if (0 : Word) ∈ l then 0 else 1) ∧
    (mootResult (some .any) ins).1 = (if l.filter (fun w => w ≠ 0) = [] then 0 else 1) ∧
    (mootResult (some .count) ins).1 = BitVec.ofNat 64 (l.filter fun w => w ≠ 0).length ∧
    (t = .sint ∨ t = .uint → (mootResult (some (.red .add t)) ins).1 = l.foldl (· + ·) 0) ∧
    (mootResult (some (.red .and t)) ins).1 = l.foldl (· &&& ·) 0xFFFFFFFFFFFFFFFF ∧
    (mootResult (some (.red .or t)) ins).1 = l.foldl (· ||| ·) 0 ∧
    (mootResult (some (.red .xor t)) ins).1 = l.foldl (· ^^^ ·) 0) ∧
  (∀ (r : CopyRec) (x : Nat),
    let along (d : Nat) : Word := BitVec.ofNat 64 (x / (r.lens.take d).foldl (fun a b => a * b) 1 % r.lens.getD d 1)
    r.at x = ((List.range r.ndim).foldl (fun a d => a + along d * r.sstr.getD d 0) r.src,
      (List.range r.ndim).foldl (fun a d => a + along d * r.dstr.getD d 0) r.dst)) ∧
  (∀ (r : CollRec) (ranks : List (List Byte)),
    (r.op = 1 → r.result ranks = ranks.flatten) ∧
    (r.op = 3 → r.result ranks = ranks.headD []) ∧
    (r.op = 0 → r.rop = 0 → r.type ≤ 1 →
      r.result ranks = (List.range (r.len / 8)).flatMap fun j =>
        bytesOf 8 ((ranks.map fun bs => numOf ((bs.drop (8 * j)).take 8)).foldl (· + ·) 0)))
/-! ### The host, errors, power -/

/-- R446, R447, R449, R452, R460, R488 to R490: what the host port and the root of trust do. An access outside the
aperture, or of BAR0 in anything but whole words of the message window, is Unsupported Request; a page whose CCID the
function may not reach drops a write and aborts a read; a read as CXL.mem may leave its granules in the snoop filter, and
no read changes a directory entry or a copy. The
TDISP transitions are the model's (log 28), and so are the way in which the port finds a page's CCID (log 27) and the
rights of a CXL.mem access (log 56). -/
def Obligations.HostPortRequests : Prop :=
  ∀ (s : State) (f : BitVec 4),
    let x := s.func f.toNat
    let inside (via : HostVia) (off n : Nat) : Prop := 0 < n ∧ off + n ≤ 2 ^ 39 ∧
      (via = .bar2 f ∧ off + n ≤ x.bar2 ∨ via = .mem false ∨ (via = .mem true ∧ off % 64 = 0 ∧ n % 64 = 0))
    let rights (via : HostVia) : Nat := if via = .bar2 f then f.toNat else 0
    -- every home of the bytes is up, serves a request now, and reaches the host and the parishes
    let free (off n : Nat) : Prop := s.switching = [] ∧ ∀ l ∈ linesOf off n, s.homeUp l = true ∧ s.lineBusy l = false ∧
      s.reaches 0 (lineHome l) = true ∧ ∀ p, p < Config.parishCount s.member → s.reaches (lineHome l) (s.dieOf p) = true
    -- and so is every home in the new page of a migration (R214)
    let freeBoth (off n : Nat) : Prop := free off n ∧ ∀ l ∈ linesOf off n, ∀ k ∈ s.mirrorLines l,
      s.lineBusy k = false ∧ s.reaches (lineHome l) (lineHome k) = true ∧
      ∀ p, p < Config.parishCount s.member → s.reaches (lineHome k) (s.dieOf p) = true
    let send (a : HostAnswer) : State := { s with hostOut := s.hostOut ++ [a] }
    (∀ via off data, (via = .bar2 f ∨ ∃ keep, via = .mem keep) →
      (¬ inside via off data.length → exec (.hostWrite via off data) s = .next (send .unsupported)) ∧
      (inside via off data.length → s.hostAccepts (rights via) off data.length = false →
        exec (.hostWrite via off data) s = .next s) ∧
      (inside via off data.length → s.hostAccepts (rights via) off data.length = true → freeBoth off data.length →
        ∃ t, exec (.hostWrite via off data) s = .next t ∧ t.mem = storeMem s.cell s.migs s.mem off data ∧
          t.hart = s.hart ∧ t.others = s.others ∧ t.hostOut = s.hostOut ∧ t.coh.snoop = s.coh.snoop)) ∧
    (∀ via off n, (via = .bar2 f ∨ ∃ keep, via = .mem keep) →
      let answer := send (.data ((List.range n).map fun k => readByte s.mem (off + k)))
      (¬ inside via off n → exec (.hostRead via off n) s = .next (send .unsupported)) ∧
      (inside via off n → s.hostAccepts (rights via) off n = false → exec (.hostRead via off n) s = .next (send .abort)) ∧
      (inside via off n → s.hostAccepts (rights via) off n = true → free off n →
        ((∃ y ∈ sectorsOf off n, y ∈ s.poison) → exec (.hostRead via off n) s = .next (send .poisoned)) ∧
        ((∀ y ∈ sectorsOf off n, y ∉ s.poison) →
          (via ≠ .mem true → exec (.hostRead via off n) s = .next answer) ∧
          (via = .mem true → ∃ t, exec (.hostRead via off n) s = .next t ∧ t.hostOut = answer.hostOut ∧
            t.mem = s.mem ∧ t.hart = s.hart ∧ t.coh.dir = s.coh.dir ∧ t.coh.l2 = s.coh.l2 ∧ t.coh.snoop.length ≤ 2 ^ 20 ∧
            (n ≤ 2 ^ 26 → ∀ k, k < n / 64 → off / 64 + k ∈ t.coh.snoop))))) ∧
    (∀ off (data : List Byte),
      let ok : Prop := data ≠ [] ∧ data.length % 8 = 0 ∧ off % 8 = 0 ∧ off + data.length ≤ 0x1080
      (ok → exec (.hostWrite .bar0 off data) s = .next (s.writeWindow off (wordsOf (data.length / 8) data))) ∧
      (¬ ok → exec (.hostWrite .bar0 off data) s = .next (send .unsupported))) ∧
    (∀ off n,
      (0 < n → off % 8 = 0 → n % 8 = 0 → off + n ≤ 0x1080 → exec (.hostRead .bar0 off n) s =
        .next (send (.data ((List.range (n / 8)).flatMap fun k => bytesOf 8 (s.devRead (off + 8 * k)).toNat)))) ∧
      (¬ (0 < n ∧ off % 8 = 0 ∧ n % 8 = 0 ∧ off + n ≤ 0x1080) →
        exec (.hostRead .bar0 off n) s = .next (send .unsupported))) ∧
    (∀ size, size ≤ 2 ^ 39 → exec (.hostConfigWrite f size) s = .next (s.setFunc f.toNat { x with bar2 := size })) ∧
    (∀ st, (x.state = .unlocked ∧ st = .locked ∨ x.state = .locked ∧ st = .run ∨
        (x.state = .locked ∨ x.state = .run) ∧ st = .error ∨ st = .unlocked) →
      exec (.tdispMessage f st) s = .next (s.setFunc f.toNat { x with state := st })) ∧
    (∀ keyed, keyed = false ∨ s.keyedBeside f.toNat < 8 →
      exec (.ideKm f keyed) s = .next (s.setFunc f.toNat { x with ide := keyed })) ∧
    (∀ i : BitVec 6, (s.rangeEntry i.toNat).valid = true →
      (∃ t, exec (.extentRemove i) s = .next t ∧ t.rangeEntry i.toNat = { s.rangeEntry i.toNat with remove := true } ∧
        (∀ j, j ≠ i.toNat → t.rangeEntry j = s.rangeEntry j) ∧ t.hart = s.hart ∧
        (∀ p l, halfBase ≤ l → (s.rangeEntry i.toNat).covers (lineAddr l) = true → t.coh.l2Of p l = none)) ∧
      ((s.rangeEntry i.toNat).remove = true → (∀ h ∈ s.cxlHeld, h.ext ≠ i.toNat) →
          s.copiesIn (s.rangeEntry i.toNat) = false →
        exec (.extentRemoved i) s = .next (s.setRange i.toNat { s.rangeEntry i.toNat with valid := false, remove := false }))) ∧
    (s.leaf < 2 ^ 20 → ∃ t sig, exec .spdmMeasurement s = .next t ∧ t.leaf = s.leaf + 1 ∧
      t.hostOut = s.hostOut ++ [.signature s.leaf sig] ∧ t.hart = s.hart ∧ t.mem = s.mem) ∧
    (2 ^ 20 ≤ s.leaf → exec .spdmMeasurement s = .next (send .spdmError)) ∧
    (∀ p, p ∈ s.places → exec (.spdmDebugRequest p) s = .next (s.setHart p { s.hartAt p with pend1 := true }))

/-- R461 to R464: corrected errors are counted and logged, and the eighth in a window retires the unit; an uncorrected
one poisons its sector; a parity error of a hart's registers or queues, or of a Carter frame, which nothing corrects,
kills the task. -/
def Obligations.ErrorReports : Prop :=
  ∀ s : State,
    let code : RasUnit → BitVec 7 := fun
      | .hbm => 0 | .well => 1 | .directory => 2 | .l2 => 3 | .l1 => 4 | .croftStore => 5 | .regFile => 6 | .link => 7
    let entry (kind : BitVec 3) (u : RasUnit) (loc : Nat) : Word :=
      1#1 ++ BitVec.ofBool s.raslost ++ kind ++ code u ++ BitVec.ofNat 52 loc
    -- the log with one entry more, or, when it is full, its mark of loss
    let logs (t : State) (w : Word) : Prop :=
      (s.raslog.length < 64 → t.raslog = s.raslog ++ [w] ∧ t.raslost = false) ∧
      (64 ≤ s.raslog.length → t.raslog = s.raslog ∧ t.raslost = true)
    let counted (u : RasUnit) : Prop := u = .hbm ∨ u = .well ∨ u = .l2 ∨ u = .link
    (∀ n loc, exec (.correctedError .regFile n loc) s = .refused (.notEnabled "CORRECTED_ERROR")) ∧
    (∀ u n loc, u ≠ .regFile →
      ((¬ counted u ∨ (u, n) ∈ s.retired) → ∃ t, exec (.correctedError u n loc) s = .next t ∧ logs t (entry 0 u loc) ∧
        t.counts = s.counts ∧ t.hart = s.hart ∧ t.mem = s.mem) ∧
      (counted u → (u, n) ∉ s.retired → alGet 0 (u, n) s.counts < 7 → ∃ t, exec (.correctedError u n loc) s = .next t ∧
        logs t (entry 0 u loc) ∧ alGet 0 (u, n) t.counts = alGet 0 (u, n) s.counts + 1 ∧ t.retired = s.retired ∧
        t.hart = s.hart ∧ t.mem = s.mem) ∧
      (counted u → (u, n) ∉ s.retired → 7 ≤ alGet 0 (u, n) s.counts → ∃ t, exec (.correctedError u n loc) s = .next t ∧
        t.retired = (u, n) :: s.retired ∧ t.hart = s.hart ∧ t.mem = s.mem)) ∧
    (∀ u addr, u ≠ .regFile → ∃ t, exec (.uncorrectableError u addr) s = .next t ∧ logs t (entry 2 u addr) ∧
      addr / 32 ∈ t.poison ∧ (∀ y, y ∈ s.poison → y ∈ t.poison) ∧ t.mem = s.mem ∧ t.hart = s.hart) ∧
    (∀ u n, ∃ t, exec (.rasWindow u n) s = .next t ∧ alGet 0 (u, n) t.counts = 0 ∧ t.hart = s.hart ∧ t.mem = s.mem) ∧
    (∀ p, p ∈ s.places → exec (.parityError (.hart p)) s = .next (s.setHart p { s.hartAt p with pend2 := true })) ∧
    (∀ id, s.framed id = true → exec (.parityError (.frame id)) s = .next (s.markKill id))

/-- R469 to R472, R458: the transitions of a parish's power state that R470 lists, each from the state and with the
registers that it asks for; a write that the table does not accept, of QREQ, of OP, of CLKEN or of RAILEN, sets SEQERR and
changes nothing else; and a cold reset. The model's own are: the layout of the save area (log 16), that a cold reset keeps
the bytes of memory (log 17), and that the contexts of a parish are vacant once its rail has fallen (log 24). -/
def Obligations.PowerTransitions : Prop :=
  ∀ (s : State) (pp : Nat),
    let w := s.power pp
    let put (p : Power) : State := s.setPower pp p
    let seqerr : State := { s with hart := { s.hart with seqerr := true } }
    (s.hasPower pp = false → ∀ v, exec (.clkenWrite pp v) s = .next seqerr ∧ exec (.railenWrite pp v) s = .next seqerr) ∧
    -- PW.QREQ, and OP of PW.CTL, as SWR writes them
    (∀ v : Word, s.hart.pwSel.toNat = pp →
      let b := v.getLsbD 0
      let down : Prop := w.st = .drain ∨ w.st = .quiesce ∨ w.st = .saved
      (s.hasPower pp = false → s.writeReg 0x301 v = seqerr) ∧
      (s.hasPower pp = true → w.qreq = b → s.writeReg 0x301 v = s) ∧
      (s.hasPower pp = true → w.qreq ≠ b → ¬ ((w.st = .run ∧ b = true) ∨ (down ∧ b = false)) → s.writeReg 0x301 v = seqerr)) ∧
    (∀ v : Word, (v.extractLsb' 0 8).toNat = pp →
      let refused : State := { s with hart := { s.hart with
        seqerr := true, pwMode := v.getLsbD 8, pwSel := v.extractLsb' 0 8 } }
      (v.extractLsb' 12 2 = 1 → s.hasPower pp = false ∨ w.st ≠ .quiesce → s.writeReg 0x300 v = refused) ∧
      (v.extractLsb' 12 2 = 2 → s.hasPower pp = false ∨ w.st ≠ .powered ∨ w.clken = false →
        s.writeReg 0x300 v = refused)) ∧
    (s.hasPower pp = true →
      (w.st = .run → ∃ t, exec (.quiesceRequest pp) s = .next t ∧ (t.power pp).st = .drain ∧ (t.power pp).qreq = true ∧
        t.mem = s.mem) ∧
      ((w.st = .drain ∨ w.st = .quiesce ∨ w.st = .saved) → ∃ t, exec (.quiesceCancel pp) s = .next t ∧
        (t.power pp).st = .run ∧ (t.power pp).qreq = false ∧ (t.power pp).ack = false ∧ t.mem = s.mem) ∧
      (s.isDrained pp = true → exec (.drained pp) s = .next (put { w with st := .quiesce, ack := true })) ∧
      (w.st = .quiesce → ∃ t, exec (.save pp) s = .next t ∧ (t.power pp).st = .saving ∧ (t.power pp).done = false ∧
        (t.power pp).err = false ∧ (t.power pp).modeOff = s.hart.pwMode ∧ t.mem = s.mem) ∧
      (w.st = .saving → s.linesIn pp = [] →
        let lost : Prop :=
          2 ^ 39 < w.saveptr.toNat + 524288 ∨ ∃ l ∈ linesOf w.saveptr.toNat 524288, lineHome l ∈ s.lostDies
        (w.modeOff = true → lost →
          exec (.saveEnd pp) s = .next (put { w with st := .quiesce, done := true, err := true })) ∧
        (w.modeOff = false → exec (.saveEnd pp) s = .next (put { w with st := .saved, done := true, fresh := false })) ∧
        (w.modeOff = true → ¬ lost → ∀ u, s.writeArea pp = .ok u →
          exec (.saveEnd pp) s = .next (u.setPower pp { w with st := .saved, done := true, fresh := false }))) ∧
      (∀ v : Word, let b := v.getLsbD 0
        (w.clken = b → exec (.clkenWrite pp v) s = .next s) ∧
        (w.clken = true → b = false → w.st = .saved →
          exec (.clkenWrite pp v) s = .next (put { w with clken := false, st := .stopped })) ∧
        (w.clken = false → b = true → w.st = .stopped →
          exec (.clkenWrite pp v) s = .next (put { w with clken := true, st := .saved })) ∧
        (w.clken = false → b = true → w.st = .powered → exec (.clkenWrite pp v) s = .next (put { w with clken := true })) ∧
        (w.clken = false → b = true → w.st ≠ .stopped → w.st ≠ .powered → exec (.clkenWrite pp v) s = .next seqerr) ∧
        (w.clken = true → b = false → w.st ≠ .saved → exec (.clkenWrite pp v) s = .next seqerr)) ∧
      (∀ v : Word, let ret := v.getLsbD 1; let main := v.getLsbD 0
        let set : State := put { w with enRet := ret, enMain := main }
        let ok : Prop := (w.st = .stopped ∧ main = false ∧ ret = !w.modeOff) ∨
          ((w.st = .ret ∨ w.st = .off) ∧ ret = true ∧ main = true)
        (w.enRet = ret ∧ w.enMain = main → exec (.railenWrite pp v) s = .next s) ∧
        (¬ (w.enRet = ret ∧ w.enMain = main) → ok → exec (.railenWrite pp v) s = .next set) ∧
        (¬ (w.enRet = ret ∧ w.enMain = main) → ¬ ok → exec (.railenWrite pp v) s = .next seqerr)) ∧
      (¬ (w.okRet = w.enRet ∧ w.okMain = w.enMain) → s.dieOf pp ∉ s.lostDies →
        let w1 := { w with okRet := w.enRet, okMain := w.enMain }
        (w.st = .stopped → w.enMain = false → ∃ t, exec (.railSettled pp) s = .next t ∧
          t.power pp = { w1 with st := if w.modeOff then .off else .ret } ∧
          (∀ p, p ∈ s.places → s.ppOf p.core = pp → (t.hartAt p).wait = .vacant) ∧ t.mem = s.mem) ∧
        ((w.st = .ret ∨ w.st = .off) → w.enRet = true → w.enMain = true →
          exec (.railSettled pp) s = .next (put { w1 with st := .powered }))) ∧
      (w.st = .powered → w.clken = true →
        exec (.restore pp) s = .next (put { w with st := .restoring, done := false, err := false })) ∧
      (∀ u, w.st = .restoring → s.restoreReads pp = .ok u → ∃ t, exec (.restoreEnd pp) s = .next t ∧ (t.power pp).st = .quiesce ∧
        (t.power pp).ack = true ∧ (t.power pp).done = true ∧ (s.restoreFails pp = false → t.mem = s.mem) ∧
        (w.fresh = true → t.pdata pp = ParishData.reset) ∧
        (w.fresh = false → w.modeOff = false → t.pdata pp = s.pdata pp)) ∧
      exec (.wakeRequest pp) s = .next (put { w with wake := true })) ∧
    (∃ t, exec .coldReset s = .next t ∧ t.hart = Hart.reset ∧ t.here = { core := { die := 0, parish := 0, core := 0 }, hart := 0 } ∧
      t.others = [] ∧ t.parishes = [] ∧ t.lostDies = [] ∧ t.moots = [] ∧ t.mem = s.mem ∧ t.leaf = s.leaf ∧
      t.member = s.member)

/-! ### Encodings, the step, and what every step keeps -/

/-- R47 to R57: the bytes of a well-formed instruction decode to it, whatever follows them. -/
def Obligations.DecodeEncode : Prop :=
  ∀ (i : Instr) (e : Enc) (rest : List Byte), WellFormed i = true → encode i = some e →
    decode (encodeBytes i ++ rest) = .ok (i, rest)

/-- R84: the decoder answers well-formed instructions only, and only for the bytes that encode them: no bit of a word
goes unread, so every encoding that the spec leaves reserved is refused. -/
def Obligations.EncodeDecode : Prop :=
  ∀ (bs : List Byte) (i : Instr) (rest : List Byte), decode bs = .ok (i, rest) →
    WellFormed i = true ∧ encodeBytes i ++ rest = bs

/-- R47 to R84: words put together by hand from the encoding tables of spec 02. -/
def Obligations.DecodeWords : Prop :=
  decode [0x00, 0x04] = .ok (.cnop, []) ∧
  -- 0 00011 00101 11111
  decode [0xBF, 0x0C] = .ok (.caddi 5 31, []) ∧
  -- C 00010, B 00001, F 000000, LEN 10, MAJ 000001, A 00011, X 000
  decode [0x18, 0x81, 0x40, 0x10] = .ok (.add 3 1 2, []) ∧
  -- C 11111, B 01001, F 111111, LEN 10, MAJ 000010, A 00111, X 111
  decode [0x3F, 0x82, 0x7F, 0xFA] = .ok (.addi 7 9 0x3FFF, []) ∧
  -- C 11111, B 00101, F 111111, LEN 10, MAJ 010000, A 00100, X 110
  decode [0x26, 0x90, 0x7F, 0xF9] = .ok (.beq 4 5 0x3FFE, []) ∧
  -- C 11111, B 00010, F 000111, LEN 10, MAJ 001011, A 00101, X 011
  decode [0x2B, 0x8B, 0x87, 0xF8] = .ok (.load 5 2 0x7C7 .d, []) ∧
  -- B 00010, LEN 11, MAJ 000010, A 00001, and an extension word with bit 31 alone
  decode [0x08, 0xC2, 0x80, 0x00, 0x00, 0x00, 0x00, 0x80] = .ok (.addiL 1 2 0x80000000, []) ∧
  -- C 00001, B 00010, LEN 10, MAJ 011110
  decode [0x00, 0x9E, 0x80, 0x08] = .ok (.syscall 0x22, []) ∧
  -- C 00011, B 00010, LEN 10, MAJ 011001, A 00001, X 100
  decode [0x0C, 0x99, 0x80, 0x18] = .ok (.mootnew 1 2 3 4, []) ∧
  -- C 00010, B 00011, LEN 10, MAJ 100000, A 00001
  decode [0x08, 0xA0, 0xC0, 0x10] =
    .ok (.vadd { a := 1, c := 2, b := 3, j := false, drv := 0, form := .vv, m := 0 }, []) ∧
  -- C 10110, B 00010, LEN 10, MAJ 110110, A 00001, X 001
  decode [0x09, 0xB6, 0x80, 0xB0] = .ok (.vsetn { a := 1, b := 2, sew := .e32, grp := .x2, tz := true, mz := true }, []) ∧
  -- C 01001, B 00100, LEN 10, MAJ 111110, A 00001, X 010
  decode [0x0A, 0xBE, 0x00, 0x49] = .ok (.mma { t := 1, b := .latch false, ka := 1, kb := 2, cb := 2 }, []) ∧
  -- a major that the table does not name
  decode [0x00, 0x80, 0x00, 0x00] = .error (.illegal 4 0x8000)

/-- R47, R84, R85: a step runs the instruction whose bytes stand at the pc, in the state that its fetch leaves, when no
other agent is due by the schedule (log 3) and nothing is due at the boundary before it; a step whose schedule names
another hart or an event is that hart's turn, or that event. -/
def Obligations.StepRunsDecoded : Prop :=
  ∀ s : State,
    (∀ (s1 s2 : State) (b0 b1 rest : List Byte) (i : Instr), s.turns = [] → 0 ∉ s.lostDies → s.hart.wait = .running →
      s.before = none → (s.recovery = false ∨ s.cclass ≠ .C) → s.hart.pc.getLsbD 0 = false →
      s.fetchHalves s.hart.pc 1 = .done b0 s1 →
      s1.fetchHalves (s.hart.pc + 2) (lengthOf (BitVec.ofNat 16 (leNat b0)) / 2 - 1) = .done b1 s2 →
      decode (b0 ++ b1) = .ok (i, rest) → step s = exec i s2) ∧
    (s.hart.winCount < 65536 → s.hart.evict = false → s.hart.moveTo = none → s.hart.pend1 = false → s.hart.pend2 = false →
      s.hart.fpTraps = [] → s.before = none) ∧
    (∀ i t, s.turns = .event i :: t → 0 ∉ s.lostDies → encode i = none → step s = exec i { s with turns := t }) ∧
    (∀ t, s.turns = .event .coldReset :: t → step s = exec .coldReset { s with turns := t }) ∧
    (∀ p t, s.turns = .run p :: t → 0 ∉ s.lostDies → p ∈ s.places →
      step s = (({ s with turns := t } : State).switchTo p).turn)

/-- Memory is in its canonical form at reset. -/
def Obligations.ResetMemoryCanonical : Prop := MemOk State.reset

/-- Every step keeps memory in its canonical form, so that equal memories are equal data. -/
def Obligations.StepKeepsMemoryCanonical : Prop :=
  ∀ s t : State, MemOk s → step s = .next t → MemOk t

/-- R117, R119, R202: no instruction that a hart executes at TASK changes where its traps go, which level they go to, or
the address space that it runs in. A hart that ended, or that waits elsewhere for a context, has left its own vacant. -/
def Obligations.TaskKeepsPrivilegedRegisters : Prop :=
  ∀ (i : Instr) (s t : State), encode i ≠ none → s.hart.status.priv = .task → exec i s = .next t →
    t.hart.wait = .vacant ∨
    (t.hart.tvec = s.hart.tvec ∧ t.hart.ftvec = s.hart.ftvec ∧ t.hart.tdeleg = s.hart.tdeleg ∧
      t.hart.asid = s.hart.asid ∧ t.hart.ptroot = s.hart.ptroot ∧ t.hart.ccid = s.hart.ccid ∧
      (t.hart.status.priv = .task ∨ (t.hart.status.priv = .super ∧ t.hart.status.spp = .task) ∨
        (t.hart.status.priv = .firm ∧ t.hart.status.fpp = .task)))
end

