-- ==== Sys2Proof/Laws/Exec.lean ====
section
/-! SUPPORT. One equation for each arm of `exec`: the operation has the meaning of its name. -/

namespace Sys2Proof.Machine

@[simp] theorem exec_cmv (r g : GReg) (st : State) : exec (.cmv r g) st = execCmv r g st := rfl
@[simp] theorem exec_caddi (r : GReg) (imm : BitVec 5) (st : State) : exec (.caddi r imm) st = execCaddi r imm st := rfl
@[simp] theorem exec_cadd (r g : GReg) (st : State) : exec (.cadd r g) st = execCadd r g st := rfl
@[simp] theorem exec_csub (r g : GReg) (st : State) : exec (.csub r g) st = execCsub r g st := rfl
@[simp] theorem exec_cand (r g : GReg) (st : State) : exec (.cand r g) st = execCand r g st := rfl
@[simp] theorem exec_cor (r g : GReg) (st : State) : exec (.cor r g) st = execCor r g st := rfl
@[simp] theorem exec_cxor (r g : GReg) (st : State) : exec (.cxor r g) st = execCxor r g st := rfl
@[simp] theorem exec_cshli (r : GReg) (sh : BitVec 5) (st : State) : exec (.cshli r sh) st = execCshli r sh st := rfl
@[simp] theorem exec_cshri (r : GReg) (sh : BitVec 5) (st : State) : exec (.cshri r sh) st = execCshri r sh st := rfl
@[simp] theorem exec_csrai (r : GReg) (sh : BitVec 5) (st : State) : exec (.csrai r sh) st = execCsrai r sh st := rfl
@[simp] theorem exec_cld (r : GReg) (off : BitVec 5) (st : State) : exec (.cld r off) st = execCld r off st := rfl
@[simp] theorem exec_cst (r : GReg) (off : BitVec 5) (st : State) : exec (.cst r off) st = execCst r off st := rfl
@[simp] theorem exec_cbnz (d : BitVec 10) (st : State) : exec (.cbnz d) st = execCbnz d st := rfl
@[simp] theorem exec_cbez (d : BitVec 10) (st : State) : exec (.cbez d) st = execCbez d st := rfl
@[simp] theorem exec_cvadd (r g : VReg) (st : State) : exec (.cvadd r g) st = execCvadd r g st := rfl
@[simp] theorem exec_cvmul (r g : VReg) (st : State) : exec (.cvmul r g) st = execCvmul r g st := rfl
@[simp] theorem exec_cvfma (r g : VReg) (st : State) : exec (.cvfma r g) st = execCvfma r g st := rfl
@[simp] theorem exec_add (a b c : GReg) (st : State) : exec (.add a b c) st = execAdd a b c st := rfl
@[simp] theorem exec_sub (a b c : GReg) (st : State) : exec (.sub a b c) st = execSub a b c st := rfl
@[simp] theorem exec_and (a b c : GReg) (st : State) : exec (.and a b c) st = execAnd a b c st := rfl
@[simp] theorem exec_or (a b c : GReg) (st : State) : exec (.or a b c) st = execOr a b c st := rfl
@[simp] theorem exec_xor (a b c : GReg) (st : State) : exec (.xor a b c) st = execXor a b c st := rfl
@[simp] theorem exec_andn (a b c : GReg) (st : State) : exec (.andn a b c) st = execAndn a b c st := rfl
@[simp] theorem exec_orn (a b c : GReg) (st : State) : exec (.orn a b c) st = execOrn a b c st := rfl
@[simp] theorem exec_xnor (a b c : GReg) (st : State) : exec (.xnor a b c) st = execXnor a b c st := rfl
@[simp] theorem exec_shl (a b c : GReg) (st : State) : exec (.shl a b c) st = execShl a b c st := rfl
@[simp] theorem exec_shr (a b c : GReg) (st : State) : exec (.shr a b c) st = execShr a b c st := rfl
@[simp] theorem exec_sra (a b c : GReg) (st : State) : exec (.sra a b c) st = execSra a b c st := rfl
@[simp] theorem exec_rol (a b c : GReg) (st : State) : exec (.rol a b c) st = execRol a b c st := rfl
@[simp] theorem exec_ror (a b c : GReg) (st : State) : exec (.ror a b c) st = execRor a b c st := rfl
@[simp] theorem exec_slt (a b c : GReg) (st : State) : exec (.slt a b c) st = execSlt a b c st := rfl
@[simp] theorem exec_sltu (a b c : GReg) (st : State) : exec (.sltu a b c) st = execSltu a b c st := rfl
@[simp] theorem exec_min (a b c : GReg) (st : State) : exec (.min a b c) st = execMin a b c st := rfl
@[simp] theorem exec_max (a b c : GReg) (st : State) : exec (.max a b c) st = execMax a b c st := rfl
@[simp] theorem exec_minu (a b c : GReg) (st : State) : exec (.minu a b c) st = execMinu a b c st := rfl
@[simp] theorem exec_maxu (a b c : GReg) (st : State) : exec (.maxu a b c) st = execMaxu a b c st := rfl
@[simp] theorem exec_mul (a b c : GReg) (st : State) : exec (.mul a b c) st = execMul a b c st := rfl
@[simp] theorem exec_mulh (a b c : GReg) (st : State) : exec (.mulh a b c) st = execMulh a b c st := rfl
@[simp] theorem exec_mulhu (a b c : GReg) (st : State) : exec (.mulhu a b c) st = execMulhu a b c st := rfl
@[simp] theorem exec_div (a b c : GReg) (st : State) : exec (.div a b c) st = execDiv a b c st := rfl
@[simp] theorem exec_divu (a b c : GReg) (st : State) : exec (.divu a b c) st = execDivu a b c st := rfl
@[simp] theorem exec_rem (a b c : GReg) (st : State) : exec (.rem a b c) st = execRem a b c st := rfl
@[simp] theorem exec_remu (a b c : GReg) (st : State) : exec (.remu a b c) st = execRemu a b c st := rfl
@[simp] theorem exec_clz (a b : GReg) (st : State) : exec (.clz a b) st = execClz a b st := rfl
@[simp] theorem exec_ctz (a b : GReg) (st : State) : exec (.ctz a b) st = execCtz a b st := rfl
@[simp] theorem exec_popc (a b : GReg) (st : State) : exec (.popc a b) st = execPopc a b st := rfl
@[simp] theorem exec_bswap (a b : GReg) (st : State) : exec (.bswap a b) st = execBswap a b st := rfl
@[simp] theorem exec_sext (a b : GReg) (width : ExtW) (st : State) : exec (.sext a b width) st = execSext a b width st := rfl
@[simp] theorem exec_zext (a b : GReg) (width : ExtW) (st : State) : exec (.zext a b width) st = execZext a b width st := rfl
@[simp] theorem exec_bfx (a b c : GReg) (st : State) : exec (.bfx a b c) st = execBfx a b c st := rfl
@[simp] theorem exec_bfi (a b c : GReg) (st : State) : exec (.bfi a b c) st = execBfi a b c st := rfl
@[simp] theorem exec_select (a b c : GReg) (st : State) : exec (.select a b c) st = execSelect a b c st := rfl
@[simp] theorem exec_addsc1 (a b c : GReg) (st : State) : exec (.addsc1 a b c) st = execAddsc1 a b c st := rfl
@[simp] theorem exec_addsc2 (a b c : GReg) (st : State) : exec (.addsc2 a b c) st = execAddsc2 a b c st := rfl
@[simp] theorem exec_addsc3 (a b c : GReg) (st : State) : exec (.addsc3 a b c) st = execAddsc3 a b c st := rfl
@[simp] theorem exec_addi (a b : GReg) (imm : BitVec 14) (st : State) : exec (.addi a b imm) st = execAddi a b imm st := rfl
@[simp] theorem exec_andi (a b : GReg) (imm : BitVec 14) (st : State) : exec (.andi a b imm) st = execAndi a b imm st := rfl
@[simp] theorem exec_ori (a b : GReg) (imm : BitVec 14) (st : State) : exec (.ori a b imm) st = execOri a b imm st := rfl
@[simp] theorem exec_xori (a b : GReg) (imm : BitVec 14) (st : State) : exec (.xori a b imm) st = execXori a b imm st := rfl
@[simp] theorem exec_slti (a b : GReg) (imm : BitVec 14) (st : State) : exec (.slti a b imm) st = execSlti a b imm st := rfl
@[simp] theorem exec_sltiu (a b : GReg) (imm : BitVec 14) (st : State) : exec (.sltiu a b imm) st = execSltiu a b imm st := rfl
@[simp] theorem exec_addiL (a b : GReg) (imm : BitVec 32) (st : State) : exec (.addiL a b imm) st = execAddiL a b imm st := rfl
@[simp] theorem exec_andiL (a b : GReg) (imm : BitVec 32) (st : State) : exec (.andiL a b imm) st = execAndiL a b imm st := rfl
@[simp] theorem exec_oriL (a b : GReg) (imm : BitVec 32) (st : State) : exec (.oriL a b imm) st = execOriL a b imm st := rfl
@[simp] theorem exec_xoriL (a b : GReg) (imm : BitVec 32) (st : State) : exec (.xoriL a b imm) st = execXoriL a b imm st := rfl
@[simp] theorem exec_sltiL (a b : GReg) (imm : BitVec 32) (st : State) : exec (.sltiL a b imm) st = execSltiL a b imm st := rfl
@[simp] theorem exec_sltiuL (a b : GReg) (imm : BitVec 32) (st : State) : exec (.sltiuL a b imm) st = execSltiuL a b imm st := rfl
@[simp] theorem exec_shli (a b : GReg) (sh : BitVec 6) (st : State) : exec (.shli a b sh) st = execShli a b sh st := rfl
@[simp] theorem exec_shri (a b : GReg) (sh : BitVec 6) (st : State) : exec (.shri a b sh) st = execShri a b sh st := rfl
@[simp] theorem exec_srai (a b : GReg) (sh : BitVec 6) (st : State) : exec (.srai a b sh) st = execSrai a b sh st := rfl
@[simp] theorem exec_rori (a b : GReg) (sh : BitVec 6) (st : State) : exec (.rori a b sh) st = execRori a b sh st := rfl
@[simp] theorem exec_ldhi (a : GReg) (imm : BitVec 19) (st : State) : exec (.ldhi a imm) st = execLdhi a imm st := rfl
@[simp] theorem exec_addpc (a : GReg) (imm : BitVec 19) (st : State) : exec (.addpc a imm) st = execAddpc a imm st := rfl
@[simp] theorem exec_laddpc (a : GReg) (off : BitVec 32) (st : State) : exec (.laddpc a off) st = execLaddpc a off st := rfl
@[simp] theorem exec_load (a b : GReg) (off : BitVec 11) (sz : LoadSize) (st : State) : exec (.load a b off sz) st = execLoad a b off sz st := rfl
@[simp] theorem exec_loadL (a b : GReg) (off : BitVec 32) (sz : LoadSize) (st : State) : exec (.loadL a b off sz) st = execLoadL a b off sz st := rfl
@[simp] theorem exec_store (a b : GReg) (off : BitVec 11) (sz : StoreSize) (st : State) : exec (.store a b off sz) st = execStore a b off sz st := rfl
@[simp] theorem exec_storeL (a b : GReg) (off : BitVec 32) (sz : StoreSize) (st : State) : exec (.storeL a b off sz) st = execStoreL a b off sz st := rfl
@[simp] theorem exec_loadx (a b c : GReg) (sc : BitVec 2) (sz : LoadSize) (st : State) : exec (.loadx a b c sc sz) st = execLoadx a b c sc sz st := rfl
@[simp] theorem exec_storex (a b c : GReg) (sc : BitVec 2) (sz : StoreSize) (st : State) : exec (.storex a b c sc sz) st = execStorex a b c sc sz st := rfl
@[simp] theorem exec_loadAcq (a b : GReg) (scope : Scope) (sz : LoadSize) (st : State) : exec (.loadAcq a b scope sz) st = execLoadAcq a b scope sz st := rfl
@[simp] theorem exec_storeRel (a b : GReg) (scope : Scope) (sz : StoreSize) (st : State) : exec (.storeRel a b scope sz) st = execStoreRel a b scope sz st := rfl
@[simp] theorem exec_amoadd (o : AmoOps) (st : State) : exec (.amoadd o) st = execAmoadd o st := rfl
@[simp] theorem exec_amoand (o : AmoOps) (st : State) : exec (.amoand o) st = execAmoand o st := rfl
@[simp] theorem exec_amoor (o : AmoOps) (st : State) : exec (.amoor o) st = execAmoor o st := rfl
@[simp] theorem exec_amoxor (o : AmoOps) (st : State) : exec (.amoxor o) st = execAmoxor o st := rfl
@[simp] theorem exec_amomin (o : AmoOps) (st : State) : exec (.amomin o) st = execAmomin o st := rfl
@[simp] theorem exec_amomax (o : AmoOps) (st : State) : exec (.amomax o) st = execAmomax o st := rfl
@[simp] theorem exec_amominu (o : AmoOps) (st : State) : exec (.amominu o) st = execAmominu o st := rfl
@[simp] theorem exec_amomaxu (o : AmoOps) (st : State) : exec (.amomaxu o) st = execAmomaxu o st := rfl
@[simp] theorem exec_amoswap (o : AmoOps) (st : State) : exec (.amoswap o) st = execAmoswap o st := rfl
@[simp] theorem exec_amofadd (o : AmoOps) (st : State) : exec (.amofadd o) st = execAmofadd o st := rfl
@[simp] theorem exec_cas (o : AmoOps) (st : State) : exec (.cas o) st = execCas o st := rfl
@[simp] theorem exec_fenceAcq (sc : Scope) (st : State) : exec (.fenceAcq sc) st = execFenceAcq sc st := rfl
@[simp] theorem exec_fenceRel (sc : Scope) (st : State) : exec (.fenceRel sc) st = execFenceRel sc st := rfl
@[simp] theorem exec_fenceFull (sc : Scope) (st : State) : exec (.fenceFull sc) st = execFenceFull sc st := rfl
@[simp] theorem exec_waitm (a b c : GReg) (dbl : Bool) (sc : Scope) (st : State) : exec (.waitm a b c dbl sc) st = execWaitm a b c dbl sc st := rfl
@[simp] theorem exec_prefetch (b : GReg) (write : Bool) (st : State) : exec (.prefetch b write) st = execPrefetch b write st := rfl
@[simp] theorem exec_clean (b : GReg) (sc : Scope) (st : State) : exec (.clean b sc) st = execClean b sc st := rfl
@[simp] theorem exec_flush (b : GReg) (sc : Scope) (st : State) : exec (.flush b sc) st = execFlush b sc st := rfl
@[simp] theorem exec_inval (b : GReg) (sc : Scope) (st : State) : exec (.inval b sc) st = execInval b sc st := rfl
@[simp] theorem exec_beq (a b : GReg) (d : BitVec 14) (st : State) : exec (.beq a b d) st = execBeq a b d st := rfl
@[simp] theorem exec_bne (a b : GReg) (d : BitVec 14) (st : State) : exec (.bne a b d) st = execBne a b d st := rfl
@[simp] theorem exec_blt (a b : GReg) (d : BitVec 14) (st : State) : exec (.blt a b d) st = execBlt a b d st := rfl
@[simp] theorem exec_bge (a b : GReg) (d : BitVec 14) (st : State) : exec (.bge a b d) st = execBge a b d st := rfl
@[simp] theorem exec_bltu (a b : GReg) (d : BitVec 14) (st : State) : exec (.bltu a b d) st = execBltu a b d st := rfl
@[simp] theorem exec_bgeu (a b : GReg) (d : BitVec 14) (st : State) : exec (.bgeu a b d) st = execBgeu a b d st := rfl
@[simp] theorem exec_beqL (a b : GReg) (d : BitVec 32) (st : State) : exec (.beqL a b d) st = execBeqL a b d st := rfl
@[simp] theorem exec_bneL (a b : GReg) (d : BitVec 32) (st : State) : exec (.bneL a b d) st = execBneL a b d st := rfl
@[simp] theorem exec_bltL (a b : GReg) (d : BitVec 32) (st : State) : exec (.bltL a b d) st = execBltL a b d st := rfl
@[simp] theorem exec_bgeL (a b : GReg) (d : BitVec 32) (st : State) : exec (.bgeL a b d) st = execBgeL a b d st := rfl
@[simp] theorem exec_bltuL (a b : GReg) (d : BitVec 32) (st : State) : exec (.bltuL a b d) st = execBltuL a b d st := rfl
@[simp] theorem exec_bgeuL (a b : GReg) (d : BitVec 32) (st : State) : exec (.bgeuL a b d) st = execBgeuL a b d st := rfl
@[simp] theorem exec_call (a : GReg) (d : BitVec 19) (st : State) : exec (.call a d) st = execCall a d st := rfl
@[simp] theorem exec_lcall (a : GReg) (d : BitVec 32) (st : State) : exec (.lcall a d) st = execLcall a d st := rfl
@[simp] theorem exec_jumpr (a b : GReg) (imm : BitVec 14) (st : State) : exec (.jumpr a b imm) st = execJumpr a b imm st := rfl
@[simp] theorem exec_spawn (a b c : GReg) (p : BitVec 2) (st : State) : exec (.spawn a b c p) st = execSpawn a b c p st := rfl
@[simp] theorem exec_msgopen (b c : GReg) (core : Bool) (st : State) : exec (.msgopen b c core) st = execMsgopen b c core st := rfl
@[simp] theorem exec_msgpoll (a : GReg) (st : State) : exec (.msgpoll a) st = execMsgpoll a st := rfl
@[simp] theorem exec_mootnew (a b c : GReg) (h : BitVec 3) (st : State) : exec (.mootnew a b c h) st = execMootnew a b c h st := rfl
@[simp] theorem exec_mootjoin (a b : GReg) (h : BitVec 3) (st : State) : exec (.mootjoin a b h) st = execMootjoin a b h st := rfl
@[simp] theorem exec_mootleave (h : BitVec 3) (st : State) : exec (.mootleave h) st = execMootleave h st := rfl
@[simp] theorem exec_mootfree (a : GReg) (h : BitVec 3) (st : State) : exec (.mootfree a h) st = execMootfree a h st := rfl
@[simp] theorem exec_mootarrive (a : GReg) (h : BitVec 3) (st : State) : exec (.mootarrive a h) st = execMootarrive a h st := rfl
@[simp] theorem exec_mootwait (a b : GReg) (h : BitVec 3) (st : State) : exec (.mootwait a b h) st = execMootwait a b h st := rfl
@[simp] theorem exec_mootsync (a : GReg) (h : BitVec 3) (st : State) : exec (.mootsync a h) st = execMootsync a h st := rfl
@[simp] theorem exec_mootvoteAll (a b : GReg) (h : BitVec 3) (st : State) : exec (.mootvoteAll a b h) st = execMootvoteAll a b h st := rfl
@[simp] theorem exec_mootvoteAny (a b : GReg) (h : BitVec 3) (st : State) : exec (.mootvoteAny a b h) st = execMootvoteAny a b h st := rfl
@[simp] theorem exec_mootvoteCount (a b : GReg) (h : BitVec 3) (st : State) : exec (.mootvoteCount a b h) st = execMootvoteCount a b h st := rfl
@[simp] theorem exec_mootbytes (b : GReg) (h : BitVec 3) (st : State) : exec (.mootbytes b h) st = execMootbytes b h st := rfl
@[simp] theorem exec_mootquery (a b : GReg) (h : BitVec 3) (st : State) : exec (.mootquery a b h) st = execMootquery a b h st := rfl
@[simp] theorem exec_mootredAdd (a b : GReg) (t : MootType) (h : BitVec 3) (st : State) : exec (.mootredAdd a b t h) st = execMootredAdd a b t h st := rfl
@[simp] theorem exec_mootredMin (a b : GReg) (t : MootType) (h : BitVec 3) (st : State) : exec (.mootredMin a b t h) st = execMootredMin a b t h st := rfl
@[simp] theorem exec_mootredMax (a b : GReg) (t : MootType) (h : BitVec 3) (st : State) : exec (.mootredMax a b t h) st = execMootredMax a b t h st := rfl
@[simp] theorem exec_mootredAnd (a b : GReg) (h : BitVec 3) (st : State) : exec (.mootredAnd a b h) st = execMootredAnd a b h st := rfl
@[simp] theorem exec_mootredOr (a b : GReg) (h : BitVec 3) (st : State) : exec (.mootredOr a b h) st = execMootredOr a b h st := rfl
@[simp] theorem exec_mootredXor (a b : GReg) (h : BitVec 3) (st : State) : exec (.mootredXor a b h) st = execMootredXor a b h st := rfl
@[simp] theorem exec_xcopy (a b : GReg) (st : State) : exec (.xcopy a b) st = execXcopy a b st := rfl
@[simp] theorem exec_qgather (a b : VReg) (c : GReg) (m : MaskSel) (st : State) : exec (.qgather a b c m) st = execQgather a b c m st := rfl
@[simp] theorem exec_qwalk (a b : GReg) (st : State) : exec (.qwalk a b) st = execQwalk a b st := rfl
@[simp] theorem exec_kick (b c : GReg) (st : State) : exec (.kick b c) st = execKick b c st := rfl
@[simp] theorem exec_fadd (a b c : GReg) (f : FpFmt) (rm : Rm) (st : State) : exec (.fadd a b c f rm) st = execFadd a b c f rm st := rfl
@[simp] theorem exec_fsub (a b c : GReg) (f : FpFmt) (rm : Rm) (st : State) : exec (.fsub a b c f rm) st = execFsub a b c f rm st := rfl
@[simp] theorem exec_fmul (a b c : GReg) (f : FpFmt) (rm : Rm) (st : State) : exec (.fmul a b c f rm) st = execFmul a b c f rm st := rfl
@[simp] theorem exec_fdiv (a b c : GReg) (f : FpFmt) (rm : Rm) (st : State) : exec (.fdiv a b c f rm) st = execFdiv a b c f rm st := rfl
@[simp] theorem exec_fsqrt (a b : GReg) (f : FpFmt) (rm : Rm) (st : State) : exec (.fsqrt a b f rm) st = execFsqrt a b f rm st := rfl
@[simp] theorem exec_fmin (a b c : GReg) (f : FpFmt) (st : State) : exec (.fmin a b c f) st = execFmin a b c f st := rfl
@[simp] theorem exec_fmax (a b c : GReg) (f : FpFmt) (st : State) : exec (.fmax a b c f) st = execFmax a b c f st := rfl
@[simp] theorem exec_fsgn (a b c : GReg) (f : FpFmt) (o : FsgnOp) (st : State) : exec (.fsgn a b c f o) st = execFsgn a b c f o st := rfl
@[simp] theorem exec_fcmp (a b c : GReg) (f : FpFmt) (o : FcmpOp) (st : State) : exec (.fcmp a b c f o) st = execFcmp a b c f o st := rfl
@[simp] theorem exec_fclass (a b : GReg) (f : FpFmt) (st : State) : exec (.fclass a b f) st = execFclass a b f st := rfl
@[simp] theorem exec_frnd (a b : GReg) (f : FpFmt) (rm : Rm) (st : State) : exec (.frnd a b f rm) st = execFrnd a b f rm st := rfl
@[simp] theorem exec_fmvx (a b : GReg) (f : FpFmt) (st : State) : exec (.fmvx a b f) st = execFmvx a b f st := rfl
@[simp] theorem exec_fma (a b c : GReg) (f : FpFmt) (rm : Rm) (st : State) : exec (.fma a b c f rm) st = execFma a b c f rm st := rfl
@[simp] theorem exec_fms (a b c : GReg) (f : FpFmt) (rm : Rm) (st : State) : exec (.fms a b c f rm) st = execFms a b c f rm st := rfl
@[simp] theorem exec_fnma (a b c : GReg) (f : FpFmt) (rm : Rm) (st : State) : exec (.fnma a b c f rm) st = execFnma a b c f rm st := rfl
@[simp] theorem exec_fnms (a b c : GReg) (f : FpFmt) (rm : Rm) (st : State) : exec (.fnms a b c f rm) st = execFnms a b c f rm st := rfl
@[simp] theorem exec_fcvt (a b : GReg) (src dst : CvtFmt) (sat : Bool) (rm : Rm) (st : State) : exec (.fcvt a b src dst sat rm) st = execFcvt a b src dst sat rm st := rfl
@[simp] theorem exec_syscall (code : BitVec 10) (st : State) : exec (.syscall code) st = execSyscall code st := rfl
@[simp] theorem exec_brk (code : BitVec 10) (st : State) : exec (.brk code) st = execBrk code st := rfl
@[simp] theorem exec_srd (a : GReg) (num : BitVec 12) (st : State) : exec (.srd a num) st = execSrd a num st := rfl
@[simp] theorem exec_swr (a : GReg) (num : BitVec 12) (st : State) : exec (.swr a num) st = execSwr a num st := rfl
@[simp] theorem exec_sswap (a : GReg) (num : BitVec 12) (st : State) : exec (.sswap a num) st = execSswap a num st := rfl
@[simp] theorem exec_tlbinv (b c : GReg) (mode : Fin 3) (st : State) : exec (.tlbinv b c mode) st = execTlbinv b c mode st := rfl
@[simp] theorem exec_migrate (b : GReg) (st : State) : exec (.migrate b) st = execMigrate b st := rfl
@[simp] theorem exec_pause (b : GReg) (st : State) : exec (.pause b) st = execPause b st := rfl
@[simp] theorem exec_vadd (o : VBase) (st : State) : exec (.vadd o) st = execVadd o st := rfl
@[simp] theorem exec_vsub (o : VBase) (st : State) : exec (.vsub o) st = execVsub o st := rfl
@[simp] theorem exec_vrsub (o : VBase) (st : State) : exec (.vrsub o) st = execVrsub o st := rfl
@[simp] theorem exec_vmul (o : VBase) (st : State) : exec (.vmul o) st = execVmul o st := rfl
@[simp] theorem exec_vmulh (o : VBase) (st : State) : exec (.vmulh o) st = execVmulh o st := rfl
@[simp] theorem exec_vdiv (o : VBase) (st : State) : exec (.vdiv o) st = execVdiv o st := rfl
@[simp] theorem exec_vrem (o : VBase) (st : State) : exec (.vrem o) st = execVrem o st := rfl
@[simp] theorem exec_vmin (o : VBase) (st : State) : exec (.vmin o) st = execVmin o st := rfl
@[simp] theorem exec_vmax (o : VBase) (st : State) : exec (.vmax o) st = execVmax o st := rfl
@[simp] theorem exec_vand (o : VBase) (st : State) : exec (.vand o) st = execVand o st := rfl
@[simp] theorem exec_vor (o : VBase) (st : State) : exec (.vor o) st = execVor o st := rfl
@[simp] theorem exec_vxor (o : VBase) (st : State) : exec (.vxor o) st = execVxor o st := rfl
@[simp] theorem exec_vshl (o : VBase) (st : State) : exec (.vshl o) st = execVshl o st := rfl
@[simp] theorem exec_vshr (o : VBase) (st : State) : exec (.vshr o) st = execVshr o st := rfl
@[simp] theorem exec_vfma (o : VFmaBase) (st : State) : exec (.vfma o) st = execVfma o st := rfl
@[simp] theorem exec_vfms (o : VFmaBase) (st : State) : exec (.vfms o) st = execVfms o st := rfl
@[simp] theorem exec_vfnma (o : VFmaBase) (st : State) : exec (.vfnma o) st = execVfnma o st := rfl
@[simp] theorem exec_vcmpEq (o : VCmpBase) (st : State) : exec (.vcmpEq o) st = execVcmpEq o st := rfl
@[simp] theorem exec_vcmpNe (o : VCmpBase) (st : State) : exec (.vcmpNe o) st = execVcmpNe o st := rfl
@[simp] theorem exec_vcmpLt (o : VCmpBase) (st : State) : exec (.vcmpLt o) st = execVcmpLt o st := rfl
@[simp] theorem exec_vcmpLe (o : VCmpBase) (st : State) : exec (.vcmpLe o) st = execVcmpLe o st := rfl
@[simp] theorem exec_vaddL (o : VLong) (st : State) : exec (.vaddL o) st = execVaddL o st := rfl
@[simp] theorem exec_vsubL (o : VLong) (st : State) : exec (.vsubL o) st = execVsubL o st := rfl
@[simp] theorem exec_vrsubL (o : VLong) (st : State) : exec (.vrsubL o) st = execVrsubL o st := rfl
@[simp] theorem exec_vmulL (o : VLong) (st : State) : exec (.vmulL o) st = execVmulL o st := rfl
@[simp] theorem exec_vmulhL (o : VLong) (st : State) : exec (.vmulhL o) st = execVmulhL o st := rfl
@[simp] theorem exec_vdivL (o : VLong) (st : State) : exec (.vdivL o) st = execVdivL o st := rfl
@[simp] theorem exec_vremL (o : VLong) (st : State) : exec (.vremL o) st = execVremL o st := rfl
@[simp] theorem exec_vminL (o : VLong) (st : State) : exec (.vminL o) st = execVminL o st := rfl
@[simp] theorem exec_vmaxL (o : VLong) (st : State) : exec (.vmaxL o) st = execVmaxL o st := rfl
@[simp] theorem exec_vandL (o : VLong) (st : State) : exec (.vandL o) st = execVandL o st := rfl
@[simp] theorem exec_vorL (o : VLong) (st : State) : exec (.vorL o) st = execVorL o st := rfl
@[simp] theorem exec_vxorL (o : VLong) (st : State) : exec (.vxorL o) st = execVxorL o st := rfl
@[simp] theorem exec_vshlL (o : VLong) (st : State) : exec (.vshlL o) st = execVshlL o st := rfl
@[simp] theorem exec_vshrL (o : VLong) (st : State) : exec (.vshrL o) st = execVshrL o st := rfl
@[simp] theorem exec_vfmaL (o : VFmaLong) (st : State) : exec (.vfmaL o) st = execVfmaL o st := rfl
@[simp] theorem exec_vfmsL (o : VFmaLong) (st : State) : exec (.vfmsL o) st = execVfmsL o st := rfl
@[simp] theorem exec_vfnmaL (o : VFmaLong) (st : State) : exec (.vfnmaL o) st = execVfnmaL o st := rfl
@[simp] theorem exec_vcmpEqL (o : VCmpLong) (st : State) : exec (.vcmpEqL o) st = execVcmpEqL o st := rfl
@[simp] theorem exec_vcmpNeL (o : VCmpLong) (st : State) : exec (.vcmpNeL o) st = execVcmpNeL o st := rfl
@[simp] theorem exec_vcmpLtL (o : VCmpLong) (st : State) : exec (.vcmpLtL o) st = execVcmpLtL o st := rfl
@[simp] theorem exec_vcmpLeL (o : VCmpLong) (st : State) : exec (.vcmpLeL o) st = execVcmpLeL o st := rfl
@[simp] theorem exec_vmv (o : VUn) (st : State) : exec (.vmv o) st = execVmv o st := rfl
@[simp] theorem exec_vneg (o : VUn) (st : State) : exec (.vneg o) st = execVneg o st := rfl
@[simp] theorem exec_vabs (o : VUn) (st : State) : exec (.vabs o) st = execVabs o st := rfl
@[simp] theorem exec_vnot (o : VUn) (st : State) : exec (.vnot o) st = execVnot o st := rfl
@[simp] theorem exec_vsqrt (o : VUn) (st : State) : exec (.vsqrt o) st = execVsqrt o st := rfl
@[simp] theorem exec_vrcp (o : VUn) (st : State) : exec (.vrcp o) st = execVrcp o st := rfl
@[simp] theorem exec_vrsq (o : VUn) (st : State) : exec (.vrsq o) st = execVrsq o st := rfl
@[simp] theorem exec_vexp2 (o : VUn) (st : State) : exec (.vexp2 o) st = execVexp2 o st := rfl
@[simp] theorem exec_vlog2 (o : VUn) (st : State) : exec (.vlog2 o) st = execVlog2 o st := rfl
@[simp] theorem exec_vtanh (o : VUn) (st : State) : exec (.vtanh o) st = execVtanh o st := rfl
@[simp] theorem exec_vclz (o : VUn) (st : State) : exec (.vclz o) st = execVclz o st := rfl
@[simp] theorem exec_vpopc (o : VUn) (st : State) : exec (.vpopc o) st = execVpopc o st := rfl
@[simp] theorem exec_vsel (o : VSelOps) (st : State) : exec (.vsel o) st = execVsel o st := rfl
@[simp] theorem exec_vred (o : VRedOps) (st : State) : exec (.vred o) st = execVred o st := rfl
@[simp] theorem exec_vredO (o : VRedOps) (st : State) : exec (.vredO o) st = execVredO o st := rfl
@[simp] theorem exec_vscan (o : VRedOps) (st : State) : exec (.vscan o) st = execVscan o st := rfl
@[simp] theorem exec_vcompress (o : VOne) (st : State) : exec (.vcompress o) st = execVcompress o st := rfl
@[simp] theorem exec_vexpand (o : VOne) (st : State) : exec (.vexpand o) st = execVexpand o st := rfl
@[simp] theorem exec_viota (o : VIotaOps) (st : State) : exec (.viota o) st = execViota o st := rfl
@[simp] theorem exec_vreshape (o : VReshapeOps) (st : State) : exec (.vreshape o) st = execVreshape o st := rfl
@[simp] theorem exec_vextract (o : VExtractOps) (st : State) : exec (.vextract o) st = execVextract o st := rfl
@[simp] theorem exec_vinsert (o : VInsertOps) (st : State) : exec (.vinsert o) st = execVinsert o st := rfl
@[simp] theorem exec_vld (o : VLdOps) (st : State) : exec (.vld o) st = execVld o st := rfl
@[simp] theorem exec_vst (o : VStOps) (st : State) : exec (.vst o) st = execVst o st := rfl
@[simp] theorem exec_vldx (o : VLdxOps) (st : State) : exec (.vldx o) st = execVldx o st := rfl
@[simp] theorem exec_vstx (o : VStxOps) (st : State) : exec (.vstx o) st = execVstx o st := rfl
@[simp] theorem exec_vldL (o : VLdOps) (off : BitVec 32) (st : State) : exec (.vldL o off) st = execVldL o off st := rfl
@[simp] theorem exec_vstL (o : VStOps) (off : BitVec 32) (st : State) : exec (.vstL o off) st = execVstL o off st := rfl
@[simp] theorem exec_vldxL (o : VLdxOps) (off : BitVec 32) (st : State) : exec (.vldxL o off) st = execVldxL o off st := rfl
@[simp] theorem exec_vstxL (o : VStxOps) (off : BitVec 32) (st : State) : exec (.vstxL o off) st = execVstxL o off st := rfl
@[simp] theorem exec_vldW (o : VLdwOps) (st : State) : exec (.vldW o) st = execVldW o st := rfl
@[simp] theorem exec_vstW (o : VStwOps) (st : State) : exec (.vstW o) st = execVstW o st := rfl
@[simp] theorem exec_wset (wr : BitVec 3) (b c : GReg) (off : Option (BitVec 32)) (st : State) : exec (.wset wr b c off) st = execWset wr b c off st := rfl
@[simp] theorem exec_wadv (wr : BitVec 3) (b : GReg) (off : Option (BitVec 32)) (st : State) : exec (.wadv wr b off) st = execWadv wr b off st := rfl
@[simp] theorem exec_cnop (st : State) : exec .cnop st = execCnop st := rfl
@[simp] theorem exec_fenceSv (st : State) : exec .fenceSv st = execFenceSv st := rfl
@[simp] theorem exec_fenceVs (st : State) : exec .fenceVs st = execFenceVs st := rfl
@[simp] theorem exec_fenceVv (st : State) : exec .fenceVv st = execFenceVv st := rfl
@[simp] theorem exec_fenceI (st : State) : exec .fenceI st = execFenceI st := rfl
@[simp] theorem exec_join (st : State) : exec .join st = execJoin st := rfl
@[simp] theorem exec_taskend (st : State) : exec .taskend st = execTaskend st := rfl
@[simp] theorem exec_msgdone (st : State) : exec .msgdone st = execMsgdone st := rfl
@[simp] theorem exec_gbar (st : State) : exec .gbar st = execGbar st := rfl
@[simp] theorem exec_eret (st : State) : exec .eret st = execEret st := rfl
@[simp] theorem exec_yield (st : State) : exec .yield st = execYield st := rfl
@[simp] theorem exec_halt (st : State) : exec .halt st = execHalt st := rfl
@[simp] theorem exec_wfm (st : State) : exec .wfm st = execWfm st := rfl
@[simp] theorem exec_vsetn (o : VSetOps) (st : State) : exec (.vsetn o) st = execVsetn o st := rfl
@[simp] theorem exec_vsetnG (o : VSetOps) (st : State) : exec (.vsetnG o) st = execVsetnG o st := rfl
@[simp] theorem exec_vsetd (b c : GReg) (d : Fin 3) (st : State) : exec (.vsetd b c d) st = execVsetd b c d st := rfl
@[simp] theorem exec_vtag (a : VReg) (t : Tag) (st : State) : exec (.vtag a t) st = execVtag a t st := rfl
@[simp] theorem exec_vfsave (b : GReg) (st : State) : exec (.vfsave b) st = execVfsave b st := rfl
@[simp] theorem exec_vfrestore (b : GReg) (st : State) : exec (.vfrestore b) st = execVfrestore b st := rfl
@[simp] theorem exec_mand (o : MaskOps) (st : State) : exec (.mand o) st = execMand o st := rfl
@[simp] theorem exec_mor (o : MaskOps) (st : State) : exec (.mor o) st = execMor o st := rfl
@[simp] theorem exec_mxor (o : MaskOps) (st : State) : exec (.mxor o) st = execMxor o st := rfl
@[simp] theorem exec_mandn (o : MaskOps) (st : State) : exec (.mandn o) st = execMandn o st := rfl
@[simp] theorem exec_mmov (o : MaskMovOps) (st : State) : exec (.mmov o) st = execMmov o st := rfl
@[simp] theorem exec_mpopc (o : MaskCountOps) (st : State) : exec (.mpopc o) st = execMpopc o st := rfl
@[simp] theorem exec_mfirst (o : MaskCountOps) (st : State) : exec (.mfirst o) st = execMfirst o st := rfl
@[simp] theorem exec_vcvt (o : VCvtOps) (st : State) : exec (.vcvt o) st = execVcvt o st := rfl
@[simp] theorem exec_vcvtSat (o : VCvtOps) (st : State) : exec (.vcvtSat o) st = execVcvtSat o st := rfl
@[simp] theorem exec_vcvtI4 (o : VOne) (st : State) : exec (.vcvtI4 o) st = execVcvtI4 o st := rfl
@[simp] theorem exec_vcvtE3m2 (o : VOne) (st : State) : exec (.vcvtE3m2 o) st = execVcvtE3m2 o st := rfl
@[simp] theorem exec_vcvtE2m3 (o : VOne) (st : State) : exec (.vcvtE2m3 o) st = execVcvtE2m3 o st := rfl
@[simp] theorem exec_mattach (a b : GReg) (st : State) : exec (.mattach a b) st = execMattach a b st := rfl
@[simp] theorem exec_mshape (b : GReg) (st : State) : exec (.mshape b) st = execMshape b st := rfl
@[simp] theorem exec_mtld (t : BitVec 2) (b c : GReg) (st : State) : exec (.mtld t b c) st = execMtld t b c st := rfl
@[simp] theorem exec_mtldk (k : BitVec 2) (b c : GReg) (st : State) : exec (.mtldk k b c) st = execMtldk k b c st := rfl
@[simp] theorem exec_mtst (t : BitVec 2) (b c : GReg) (st : State) : exec (.mtst t b c) st = execMtst t b c st := rfl
@[simp] theorem exec_mring (t : BitVec 2) (n : Bool) (st : State) : exec (.mring t n) st = execMring t n st := rfl
@[simp] theorem exec_mma (o : MmaOps) (st : State) : exec (.mma o) st = execMma o st := rfl
@[simp] theorem exec_mmas (o : MmaOps) (wr : BitVec 3) (st : State) : exec (.mmas o wr) st = execMmas o wr st := rfl
@[simp] theorem exec_mext (a : VReg) (c : GReg) (relu : Bool) (f : ExtFmt) (m : MaskSel) (st : State) : exec (.mext a c relu f m) st = execMext a c relu f m st := rfl
@[simp] theorem exec_mextst (v : VReg) (b c : GReg) (relu : Bool) (f : ExtFmt) (m : MaskSel) (st : State) : exec (.mextst v b c relu f m) st = execMextst v b c relu f m st := rfl
@[simp] theorem exec_mdetach (st : State) : exec .mdetach st = execMdetach st := rfl
@[simp] theorem exec_mzero (st : State) : exec .mzero st = execMzero st := rfl
@[simp] theorem exec_mrel (st : State) : exec .mrel st = execMrel st := rfl
@[simp] theorem exec_mwait (st : State) : exec .mwait st = execMwait st := rfl
@[simp] theorem exec_coldReset (st : State) : exec .coldReset st = execColdReset st := rfl
@[simp] theorem exec_asyncTrap (st : State) : exec .asyncTrap st = execAsyncTrap st := rfl
@[simp] theorem exec_migrationTrap (cls : Cls) (enc : Word) (st : State) : exec (.migrationTrap cls enc) st = execMigrationTrap cls enc st := rfl
@[simp] theorem exec_carterQueuePlacement (st : State) : exec .carterQueuePlacement st = execCarterQueuePlacement st := rfl
@[simp] theorem exec_window (st : State) : exec .window st = execWindow st := rfl
@[simp] theorem exec_mixMigration (st : State) : exec .mixMigration st = execMixMigration st := rfl
@[simp] theorem exec_preemption (pp : Nat) (st : State) : exec (.preemption pp) st = execPreemption pp st := rfl
@[simp] theorem exec_placement (pp : Nat) (st : State) : exec (.placement pp) st = execPlacement pp st := rfl
@[simp] theorem exec_lendRequest (pp : Nat) (st : State) : exec (.lendRequest pp) st = execLendRequest pp st := rfl
@[simp] theorem exec_overflowReturn (pp : Nat) (st : State) : exec (.overflowReturn pp) st = execOverflowReturn pp st := rfl
@[simp] theorem exec_levelLift (pp : Nat) (level : Fin 3) (st : State) : exec (.levelLift pp level) st = execLevelLift pp level st := rfl
@[simp] theorem exec_groupStart (g : GroupKey) (st : State) : exec (.groupStart g) st = execGroupStart g st := rfl
@[simp] theorem exec_reservationRelease (pp : Nat) (st : State) : exec (.reservationRelease pp) st = execReservationRelease pp st := rfl
@[simp] theorem exec_tkill (v : Word) (st : State) : exec (.tkill v) st = execTkill v st := rfl
@[simp] theorem exec_hbaseWrite (v : Word) (st : State) : exec (.hbaseWrite v) st = execHbaseWrite v st := rfl
@[simp] theorem exec_hlimitWrite (v : Word) (st : State) : exec (.hlimitWrite v) st = execHlimitWrite v st := rfl
@[simp] theorem exec_hstrayWrite (v : Word) (st : State) : exec (.hstrayWrite v) st = execHstrayWrite v st := rfl
@[simp] theorem exec_reevevecWrite (v : Word) (st : State) : exec (.reevevecWrite v) st = execReevevecWrite v st := rfl
@[simp] theorem exec_registerWrite (num : BitVec 12) (v : Word) (st : State) : exec (.registerWrite num v) st = execRegisterWrite num v st := rfl
@[simp] theorem exec_messageDeparture (c : CoreId) (st : State) : exec (.messageDeparture c) st = execMessageDeparture c st := rfl
@[simp] theorem exec_messageDispatch (c : CoreId) (st : State) : exec (.messageDispatch c) st = execMessageDispatch c st := rfl
@[simp] theorem exec_post (slot : BitVec 4) (v : Word) (st : State) : exec (.post slot v) st = execPost slot v st := rfl
@[simp] theorem exec_hostBar0Write (off : Nat) (data : List Byte) (st : State) : exec (.hostBar0Write off data) st = execHostBar0Write off data st := rfl
@[simp] theorem exec_hostWrite (via : HostVia) (off : Nat) (data : List Byte) (st : State) : exec (.hostWrite via off data) st = execHostWrite via off data st := rfl
@[simp] theorem exec_hostRead (via : HostVia) (off : Nat) (len : Nat) (st : State) : exec (.hostRead via off len) st = execHostRead via off len st := rfl
@[simp] theorem exec_convoyStart (st : State) : exec .convoyStart st = execConvoyStart st := rfl
@[simp] theorem exec_convoyClose (st : State) : exec .convoyClose st = execConvoyClose st := rfl
@[simp] theorem exec_convoyDrain (st : State) : exec .convoyDrain st = execConvoyDrain st := rfl
@[simp] theorem exec_latchForward (c : CroftId) (n : Bool) (st : State) : exec (.latchForward c n) st = execLatchForward c n st := rfl
@[simp] theorem exec_gets (pp line : Nat) (st : State) : exec (.gets pp line) st = execGets pp line st := rfl
@[simp] theorem exec_getx (pp line : Nat) (st : State) : exec (.getx pp line) st = execGetx pp line st := rfl
@[simp] theorem exec_upg (pp line : Nat) (st : State) : exec (.upg pp line) st = execUpg pp line st := rfl
@[simp] theorem exec_puts (pp line : Nat) (st : State) : exec (.puts pp line) st = execPuts pp line st := rfl
@[simp] theorem exec_putx (pp line : Nat) (st : State) : exec (.putx pp line) st = execPutx pp line st := rfl
@[simp] theorem exec_inv (pp line : Nat) (st : State) : exec (.inv pp line) st = execInv pp line st := rfl
@[simp] theorem exec_invAck (pp line : Nat) (st : State) : exec (.invAck pp line) st = execInvAck pp line st := rfl
@[simp] theorem exec_fwd (line : Nat) (st : State) : exec (.fwd line) st = execFwd line st := rfl
@[simp] theorem exec_dataReply (pp line : Nat) (st : State) : exec (.dataReply pp line) st = execDataReply pp line st := rfl
@[simp] theorem exec_complete (pp line : Nat) (st : State) : exec (.complete pp line) st = execComplete pp line st := rfl
@[simp] theorem exec_putAck (pp line : Nat) (st : State) : exec (.putAck pp line) st = execPutAck pp line st := rfl
@[simp] theorem exec_farAtomic (addr : Nat) (op : HomeOp) (st : State) : exec (.farAtomic addr op) st = execFarAtomic addr op st := rfl
@[simp] theorem exec_sectoredStore (pp addr : Nat) (data : List Byte) (st : State) : exec (.sectoredStore pp addr data) st = execSectoredStore pp addr data st := rfl
@[simp] theorem exec_homeRead (addr len : Nat) (st : State) : exec (.homeRead addr len) st = execHomeRead addr len st := rfl
@[simp] theorem exec_homeWrite (addr : Nat) (data : List Byte) (st : State) : exec (.homeWrite addr data) st = execHomeWrite addr data st := rfl
@[simp] theorem exec_wakeNotice (p : Place) (st : State) : exec (.wakeNotice p) st = execWakeNotice p st := rfl
@[simp] theorem exec_watchPoll (p : Place) (st : State) : exec (.watchPoll p) st = execWatchPoll p st := rfl
@[simp] theorem exec_pauseExpiry (p : Place) (st : State) : exec (.pauseExpiry p) st = execPauseExpiry p st := rfl
@[simp] theorem exec_linkActive (l : LinkId) (st : State) : exec (.linkActive l) st = execLinkActive l st := rfl
@[simp] theorem exec_linkDoze (l : LinkId) (st : State) : exec (.linkDoze l) st = execLinkDoze l st := rfl
@[simp] theorem exec_dieLost (d : Nat) (st : State) : exec (.dieLost d) st = execDieLost d st := rfl
@[simp] theorem exec_pendDecrement (t : MootTable) (name : Word) (bytes : Nat) (st : State) : exec (.pendDecrement t name bytes) st = execPendDecrement t name bytes st := rfl
@[simp] theorem exec_copyRecord (e : EngineId) (st : State) : exec (.copyRecord e) st = execCopyRecord e st := rfl
@[simp] theorem exec_migrateRecord (e : EngineId) (st : State) : exec (.migrateRecord e) st = execMigrateRecord e st := rfl
@[simp] theorem exec_lockhouseAdmit (st : State) : exec .lockhouseAdmit st = execLockhouseAdmit st := rfl
@[simp] theorem exec_sealRecord (e : EngineId) (st : State) : exec (.sealRecord e) st = execSealRecord e st := rfl
@[simp] theorem exec_openRecord (e : EngineId) (st : State) : exec (.openRecord e) st = execOpenRecord e st := rfl
@[simp] theorem exec_chase (e : EngineId) (st : State) : exec (.chase e) st = execChase e st := rfl
@[simp] theorem exec_uwalk (e : EngineId) (st : State) : exec (.uwalk e) st = execUwalk e st := rfl
@[simp] theorem exec_allreduce (e : EngineId) (others : List RankSays) (st : State) : exec (.allreduce e others) st = execAllreduce e others st := rfl
@[simp] theorem exec_allgather (e : EngineId) (others : List RankSays) (st : State) : exec (.allgather e others) st = execAllgather e others st := rfl
@[simp] theorem exec_reducescatter (e : EngineId) (others : List RankSays) (st : State) : exec (.reducescatter e others) st = execReducescatter e others st := rfl
@[simp] theorem exec_broadcast (e : EngineId) (others : List RankSays) (st : State) : exec (.broadcast e others) st = execBroadcast e others st := rfl
@[simp] theorem exec_collectiveTimeout (e : EngineId) (st : State) : exec (.collectiveTimeout e) st = execCollectiveTimeout e st := rfl
@[simp] theorem exec_peerTimeout (a : Agent) (st : State) : exec (.peerTimeout a) st = execPeerTimeout a st := rfl
@[simp] theorem exec_keyWrite (slot : BitVec 6) (word : Fin 4) (v : Word) (st : State) : exec (.keyWrite slot word v) st = execKeyWrite slot word v st := rfl
@[simp] theorem exec_extentRemove (ix : BitVec 6) (st : State) : exec (.extentRemove ix) st = execExtentRemove ix st := rfl
@[simp] theorem exec_extentRemoved (ix : BitVec 6) (st : State) : exec (.extentRemoved ix) st = execExtentRemoved ix st := rfl
@[simp] theorem exec_bisnp (req : BackInv) (st : State) : exec (.bisnp req) st = execBisnp req st := rfl
@[simp] theorem exec_tdispMessage (f : BitVec 4) (state : Tdisp) (st : State) : exec (.tdispMessage f state) st = execTdispMessage f state st := rfl
@[simp] theorem exec_spdmMeasurement (st : State) : exec .spdmMeasurement st = execSpdmMeasurement st := rfl
@[simp] theorem exec_spdmDebugRequest (p : Place) (st : State) : exec (.spdmDebugRequest p) st = execSpdmDebugRequest p st := rfl
@[simp] theorem exec_correctedError (u : RasUnit) (unitNo loc : Nat) (st : State) : exec (.correctedError u unitNo loc) st = execCorrectedError u unitNo loc st := rfl
@[simp] theorem exec_rasWindow (u : RasUnit) (unitNo : Nat) (st : State) : exec (.rasWindow u unitNo) st = execRasWindow u unitNo st := rfl
@[simp] theorem exec_parityError (p : ParityAt) (st : State) : exec (.parityError p) st = execParityError p st := rfl
@[simp] theorem exec_raslogRead (st : State) : exec .raslogRead st = execRaslogRead st := rfl
@[simp] theorem exec_rateWrite (reg : BitVec 4) (v : Word) (st : State) : exec (.rateWrite reg v) st = execRateWrite reg v st := rfl
@[simp] theorem exec_channelSwitchEnd (wd ch : Nat) (st : State) : exec (.channelSwitchEnd wd ch) st = execChannelSwitchEnd wd ch st := rfl
@[simp] theorem exec_migctlFree (page : Nat) (st : State) : exec (.migctlFree page) st = execMigctlFree page st := rfl
@[simp] theorem exec_migctlFreeIfComplete (page : Nat) (st : State) : exec (.migctlFreeIfComplete page) st = execMigctlFreeIfComplete page st := rfl
@[simp] theorem exec_quiesceRequest (pp : Nat) (st : State) : exec (.quiesceRequest pp) st = execQuiesceRequest pp st := rfl
@[simp] theorem exec_quiesceCancel (pp : Nat) (st : State) : exec (.quiesceCancel pp) st = execQuiesceCancel pp st := rfl
@[simp] theorem exec_drained (pp : Nat) (st : State) : exec (.drained pp) st = execDrained pp st := rfl
@[simp] theorem exec_save (pp : Nat) (st : State) : exec (.save pp) st = execSave pp st := rfl
@[simp] theorem exec_saveEnd (pp : Nat) (st : State) : exec (.saveEnd pp) st = execSaveEnd pp st := rfl
@[simp] theorem exec_clkenWrite (pp : Nat) (v : Word) (st : State) : exec (.clkenWrite pp v) st = execClkenWrite pp v st := rfl
@[simp] theorem exec_railenWrite (pp : Nat) (v : Word) (st : State) : exec (.railenWrite pp v) st = execRailenWrite pp v st := rfl
@[simp] theorem exec_railSettled (pp : Nat) (st : State) : exec (.railSettled pp) st = execRailSettled pp st := rfl
@[simp] theorem exec_restore (pp : Nat) (st : State) : exec (.restore pp) st = execRestore pp st := rfl
@[simp] theorem exec_restoreEnd (pp : Nat) (st : State) : exec (.restoreEnd pp) st = execRestoreEnd pp st := rfl
@[simp] theorem exec_wakeRequest (pp : Nat) (st : State) : exec (.wakeRequest pp) st = execWakeRequest pp st := rfl
@[simp] theorem exec_illegalInstruction (enc : Word) (st : State) : exec (.illegalInstruction enc) st = execIllegalInstruction enc st := rfl
@[simp] theorem exec_fetchFault (st : State) : exec .fetchFault st = execFetchFault st := rfl
@[simp] theorem exec_scaleUpRequest (addr : Nat) (op : HomeOp) (st : State) : exec (.scaleUpRequest addr op) st = execScaleUpRequest addr op st := rfl
@[simp] theorem exec_fwdData (line : Nat) (st : State) : exec (.fwdData line) st = execFwdData line st := rfl
@[simp] theorem exec_bisnpResponse (addr : Nat) (st : State) : exec (.bisnpResponse addr) st = execBisnpResponse addr st := rfl
@[simp] theorem exec_ideKm (f : BitVec 4) (keyed : Bool) (st : State) : exec (.ideKm f keyed) st = execIdeKm f keyed st := rfl
@[simp] theorem exec_hostConfigWrite (f : BitVec 4) (size : Nat) (st : State) : exec (.hostConfigWrite f size) st = execHostConfigWrite f size st := rfl
@[simp] theorem exec_linkRetrain (l : LinkId) (ok : Bool) (st : State) : exec (.linkRetrain l ok) st = execLinkRetrain l ok st := rfl
@[simp] theorem exec_uncorrectableError (u : RasUnit) (addr : Nat) (st : State) : exec (.uncorrectableError u addr) st = execUncorrectableError u addr st := rfl

end Sys2Proof.Machine
end

