-- ==== Sys2Proof/Laws/Fields.lean ====
section
/-! SUPPORT. The fields of an assembled word read back as they were put in: the lemmas that the
encoding laws of `Laws/PerInstr.lean` cite. -/

namespace Sys2Proof.Laws

/-! ### Splitting an immediate and joining it again (R53) -/

@[simp] theorem join14 (v : BitVec 14) :
    v.extractLsb' 9 5 ++ v.extractLsb' 3 6 ++ v.extractLsb' 0 3 = v := by
  ext i hi; grind

@[simp] theorem join19 (v : BitVec 19) :
    v.extractLsb' 14 5 ++ v.extractLsb' 9 5 ++ v.extractLsb' 3 6 ++ v.extractLsb' 0 3 = v := by
  ext i hi; grind

@[simp] theorem join11 (v : BitVec 11) : v.extractLsb' 6 5 ++ v.extractLsb' 0 6 = v := by
  ext i hi; grind

@[simp] theorem join10 (v : BitVec 10) : v.extractLsb' 5 5 ++ v.extractLsb' 0 5 = v := by
  ext i hi; grind

@[simp] theorem join12 (v : BitVec 12) :
    v.extractLsb' 7 5 ++ v.extractLsb' 2 5 ++ v.extractLsb' 0 2 = v := by
  ext i hi; grind

/-! ### The fields of a word -/

theorem fieldsOf_word32 (c b : BitVec 5) (f : BitVec 6) (ln : BitVec 2) (maj : BitVec 6)
    (a : BitVec 5) (x : BitVec 3) :
    fieldsOf (word32 c b f ln maj a x) = { a := a, x := x, b := b, c := c, f := f, maj := maj } := by
  simp only [fieldsOf, word32, Fields.mk.injEq]
  refine ⟨?_, ?_, ?_, ?_, ?_, ?_⟩ <;> (ext i hi; grind)

/-! ### Slices of an assembled field -/

@[simp] theorem slice_222_0_2 (p : BitVec 2) (q : BitVec 2) (r : BitVec 2) :
    (p ++ q ++ r : BitVec 6).extractLsb' 0 2 = r := by ext i hi; grind

@[simp] theorem slice_222_2_2 (p : BitVec 2) (q : BitVec 2) (r : BitVec 2) :
    (p ++ q ++ r : BitVec 6).extractLsb' 2 2 = q := by ext i hi; grind

@[simp] theorem slice_222_4_2 (p : BitVec 2) (q : BitVec 2) (r : BitVec 2) :
    (p ++ q ++ r : BitVec 6).extractLsb' 4 2 = p := by ext i hi; grind

@[simp] theorem slice_231_0_1 (p : BitVec 2) (q : BitVec 3) (r : BitVec 1) :
    (p ++ q ++ r : BitVec 6).extractLsb' 0 1 = r := by ext i hi; grind

@[simp] theorem slice_231_1_3 (p : BitVec 2) (q : BitVec 3) (r : BitVec 1) :
    (p ++ q ++ r : BitVec 6).extractLsb' 1 3 = q := by ext i hi; grind

@[simp] theorem slice_231_4_2 (p : BitVec 2) (q : BitVec 3) (r : BitVec 1) :
    (p ++ q ++ r : BitVec 6).extractLsb' 4 2 = p := by ext i hi; grind

@[simp] theorem slice_42_0_2 (p : BitVec 4) (q : BitVec 2) :
    (p ++ q : BitVec 6).extractLsb' 0 2 = q := by ext i hi; grind

@[simp] theorem slice_42_2_4 (p : BitVec 4) (q : BitVec 2) :
    (p ++ q : BitVec 6).extractLsb' 2 4 = p := by ext i hi; grind

@[simp] theorem slice_655_14_2 (p : BitVec 6) (q : BitVec 5) (r : BitVec 5) :
    (p ++ q ++ r : BitVec 16).extractLsb' 14 2 = p.extractLsb' 4 2 := by ext i hi; grind

@[simp] theorem slice_655_0_5 (p : BitVec 6) (q : BitVec 5) (r : BitVec 5) :
    (p ++ q ++ r : BitVec 16).extractLsb' 0 5 = r := by ext i hi; grind

@[simp] theorem slice_655_5_5 (p : BitVec 6) (q : BitVec 5) (r : BitVec 5) :
    (p ++ q ++ r : BitVec 16).extractLsb' 5 5 = q := by ext i hi; grind

@[simp] theorem slice_655_0_10 (p : BitVec 6) (q : BitVec 5) (r : BitVec 5) :
    (p ++ q ++ r : BitVec 16).extractLsb' 0 10 = q ++ r := by ext i hi; grind

@[simp] theorem slice_655_10_6 (p : BitVec 6) (q : BitVec 5) (r : BitVec 5) :
    (p ++ q ++ r : BitVec 16).extractLsb' 10 6 = p := by ext i hi; grind

@[simp] theorem slice_114_0_4 (p : BitVec 1) (q : BitVec 1) (r : BitVec 4) :
    (p ++ q ++ r : BitVec 6).extractLsb' 0 4 = r := by ext i hi; grind

@[simp] theorem bit_114_4 (p : BitVec 1) (q : BitVec 1) (r : BitVec 4) :
    (p ++ q ++ r : BitVec 6)[4] = q[0] := by grind

@[simp] theorem bit_114_5 (p : BitVec 1) (q : BitVec 1) (r : BitVec 4) :
    (p ++ q ++ r : BitVec 6)[5] = p[0] := by grind

@[simp] theorem slice_132_0_2 (p : BitVec 1) (q : BitVec 3) (r : BitVec 2) :
    (p ++ q ++ r : BitVec 6).extractLsb' 0 2 = r := by ext i hi; grind

@[simp] theorem slice_132_2_3 (p : BitVec 1) (q : BitVec 3) (r : BitVec 2) :
    (p ++ q ++ r : BitVec 6).extractLsb' 2 3 = q := by ext i hi; grind

@[simp] theorem slice_132_0_5 (p : BitVec 1) (q : BitVec 3) (r : BitVec 2) :
    (p ++ q ++ r : BitVec 6).extractLsb' 0 5 = q ++ r := by ext i hi; grind

@[simp] theorem bit_132_5 (p : BitVec 1) (q : BitVec 3) (r : BitVec 2) :
    (p ++ q ++ r : BitVec 6)[5] = p[0] := by grind

@[simp] theorem slice_411_2_4 (p : BitVec 4) (q : BitVec 1) (r : BitVec 1) :
    (p ++ q ++ r : BitVec 6).extractLsb' 2 4 = p := by ext i hi; grind

@[simp] theorem bit_411_0 (p : BitVec 4) (q : BitVec 1) (r : BitVec 1) :
    (p ++ q ++ r : BitVec 6)[0] = r[0] := by grind

@[simp] theorem bit_411_1 (p : BitVec 4) (q : BitVec 1) (r : BitVec 1) :
    (p ++ q ++ r : BitVec 6)[1] = q[0] := by grind

@[simp] theorem slice_15_0_5 (p : BitVec 1) (q : BitVec 5) :
    (p ++ q : BitVec 6).extractLsb' 0 5 = q := by ext i hi; grind

@[simp] theorem slice_15_0_3 (p : BitVec 1) (q : BitVec 5) :
    (p ++ q : BitVec 6).extractLsb' 0 3 = q.extractLsb' 0 3 := by ext i hi; grind

@[simp] theorem slice_15_3_2 (p : BitVec 1) (q : BitVec 5) :
    (p ++ q : BitVec 6).extractLsb' 3 2 = q.extractLsb' 3 2 := by ext i hi; grind

@[simp] theorem slice_15_2_3 (p : BitVec 1) (q : BitVec 5) :
    (p ++ q : BitVec 6).extractLsb' 2 3 = q.extractLsb' 2 3 := by ext i hi; grind

@[simp] theorem bit_15_5 (p : BitVec 1) (q : BitVec 5) :
    (p ++ q : BitVec 6)[5] = p[0] := by grind

@[simp] theorem slice_123_0_3 (p : BitVec 1) (q : BitVec 2) (r : BitVec 3) :
    (p ++ q ++ r : BitVec 6).extractLsb' 0 3 = r := by ext i hi; grind

@[simp] theorem slice_123_3_2 (p : BitVec 1) (q : BitVec 2) (r : BitVec 3) :
    (p ++ q ++ r : BitVec 6).extractLsb' 3 2 = q := by ext i hi; grind

@[simp] theorem bit_123_5 (p : BitVec 1) (q : BitVec 2) (r : BitVec 3) :
    (p ++ q ++ r : BitVec 6)[5] = p[0] := by grind

@[simp] theorem slice_1113_0_3 (p : BitVec 1) (q : BitVec 1) (r : BitVec 1) (s : BitVec 3) :
    (p ++ q ++ r ++ s : BitVec 6).extractLsb' 0 3 = s := by ext i hi; grind

@[simp] theorem bit_1113_3 (p : BitVec 1) (q : BitVec 1) (r : BitVec 1) (s : BitVec 3) :
    (p ++ q ++ r ++ s : BitVec 6)[3] = r[0] := by grind

@[simp] theorem bit_1113_4 (p : BitVec 1) (q : BitVec 1) (r : BitVec 1) (s : BitVec 3) :
    (p ++ q ++ r ++ s : BitVec 6)[4] = q[0] := by grind

@[simp] theorem bit_1113_5 (p : BitVec 1) (q : BitVec 1) (r : BitVec 1) (s : BitVec 3) :
    (p ++ q ++ r ++ s : BitVec 6)[5] = p[0] := by grind

@[simp] theorem slice_213_0_3 (p : BitVec 2) (q : BitVec 1) (r : BitVec 3) :
    (p ++ q ++ r : BitVec 6).extractLsb' 0 3 = r := by ext i hi; grind

@[simp] theorem slice_213_4_2 (p : BitVec 2) (q : BitVec 1) (r : BitVec 3) :
    (p ++ q ++ r : BitVec 6).extractLsb' 4 2 = p := by ext i hi; grind

@[simp] theorem slice_213_0_4 (p : BitVec 2) (q : BitVec 1) (r : BitVec 3) :
    (p ++ q ++ r : BitVec 6).extractLsb' 0 4 = q ++ r := by ext i hi; grind

@[simp] theorem bit_213_3 (p : BitVec 2) (q : BitVec 1) (r : BitVec 3) :
    (p ++ q ++ r : BitVec 6)[3] = q[0] := by grind

@[simp] theorem slice_23_0_3 (p : BitVec 2) (q : BitVec 3) :
    (p ++ q : BitVec 5).extractLsb' 0 3 = q := by ext i hi; grind

@[simp] theorem slice_23_3_2 (p : BitVec 2) (q : BitVec 3) :
    (p ++ q : BitVec 5).extractLsb' 3 2 = p := by ext i hi; grind

@[simp] theorem slice_32_0_2 (p : BitVec 3) (q : BitVec 2) :
    (p ++ q : BitVec 5).extractLsb' 0 2 = q := by ext i hi; grind

@[simp] theorem slice_32_2_3 (p : BitVec 3) (q : BitVec 2) :
    (p ++ q : BitVec 5).extractLsb' 2 3 = p := by ext i hi; grind

@[simp] theorem slice_14_0_4 (p : BitVec 1) (q : BitVec 4) :
    (p ++ q : BitVec 5).extractLsb' 0 4 = q := by ext i hi; grind

@[simp] theorem bit_14_4 (p : BitVec 1) (q : BitVec 4) :
    (p ++ q : BitVec 5)[4] = p[0] := by grind

@[simp] theorem slice_122_0_2 (p : BitVec 1) (q : BitVec 2) (r : BitVec 2) :
    (p ++ q ++ r : BitVec 5).extractLsb' 0 2 = r := by ext i hi; grind

@[simp] theorem slice_122_2_2 (p : BitVec 1) (q : BitVec 2) (r : BitVec 2) :
    (p ++ q ++ r : BitVec 5).extractLsb' 2 2 = q := by ext i hi; grind

@[simp] theorem bit_122_4 (p : BitVec 1) (q : BitVec 2) (r : BitVec 2) :
    (p ++ q ++ r : BitVec 5)[4] = p[0] := by grind

@[simp] theorem slice_12_0_2 (p : BitVec 1) (q : BitVec 2) :
    (p ++ q : BitVec 3).extractLsb' 0 2 = q := by ext i hi; grind

@[simp] theorem slice_12_2_1 (p : BitVec 1) (q : BitVec 2) :
    (p ++ q : BitVec 3).extractLsb' 2 1 = p := by ext i hi; grind

@[simp] theorem bit_12_2 (p : BitVec 1) (q : BitVec 2) :
    (p ++ q : BitVec 3)[2] = p[0] := by grind

@[simp] theorem slice_21_1_2 (p : BitVec 2) (q : BitVec 1) :
    (p ++ q : BitVec 3).extractLsb' 1 2 = p := by ext i hi; grind

@[simp] theorem bit_21_0 (p : BitVec 2) (q : BitVec 1) :
    (p ++ q : BitVec 3)[0] = q[0] := by grind

@[simp] theorem slice_313_0_13 (p : BitVec 3) (q : BitVec 13) :
    (p ++ q : BitVec 16).extractLsb' 0 13 = q := by ext i hi; grind

@[simp] theorem slice_313_13_3 (p : BitVec 3) (q : BitVec 13) :
    (p ++ q : BitVec 16).extractLsb' 13 3 = p := by ext i hi; grind

@[simp] theorem slice_385_0_5 (p : BitVec 3) (q : BitVec 8) (r : BitVec 5) :
    (p ++ q ++ r : BitVec 16).extractLsb' 0 5 = r := by ext i hi; grind

@[simp] theorem slice_385_5_8 (p : BitVec 3) (q : BitVec 8) (r : BitVec 5) :
    (p ++ q ++ r : BitVec 16).extractLsb' 5 8 = q := by ext i hi; grind

@[simp] theorem slice_385_13_3 (p : BitVec 3) (q : BitVec 8) (r : BitVec 5) :
    (p ++ q ++ r : BitVec 16).extractLsb' 13 3 = p := by ext i hi; grind

@[simp] theorem slice_394_0_4 (p : BitVec 3) (q : BitVec 9) (r : BitVec 4) :
    (p ++ q ++ r : BitVec 16).extractLsb' 0 4 = r := by ext i hi; grind

@[simp] theorem slice_394_4_9 (p : BitVec 3) (q : BitVec 9) (r : BitVec 4) :
    (p ++ q ++ r : BitVec 16).extractLsb' 4 9 = q := by ext i hi; grind

@[simp] theorem slice_394_13_3 (p : BitVec 3) (q : BitVec 9) (r : BitVec 4) :
    (p ++ q ++ r : BitVec 16).extractLsb' 13 3 = p := by ext i hi; grind

@[simp] theorem slice_3715_0_5 (p : BitVec 3) (q : BitVec 7) (r : BitVec 1) (s : BitVec 5) :
    (p ++ q ++ r ++ s : BitVec 16).extractLsb' 0 5 = s := by ext i hi; grind

@[simp] theorem slice_3715_6_7 (p : BitVec 3) (q : BitVec 7) (r : BitVec 1) (s : BitVec 5) :
    (p ++ q ++ r ++ s : BitVec 16).extractLsb' 6 7 = q := by ext i hi; grind

@[simp] theorem slice_3715_13_3 (p : BitVec 3) (q : BitVec 7) (r : BitVec 1) (s : BitVec 5) :
    (p ++ q ++ r ++ s : BitVec 16).extractLsb' 13 3 = p := by ext i hi; grind

@[simp] theorem bit_3715_5 (p : BitVec 3) (q : BitVec 7) (r : BitVec 1) (s : BitVec 5) :
    (p ++ q ++ r ++ s : BitVec 16)[5] = r[0] := by grind

@[simp] theorem slice_1616_0_16 (p : BitVec 16) (q : BitVec 16) :
    (p ++ q : BitVec 32).extractLsb' 0 16 = q := by ext i hi; grind

@[simp] theorem slice_1616_16_16 (p : BitVec 16) (q : BitVec 16) :
    (p ++ q : BitVec 32).extractLsb' 16 16 = p := by ext i hi; grind

@[simp] theorem slice_16142_0_2 (p : BitVec 16) (q : BitVec 14) (r : BitVec 2) :
    (p ++ q ++ r : BitVec 32).extractLsb' 0 2 = r := by ext i hi; grind

@[simp] theorem slice_16142_2_14 (p : BitVec 16) (q : BitVec 14) (r : BitVec 2) :
    (p ++ q ++ r : BitVec 32).extractLsb' 2 14 = q := by ext i hi; grind

@[simp] theorem slice_16142_16_16 (p : BitVec 16) (q : BitVec 14) (r : BitVec 2) :
    (p ++ q ++ r : BitVec 32).extractLsb' 16 16 = p := by ext i hi; grind

/-! ### Codes -/

@[simp] theorem loadSize_code (q : LoadSize) : LoadSize.ofCode q.code = some q := by cases q <;> rfl
@[simp] theorem storeSize_code (q : StoreSize) : StoreSize.ofCode q.code = some q := by cases q <;> rfl
@[simp] theorem scope_code (q : Scope) : Scope.ofCode q.code = some q := by cases q <;> rfl
@[simp] theorem rm_code (q : Rm) : Rm.ofCode q.code = some q := by cases q <;> rfl
@[simp] theorem fpFmt_code (q : FpFmt) : FpFmt.ofCode q.code = q := by cases q <;> rfl
@[simp] theorem cvtFmt_code (q : CvtFmt) : CvtFmt.ofCode q.code = q := by cases q <;> rfl
@[simp] theorem fsgn_code (q : FsgnOp) : FsgnOp.ofCode q.code = some q := by cases q <;> rfl
@[simp] theorem fcmp_code (q : FcmpOp) : FcmpOp.ofCode q.code = some q := by cases q <;> rfl
@[simp] theorem extW_code (q : ExtW) : ExtW.ofCode q.code = some q := by cases q <;> rfl
@[simp] theorem amoOrd_code (q : AmoOrd) : AmoOrd.ofCode q.code = q := by cases q <;> rfl
@[simp] theorem mootType_code (q : MootType) : MootType.ofCode q.code = q := by cases q <;> rfl
@[simp] theorem vform_code (q : VForm) : VForm.ofCode q.code = some q := by cases q <;> rfl
@[simp] theorem tag_code (q : Tag) : Tag.ofCode q.code = q := by cases q <;> rfl
@[simp] theorem sew_code (q : Sew) : Sew.ofCode q.code = q := by cases q <;> rfl
@[simp] theorem grp_code (q : Grp) : Grp.ofCode q.code = q := by cases q <;> rfl
@[simp] theorem redOp_code (q : RedOp) : RedOp.ofCode q.code = some q := by cases q <;> rfl
@[simp] theorem extFmt_code (q : ExtFmt) : ExtFmt.ofCode q.code = some q := by cases q <;> rfl
@[simp] theorem matB_code (s : MatB) : decMatB s.code = some s := by
  cases s with
  | tile t => revert t; decide
  | latch n => cases n <;> rfl

/-- A descriptor word reads back as the descriptor, when it is legal (R57). -/
theorem drove_code {d : Drove} (h : d.wf = true) : Drove.ofCode d.code = some d := by
  cases d with
  | none => rfl
  | ix v m => simp [Drove.ofCode, Drove.code, Drove.wf, -BitVec.reduceAppend]
  | _ => simp_all [Drove.ofCode, Drove.code, Drove.wf, -BitVec.reduceAppend]

end Sys2Proof.Laws
end

