-- ==== Sys2Proof/Laws/Memory.lean ====
section
/-! SUPPORT. The bytes of memory: every write keeps the canonical form, a read after a write to the same
place gives the value written, and a write leaves every other place alone. -/

namespace Sys2Proof.Laws

open Machine

/-- The canonical form, above a lower bound. -/
def Above (lo : Option Nat) (k : Nat) : Prop := ∀ l, lo = some l → l < k

theorem cellsWf_cons {lo : Option Nat} {k : Nat} {x : Byte} {t : List Host.Cell} :
    cellsWf lo ((k, x) :: t) = true ↔ Above lo k ∧ x ≠ unwritten ∧ cellsWf (some k) t = true := by
  cases lo <;> simp [cellsWf, Above, and_assoc]

theorem cellsWf_mono {lo lo' : Option Nat} {m : List Host.Cell} (h : cellsWf lo m = true)
    (hl : ∀ k, Above lo k → Above lo' k) : cellsWf lo' m = true := by
  cases m with
  | nil => rfl
  | cons c t =>
    obtain ⟨k, x⟩ := c
    rw [cellsWf_cons] at h ⊢
    exact ⟨hl k h.1, h.2⟩

theorem cellsWf_none {lo : Option Nat} {m : List Host.Cell} (h : cellsWf lo m = true) :
    cellsWf none m = true := cellsWf_mono h fun _ _ _ e => nomatch e

theorem writeByte_cellsWf {lo : Option Nat} {m : List Host.Cell} {a : Nat} {v : Byte}
    (h : cellsWf lo m = true) (ha : Above lo a) : cellsWf lo (writeByte m a v) = true := by
  induction m generalizing lo with
  | nil =>
    unfold writeByte; split
    · rfl
    · rename_i hv; rw [cellsWf_cons]; exact ⟨ha, hv, rfl⟩
  | cons c t ih =>
    obtain ⟨k, x⟩ := c
    rw [cellsWf_cons] at h
    obtain ⟨hk, hx, ht⟩ := h
    unfold writeByte
    split
    · rename_i hka; subst hka
      split
      · exact cellsWf_mono ht fun j hj l hl => Nat.lt_trans (hk l hl) (hj k rfl)
      · rename_i hv; rw [cellsWf_cons]; exact ⟨ha, hv, ht⟩
    · split
      · rename_i hlt
        split
        · rw [cellsWf_cons]; exact ⟨hk, hx, ht⟩
        · rename_i hv; rw [cellsWf_cons, cellsWf_cons]
          exact ⟨ha, hv, fun l hl => by cases hl; exact hlt, hx, ht⟩
      · rename_i hne hlt
        rw [cellsWf_cons]
        exact ⟨hk, hx, ih ht fun l hl => by cases hl; omega⟩

theorem writeByte_wf {m : List Host.Cell} (a : Nat) (v : Byte) (h : Memory.wf m = true) :
    Memory.wf (writeByte m a v) = true := writeByte_cellsWf h fun _ e => nomatch e

theorem writeBytes_wf {m : List Host.Cell} (a : Nat) (bs : List Byte) (h : Memory.wf m = true) :
    Memory.wf (writeBytes m a bs) = true := by
  induction bs generalizing m a with
  | nil => exact h
  | cons b bs ih => exact ih _ (writeByte_wf a b h)

theorem writeNum_wf {m : List Host.Cell} (a n v : Nat) (h : Memory.wf m = true) :
    Memory.wf (writeNum m a n v) = true := writeBytes_wf _ _ h

theorem readByte_below {k a : Nat} {t : List Host.Cell} (h : cellsWf (some k) t = true) (ha : a ≤ k) :
    readByte t a = unwritten := by
  cases t with
  | nil => rfl
  | cons c u =>
    obtain ⟨j, y⟩ := c
    have := (cellsWf_cons.1 h).1 k rfl
    unfold readByte
    rw [if_neg (by omega), if_pos (by omega)]

theorem readByte_writeByte_cells {lo : Option Nat} {m : List Host.Cell} (h : cellsWf lo m = true) (a b : Nat) (v : Byte) :
    readByte (writeByte m a v) b = if b = a then v else readByte m b := by
  induction m generalizing lo with
  | nil =>
    unfold writeByte; split
    · rename_i hv; subst hv; split <;> rfl
    · unfold readByte; by_cases hb : b = a
      · subst hb; simp
      · rw [if_neg (fun e => hb e.symm), if_neg hb]; split <;> rfl
  | cons c t ih =>
    obtain ⟨k, x⟩ := c
    obtain ⟨hk, hx, ht⟩ := cellsWf_cons.1 h
    unfold writeByte
    by_cases hka : k = a
    · subst hka
      rw [if_pos rfl]
      split
      · rename_i hv; subst hv
        by_cases hb : b = k
        · subst hb; rw [if_pos rfl]; exact readByte_below ht (Nat.le_refl _)
        · rw [if_neg hb]; conv => rhs; unfold readByte
          rw [if_neg (fun e => hb e.symm)]
          split
          · rename_i hlt; exact readByte_below ht (Nat.le_of_lt hlt)
          · rfl
      · by_cases hb : b = k
        · subst hb; simp [readByte]
        · simp only [readByte, if_neg (fun e => hb (Eq.symm e)), if_neg hb]
    · rw [if_neg hka]
      by_cases hlt : a < k
      · rw [if_pos hlt]
        split
        · rename_i hv; subst hv
          by_cases hb : b = a
          · subst hb; simp only [readByte, if_neg hka, if_pos hlt, if_true]
          · rw [if_neg hb]
        · by_cases hb : b = a
          · subst hb; simp [readByte]
          · rw [if_neg hb]; conv => lhs; unfold readByte
            rw [if_neg (fun e => hb e.symm)]
            split
            · rename_i hba; simp only [readByte]; rw [if_neg (by omega), if_pos (by omega)]
            · rfl
      · rw [if_neg hlt]
        unfold readByte
        rw [ih ht]
        by_cases hb : b = a
        · subst hb; rw [if_neg hka, if_neg hlt]; simp
        · simp only [if_neg hb]

/-- A read after a write of one byte. -/
theorem readByte_writeByte {m : List Host.Cell} (h : Memory.wf m = true) (a b : Nat) (v : Byte) :
    readByte (writeByte m a v) b = if b = a then v else readByte m b := readByte_writeByte_cells h a b v

/-- A write of bytes leaves every byte outside them alone. -/
theorem readByte_writeBytes_other {m : List Host.Cell} (h : Memory.wf m = true) (a b : Nat) (bs : List Byte)
    (hb : b < a ∨ a + bs.length ≤ b) : readByte (writeBytes m a bs) b = readByte m b := by
  induction bs generalizing m a with
  | nil => rfl
  | cons x xs ih =>
    simp only [List.length_cons] at hb
    unfold writeBytes
    rw [ih (writeByte_wf a x h) (a + 1) (by omega), readByte_writeByte h, if_neg (by omega)]

/-- A read of the bytes just written gives them back. -/
theorem readBytes_writeBytes {m : List Host.Cell} (h : Memory.wf m = true) (a : Nat) (bs : List Byte) :
    readBytes (writeBytes m a bs) a bs.length = bs := by
  induction bs generalizing m a with
  | nil => rfl
  | cons x xs ih =>
    simp only [List.length_cons, readBytes, writeBytes]
    rw [ih (writeByte_wf a x h), readByte_writeBytes_other (writeByte_wf a x h) _ _ _ (by omega),
      readByte_writeByte h, if_pos rfl]

end Sys2Proof.Laws
end

