-- ==== Sys2Proof/Laws/MemoryRun.lean ====
section
/-! SUPPORT. A long run of bytes written in one pass keeps the canonical form of memory. -/

namespace Sys2Proof.Laws

open Machine

theorem cellsWf_filter {lo : Option Nat} {m : List Host.Cell} (p : Host.Cell → Bool) (h : cellsWf lo m = true) :
    cellsWf lo (m.filter p) = true := by
  induction m generalizing lo with
  | nil => rfl
  | cons c t ih =>
    obtain ⟨k, x⟩ := c
    obtain ⟨hk, hx, ht⟩ := cellsWf_cons.1 h
    rw [List.filter_cons]
    split
    · exact cellsWf_cons.2 ⟨hk, hx, ih ht⟩
    · exact ih (cellsWf_mono ht fun j hj l hl => Nat.lt_trans (hk l hl) (hj k rfl))

/-- Two runs in form, the first below the second, make one in form. -/
theorem cellsWf_append {lo : Option Nat} {m n : List Host.Cell} (hm : cellsWf lo m = true)
    (hn : cellsWf lo n = true) (hlt : ∀ c ∈ m, ∀ d ∈ n, c.1 < d.1) : cellsWf lo (m ++ n) = true := by
  induction m generalizing lo with
  | nil => exact hn
  | cons c t ih =>
    obtain ⟨k, x⟩ := c
    obtain ⟨hk, hx, ht⟩ := cellsWf_cons.1 hm
    refine cellsWf_cons.2 ⟨hk, hx, ih ht ?_ fun c hc d hd => hlt c (List.mem_cons_of_mem _ hc) d hd⟩
    cases n with
    | nil => rfl
    | cons d u =>
      obtain ⟨j, y⟩ := d
      obtain ⟨_, hy, hu⟩ := cellsWf_cons.1 hn
      exact cellsWf_cons.2 ⟨fun l hl => by cases hl; exact hlt _ (List.mem_cons_self ..) _ (List.mem_cons_self ..), hy, hu⟩

theorem mem_runCells {a : Nat} {bs : List Byte} : ∀ c ∈ runCells a bs, a ≤ c.1 ∧ c.1 < a + bs.length := by
  induction bs generalizing a with
  | nil => intro c hc; cases hc
  | cons x xs ih =>
    intro c hc
    unfold runCells at hc
    simp only [List.length_cons]
    split at hc
    · have := ih c hc; omega
    · rcases List.mem_cons.1 hc with rfl | hc
      · simp
      · have := ih c hc; omega

theorem runCells_wf {lo : Option Nat} {a : Nat} {bs : List Byte} (ha : ∀ l, lo = some l → l < a) :
    cellsWf lo (runCells a bs) = true := by
  induction bs generalizing lo a with
  | nil => rfl
  | cons x xs ih =>
    unfold runCells
    split
    · exact ih fun l hl => Nat.lt_succ_of_lt (ha l hl)
    · rename_i hx
      exact cellsWf_cons.2 ⟨ha, hx, ih fun l hl => by cases hl; omega⟩

/-- A long run of bytes keeps the canonical form. -/
theorem writeRun_wf {m : List Host.Cell} (a : Nat) (bs : List Byte) (h : Memory.wf m = true) :
    Memory.wf (writeRun m a bs) = true := by
  refine cellsWf_append (cellsWf_append (cellsWf_filter _ h) (runCells_wf fun _ e => nomatch e) ?_)
    (cellsWf_filter _ h) ?_
  · intro c hc d hd
    have h1 := (List.mem_filter.1 hc).2
    have h2 := mem_runCells d hd
    simp at h1; omega
  · intro c hc d hd
    have h2 := (List.mem_filter.1 hd).2
    simp at h2
    rcases List.mem_append.1 hc with hc | hc
    · have h1 := (List.mem_filter.1 hc).2
      simp at h1; omega
    · have h1 := mem_runCells c hc; omega

end Sys2Proof.Laws
end

