-- ==== Sys2Proof/Laws/PerInstr.lean ====
section
/-! SUPPORT. The encoding law, one lemma per constructor of `Instr`: a well-formed instruction is what
the decoder reads from its own words, and its length bits say its length. -/

set_option linter.unusedSimpArgs false

namespace Sys2Proof.Laws.Encoding

/-- The words of a well-formed instruction, when it has any, decode to it; bits 15:14 of its first
halfword give its length (R47); and no bit lies above that length. -/
def Statement (i : Instr) : Prop :=
  WellFormed i = true → ∀ e, encode i = some e →
    decodeBits e.len e.bits = some i ∧ lengthOf (e.bits.extractLsb' 0 16) = e.len ∧
      e.bits.toNat < 2 ^ (8 * e.len)

/-- The base-form decoder over fields already taken apart. -/
def base (d : Fields) : Option Decoded :=
  match d.maj.toNat with
  | 0x35 => decMask d false
  | 0x36 => decCfg d
  | 0x37 => decVCvt d none
  | 0x3D => decMatA d
  | 0x3E => decMatBMaj d
  | _ => (decode32Plain d).map .plain

/-- The long-form decoder over fields already taken apart. -/
def long (d : Fields) (e : BitVec 32) : Option Decoded :=
  match d.maj.toNat with
  | 0x35 => (drovesOf e).bind fun p => if p.1 == .none && p.2 == .none then decMask d true else none
  | 0x37 => (drovesOf e).bind fun p => decVCvt d (some p)
  | _ => (decode64Plain d e).map .plain

theorem of_event {i : Instr} (h : encode i = none) : Statement i := by
  intro _ e he; rw [h] at he; cases he

theorem of16 {i : Instr} {op : BitVec 6} {r g : BitVec 5} (he : encode i = some (enc16 op r g))
    (hop : lengthOf (op ++ r ++ g) = 2)
    (h : decode16 (op ++ r ++ g) = some i) : Statement i := by
  intro _ e he'
  rw [he] at he'; cases he'
  have hx : (enc16 op r g).bits.extractLsb' 0 16 = (op ++ r ++ g : BitVec 16) := by
    simp only [enc16]; ext i hi; grind
  refine ⟨?_, ?_, ?_⟩
  · show Option.map _ (Option.map Decoded.plain (decode16 _)) = _
    rw [hx, h]; rfl
  · rw [hx]; exact hop
  · simp only [enc16, BitVec.toNat_setWidth]; omega

theorem of32 {i : Instr} {d : Decoded} {maj f : BitVec 6} {a : BitVec 5} {x : BitVec 3}
    {b c : BitVec 5} (he : encode i = some (enc32 maj f a x b c)) (hd : d.instr = i)
    (h : WellFormed i = true → base ⟨a, x, b, c, f, maj⟩ = some d) : Statement i := by
  intro hw e he'
  rw [he] at he'; cases he'
  have hx : (enc32 maj f a x b c).bits.extractLsb' 0 32 = word32 c b f 2 maj a x := by
    simp only [enc32]; ext i hi; grind
  refine ⟨?_, ?_, ?_⟩
  · show Option.map _ (decode32 _) = _
    rw [hx]
    show Option.map _ (base (fieldsOf _)) = _
    rw [fieldsOf_word32, h hw, Option.map, hd]
  · have : ((enc32 maj f a x b c).bits.extractLsb' 0 16).extractLsb' 14 2 = 2 := by
      simp only [enc32, word32]; ext i hi; grind
    simp only [lengthOf, this]; rfl
  · simp only [enc32, BitVec.toNat_setWidth]; omega

theorem of64 {i : Instr} {d : Decoded} {maj f : BitVec 6} {a : BitVec 5} {x : BitVec 3}
    {b c : BitVec 5} {e : BitVec 32} (he : encode i = some (enc64 maj f a x b c e)) (hd : d.instr = i)
    (h : WellFormed i = true → long ⟨a, x, b, c, f, maj⟩ e = some d) : Statement i := by
  intro hw e' he'
  rw [he] at he'; cases he'
  have hx : (e ++ word32 c b f 3 maj a x : BitVec 64).extractLsb' 0 32 = word32 c b f 3 maj a x := by
    ext i hi; grind
  have hy : (e ++ word32 c b f 3 maj a x : BitVec 64).extractLsb' 32 32 = e := by
    ext i hi; grind
  refine ⟨?_, ?_, ?_⟩
  · show Option.map _ (long (fieldsOf ((e ++ word32 c b f 3 maj a x : BitVec 64).extractLsb' 0 32))
      ((e ++ word32 c b f 3 maj a x : BitVec 64).extractLsb' 32 32)) = _
    rw [hx, hy, fieldsOf_word32, h hw, Option.map, hd]
  · have : ((enc64 maj f a x b c e).bits.extractLsb' 0 16).extractLsb' 14 2 = 3 := by
      simp only [enc64, word32]; ext i hi; grind
    simp only [lengthOf, this]; rfl
  · exact (enc64 maj f a x b c e).bits.isLt

theorem VLong.wf_parts {o : VLong} (h : o.wf = true) : o.db.wf = true ∧ o.dc.wf = true := by
  simp [VLong.wf] at h; exact h.1

theorem VCmpLong.wf_parts {o : VCmpLong} (h : o.wf = true) : o.db.wf = true ∧ o.dc.wf = true := by
  simp [VCmpLong.wf] at h; exact h.1

theorem VFmaLong.wf_parts {o : VFmaLong} (h : o.wf = true) : o.db.wf = true ∧ o.dc.wf = true := by
  simp [VFmaLong.wf] at h; exact h.1

theorem VFmaLong.wfVv_parts {o : VFmaLong} (h : o.wfVv = true) :
    o.form = .vv ∧ o.db.wf = true ∧ o.dc.wf = true := by
  simp [VFmaLong.wfVv, VFmaLong.wf] at h; exact ⟨h.1, h.2.1⟩

/-- A halfword of zeros is the descriptor of kind 0 (R57). -/
theorem drove_zero : Drove.ofCode 0#16 = some .none := rfl

theorem drove_none : Drove.ofCode Drove.none.code = some .none := rfl

theorem cmv (x0 : GReg) (x1 : GReg) : Statement (.cmv x0 x1) := of16 rfl (by simp [lengthOf, -BitVec.reduceAppend]) (by simp [decode16, -BitVec.reduceAppend])

theorem caddi (x0 : GReg) (x1 : BitVec 5) : Statement (.caddi x0 x1) := of16 rfl (by simp [lengthOf, -BitVec.reduceAppend]) (by simp [decode16, -BitVec.reduceAppend])

theorem cadd (x0 : GReg) (x1 : GReg) : Statement (.cadd x0 x1) := of16 rfl (by simp [lengthOf, -BitVec.reduceAppend]) (by simp [decode16, -BitVec.reduceAppend])

theorem csub (x0 : GReg) (x1 : GReg) : Statement (.csub x0 x1) := of16 rfl (by simp [lengthOf, -BitVec.reduceAppend]) (by simp [decode16, -BitVec.reduceAppend])

theorem cand (x0 : GReg) (x1 : GReg) : Statement (.cand x0 x1) := of16 rfl (by simp [lengthOf, -BitVec.reduceAppend]) (by simp [decode16, -BitVec.reduceAppend])

theorem cor (x0 : GReg) (x1 : GReg) : Statement (.cor x0 x1) := of16 rfl (by simp [lengthOf, -BitVec.reduceAppend]) (by simp [decode16, -BitVec.reduceAppend])

theorem cxor (x0 : GReg) (x1 : GReg) : Statement (.cxor x0 x1) := of16 rfl (by simp [lengthOf, -BitVec.reduceAppend]) (by simp [decode16, -BitVec.reduceAppend])

theorem cshli (x0 : GReg) (x1 : BitVec 5) : Statement (.cshli x0 x1) := of16 rfl (by simp [lengthOf, -BitVec.reduceAppend]) (by simp [decode16, -BitVec.reduceAppend])

theorem cshri (x0 : GReg) (x1 : BitVec 5) : Statement (.cshri x0 x1) := of16 rfl (by simp [lengthOf, -BitVec.reduceAppend]) (by simp [decode16, -BitVec.reduceAppend])

theorem csrai (x0 : GReg) (x1 : BitVec 5) : Statement (.csrai x0 x1) := of16 rfl (by simp [lengthOf, -BitVec.reduceAppend]) (by simp [decode16, -BitVec.reduceAppend])

theorem cld (x0 : GReg) (x1 : BitVec 5) : Statement (.cld x0 x1) := of16 rfl (by simp [lengthOf, -BitVec.reduceAppend]) (by simp [decode16, -BitVec.reduceAppend])

theorem cst (x0 : GReg) (x1 : BitVec 5) : Statement (.cst x0 x1) := of16 rfl (by simp [lengthOf, -BitVec.reduceAppend]) (by simp [decode16, -BitVec.reduceAppend])

theorem cbnz (x0 : BitVec 10) : Statement (.cbnz x0) := of16 rfl (by simp [lengthOf, -BitVec.reduceAppend]) (by simp [decode16, -BitVec.reduceAppend])

theorem cbez (x0 : BitVec 10) : Statement (.cbez x0) := of16 rfl (by simp [lengthOf, -BitVec.reduceAppend]) (by simp [decode16, -BitVec.reduceAppend])

theorem cvadd (x0 : VReg) (x1 : VReg) : Statement (.cvadd x0 x1) := of16 rfl (by simp [lengthOf, -BitVec.reduceAppend]) (by simp [decode16, -BitVec.reduceAppend])

theorem cvmul (x0 : VReg) (x1 : VReg) : Statement (.cvmul x0 x1) := of16 rfl (by simp [lengthOf, -BitVec.reduceAppend]) (by simp [decode16, -BitVec.reduceAppend])

theorem cvfma (x0 : VReg) (x1 : VReg) : Statement (.cvfma x0 x1) := of16 rfl (by simp [lengthOf, -BitVec.reduceAppend]) (by simp [decode16, -BitVec.reduceAppend])

theorem add (x0 : GReg) (x1 : GReg) (x2 : GReg) : Statement (.add x0 x1 x2) := of32 rfl (d := (.plain (.add x0 x1 x2))) rfl fun _ => rfl

theorem sub (x0 : GReg) (x1 : GReg) (x2 : GReg) : Statement (.sub x0 x1 x2) := of32 rfl (d := (.plain (.sub x0 x1 x2))) rfl fun _ => rfl

theorem and (x0 : GReg) (x1 : GReg) (x2 : GReg) : Statement (.and x0 x1 x2) := of32 rfl (d := (.plain (.and x0 x1 x2))) rfl fun _ => rfl

theorem or (x0 : GReg) (x1 : GReg) (x2 : GReg) : Statement (.or x0 x1 x2) := of32 rfl (d := (.plain (.or x0 x1 x2))) rfl fun _ => rfl

theorem xor (x0 : GReg) (x1 : GReg) (x2 : GReg) : Statement (.xor x0 x1 x2) := of32 rfl (d := (.plain (.xor x0 x1 x2))) rfl fun _ => rfl

theorem andn (x0 : GReg) (x1 : GReg) (x2 : GReg) : Statement (.andn x0 x1 x2) := of32 rfl (d := (.plain (.andn x0 x1 x2))) rfl fun _ => rfl

theorem orn (x0 : GReg) (x1 : GReg) (x2 : GReg) : Statement (.orn x0 x1 x2) := of32 rfl (d := (.plain (.orn x0 x1 x2))) rfl fun _ => rfl

theorem xnor (x0 : GReg) (x1 : GReg) (x2 : GReg) : Statement (.xnor x0 x1 x2) := of32 rfl (d := (.plain (.xnor x0 x1 x2))) rfl fun _ => rfl

theorem shl (x0 : GReg) (x1 : GReg) (x2 : GReg) : Statement (.shl x0 x1 x2) := of32 rfl (d := (.plain (.shl x0 x1 x2))) rfl fun _ => rfl

theorem shr (x0 : GReg) (x1 : GReg) (x2 : GReg) : Statement (.shr x0 x1 x2) := of32 rfl (d := (.plain (.shr x0 x1 x2))) rfl fun _ => rfl

theorem sra (x0 : GReg) (x1 : GReg) (x2 : GReg) : Statement (.sra x0 x1 x2) := of32 rfl (d := (.plain (.sra x0 x1 x2))) rfl fun _ => rfl

theorem rol (x0 : GReg) (x1 : GReg) (x2 : GReg) : Statement (.rol x0 x1 x2) := of32 rfl (d := (.plain (.rol x0 x1 x2))) rfl fun _ => rfl

theorem ror (x0 : GReg) (x1 : GReg) (x2 : GReg) : Statement (.ror x0 x1 x2) := of32 rfl (d := (.plain (.ror x0 x1 x2))) rfl fun _ => rfl

theorem slt (x0 : GReg) (x1 : GReg) (x2 : GReg) : Statement (.slt x0 x1 x2) := of32 rfl (d := (.plain (.slt x0 x1 x2))) rfl fun _ => rfl

theorem sltu (x0 : GReg) (x1 : GReg) (x2 : GReg) : Statement (.sltu x0 x1 x2) := of32 rfl (d := (.plain (.sltu x0 x1 x2))) rfl fun _ => rfl

theorem min (x0 : GReg) (x1 : GReg) (x2 : GReg) : Statement (.min x0 x1 x2) := of32 rfl (d := (.plain (.min x0 x1 x2))) rfl fun _ => rfl

theorem max (x0 : GReg) (x1 : GReg) (x2 : GReg) : Statement (.max x0 x1 x2) := of32 rfl (d := (.plain (.max x0 x1 x2))) rfl fun _ => rfl

theorem minu (x0 : GReg) (x1 : GReg) (x2 : GReg) : Statement (.minu x0 x1 x2) := of32 rfl (d := (.plain (.minu x0 x1 x2))) rfl fun _ => rfl

theorem maxu (x0 : GReg) (x1 : GReg) (x2 : GReg) : Statement (.maxu x0 x1 x2) := of32 rfl (d := (.plain (.maxu x0 x1 x2))) rfl fun _ => rfl

theorem mul (x0 : GReg) (x1 : GReg) (x2 : GReg) : Statement (.mul x0 x1 x2) := of32 rfl (d := (.plain (.mul x0 x1 x2))) rfl fun _ => rfl

theorem mulh (x0 : GReg) (x1 : GReg) (x2 : GReg) : Statement (.mulh x0 x1 x2) := of32 rfl (d := (.plain (.mulh x0 x1 x2))) rfl fun _ => rfl

theorem mulhu (x0 : GReg) (x1 : GReg) (x2 : GReg) : Statement (.mulhu x0 x1 x2) := of32 rfl (d := (.plain (.mulhu x0 x1 x2))) rfl fun _ => rfl

theorem div (x0 : GReg) (x1 : GReg) (x2 : GReg) : Statement (.div x0 x1 x2) := of32 rfl (d := (.plain (.div x0 x1 x2))) rfl fun _ => rfl

theorem divu (x0 : GReg) (x1 : GReg) (x2 : GReg) : Statement (.divu x0 x1 x2) := of32 rfl (d := (.plain (.divu x0 x1 x2))) rfl fun _ => rfl

theorem rem (x0 : GReg) (x1 : GReg) (x2 : GReg) : Statement (.rem x0 x1 x2) := of32 rfl (d := (.plain (.rem x0 x1 x2))) rfl fun _ => rfl

theorem remu (x0 : GReg) (x1 : GReg) (x2 : GReg) : Statement (.remu x0 x1 x2) := of32 rfl (d := (.plain (.remu x0 x1 x2))) rfl fun _ => rfl

theorem clz (x0 : GReg) (x1 : GReg) : Statement (.clz x0 x1) := of32 rfl (d := (.plain (.clz x0 x1))) rfl fun _ => rfl

theorem ctz (x0 : GReg) (x1 : GReg) : Statement (.ctz x0 x1) := of32 rfl (d := (.plain (.ctz x0 x1))) rfl fun _ => rfl

theorem popc (x0 : GReg) (x1 : GReg) : Statement (.popc x0 x1) := of32 rfl (d := (.plain (.popc x0 x1))) rfl fun _ => rfl

theorem bswap (x0 : GReg) (x1 : GReg) : Statement (.bswap x0 x1) := of32 rfl (d := (.plain (.bswap x0 x1))) rfl fun _ => rfl

theorem sext (x0 : GReg) (x1 : GReg) (x2 : ExtW) : Statement (.sext x0 x1 x2) := of32 rfl (d := (.plain (.sext x0 x1 x2))) rfl fun _ => by
  simp [base, whenZero, decode32Plain, decIntR, -BitVec.reduceAppend]

theorem zext (x0 : GReg) (x1 : GReg) (x2 : ExtW) : Statement (.zext x0 x1 x2) := of32 rfl (d := (.plain (.zext x0 x1 x2))) rfl fun _ => by
  simp [base, whenZero, decode32Plain, decIntR, -BitVec.reduceAppend]

theorem bfx (x0 : GReg) (x1 : GReg) (x2 : GReg) : Statement (.bfx x0 x1 x2) := of32 rfl (d := (.plain (.bfx x0 x1 x2))) rfl fun _ => rfl

theorem bfi (x0 : GReg) (x1 : GReg) (x2 : GReg) : Statement (.bfi x0 x1 x2) := of32 rfl (d := (.plain (.bfi x0 x1 x2))) rfl fun _ => rfl

theorem select (x0 : GReg) (x1 : GReg) (x2 : GReg) : Statement (.select x0 x1 x2) := of32 rfl (d := (.plain (.select x0 x1 x2))) rfl fun _ => rfl

theorem addsc1 (x0 : GReg) (x1 : GReg) (x2 : GReg) : Statement (.addsc1 x0 x1 x2) := of32 rfl (d := (.plain (.addsc1 x0 x1 x2))) rfl fun _ => rfl

theorem addsc2 (x0 : GReg) (x1 : GReg) (x2 : GReg) : Statement (.addsc2 x0 x1 x2) := of32 rfl (d := (.plain (.addsc2 x0 x1 x2))) rfl fun _ => rfl

theorem addsc3 (x0 : GReg) (x1 : GReg) (x2 : GReg) : Statement (.addsc3 x0 x1 x2) := of32 rfl (d := (.plain (.addsc3 x0 x1 x2))) rfl fun _ => rfl

theorem addi (x0 : GReg) (x1 : GReg) (x2 : BitVec 14) : Statement (.addi x0 x1 x2) := of32 rfl (d := (.plain (.addi x0 x1 x2))) rfl fun _ => by
  simp [base, whenZero, decode32Plain, Fields.imm14, Fields.imm19, -BitVec.reduceAppend]

theorem andi (x0 : GReg) (x1 : GReg) (x2 : BitVec 14) : Statement (.andi x0 x1 x2) := of32 rfl (d := (.plain (.andi x0 x1 x2))) rfl fun _ => by
  simp [base, whenZero, decode32Plain, Fields.imm14, Fields.imm19, -BitVec.reduceAppend]

theorem ori (x0 : GReg) (x1 : GReg) (x2 : BitVec 14) : Statement (.ori x0 x1 x2) := of32 rfl (d := (.plain (.ori x0 x1 x2))) rfl fun _ => by
  simp [base, whenZero, decode32Plain, Fields.imm14, Fields.imm19, -BitVec.reduceAppend]

theorem xori (x0 : GReg) (x1 : GReg) (x2 : BitVec 14) : Statement (.xori x0 x1 x2) := of32 rfl (d := (.plain (.xori x0 x1 x2))) rfl fun _ => by
  simp [base, whenZero, decode32Plain, Fields.imm14, Fields.imm19, -BitVec.reduceAppend]

theorem slti (x0 : GReg) (x1 : GReg) (x2 : BitVec 14) : Statement (.slti x0 x1 x2) := of32 rfl (d := (.plain (.slti x0 x1 x2))) rfl fun _ => by
  simp [base, whenZero, decode32Plain, Fields.imm14, Fields.imm19, -BitVec.reduceAppend]

theorem sltiu (x0 : GReg) (x1 : GReg) (x2 : BitVec 14) : Statement (.sltiu x0 x1 x2) := of32 rfl (d := (.plain (.sltiu x0 x1 x2))) rfl fun _ => by
  simp [base, whenZero, decode32Plain, Fields.imm14, Fields.imm19, -BitVec.reduceAppend]

theorem addiL (x0 : GReg) (x1 : GReg) (x2 : BitVec 32) : Statement (.addiL x0 x1 x2) := of64 rfl (d := (.plain (.addiL x0 x1 x2))) rfl fun _ => by
  simp [long, whenZero, decode64Plain, Fields.imm14, Fields.imm19, -BitVec.reduceAppend]

theorem andiL (x0 : GReg) (x1 : GReg) (x2 : BitVec 32) : Statement (.andiL x0 x1 x2) := of64 rfl (d := (.plain (.andiL x0 x1 x2))) rfl fun _ => by
  simp [long, whenZero, decode64Plain, Fields.imm14, Fields.imm19, -BitVec.reduceAppend]

theorem oriL (x0 : GReg) (x1 : GReg) (x2 : BitVec 32) : Statement (.oriL x0 x1 x2) := of64 rfl (d := (.plain (.oriL x0 x1 x2))) rfl fun _ => by
  simp [long, whenZero, decode64Plain, Fields.imm14, Fields.imm19, -BitVec.reduceAppend]

theorem xoriL (x0 : GReg) (x1 : GReg) (x2 : BitVec 32) : Statement (.xoriL x0 x1 x2) := of64 rfl (d := (.plain (.xoriL x0 x1 x2))) rfl fun _ => by
  simp [long, whenZero, decode64Plain, Fields.imm14, Fields.imm19, -BitVec.reduceAppend]

theorem sltiL (x0 : GReg) (x1 : GReg) (x2 : BitVec 32) : Statement (.sltiL x0 x1 x2) := of64 rfl (d := (.plain (.sltiL x0 x1 x2))) rfl fun _ => by
  simp [long, whenZero, decode64Plain, Fields.imm14, Fields.imm19, -BitVec.reduceAppend]

theorem sltiuL (x0 : GReg) (x1 : GReg) (x2 : BitVec 32) : Statement (.sltiuL x0 x1 x2) := of64 rfl (d := (.plain (.sltiuL x0 x1 x2))) rfl fun _ => by
  simp [long, whenZero, decode64Plain, Fields.imm14, Fields.imm19, -BitVec.reduceAppend]

theorem shli (x0 : GReg) (x1 : GReg) (x2 : BitVec 6) : Statement (.shli x0 x1 x2) := of32 rfl (d := (.plain (.shli x0 x1 x2))) rfl fun _ => by
  simp [base, whenZero, decode32Plain, decShiftI, -BitVec.reduceAppend]

theorem shri (x0 : GReg) (x1 : GReg) (x2 : BitVec 6) : Statement (.shri x0 x1 x2) := of32 rfl (d := (.plain (.shri x0 x1 x2))) rfl fun _ => by
  simp [base, whenZero, decode32Plain, decShiftI, -BitVec.reduceAppend]

theorem srai (x0 : GReg) (x1 : GReg) (x2 : BitVec 6) : Statement (.srai x0 x1 x2) := of32 rfl (d := (.plain (.srai x0 x1 x2))) rfl fun _ => by
  simp [base, whenZero, decode32Plain, decShiftI, -BitVec.reduceAppend]

theorem rori (x0 : GReg) (x1 : GReg) (x2 : BitVec 6) : Statement (.rori x0 x1 x2) := of32 rfl (d := (.plain (.rori x0 x1 x2))) rfl fun _ => by
  simp [base, whenZero, decode32Plain, decShiftI, -BitVec.reduceAppend]

theorem ldhi (x0 : GReg) (x1 : BitVec 19) : Statement (.ldhi x0 x1) := of32 rfl (d := (.plain (.ldhi x0 x1))) rfl fun _ => by
  simp [base, whenZero, decode32Plain, Fields.imm14, Fields.imm19, -BitVec.reduceAppend]

theorem addpc (x0 : GReg) (x1 : BitVec 19) : Statement (.addpc x0 x1) := of32 rfl (d := (.plain (.addpc x0 x1))) rfl fun _ => by
  simp [base, whenZero, decode32Plain, Fields.imm14, Fields.imm19, -BitVec.reduceAppend]

theorem laddpc (x0 : GReg) (x1 : BitVec 32) : Statement (.laddpc x0 x1) := of64 rfl (d := (.plain (.laddpc x0 x1))) rfl fun _ => by
  simp [long, whenZero, decode64Plain, Fields.imm14, Fields.imm19, -BitVec.reduceAppend]

theorem load (x0 : GReg) (x1 : GReg) (x2 : BitVec 11) (x3 : LoadSize) : Statement (.load x0 x1 x2 x3) := of32 rfl (d := (.plain (.load x0 x1 x2 x3))) rfl fun _ => by
  simp [base, whenZero, decode32Plain, Fields.imm14, Fields.imm19, -BitVec.reduceAppend]

theorem loadL (x0 : GReg) (x1 : GReg) (x2 : BitVec 32) (x3 : LoadSize) : Statement (.loadL x0 x1 x2 x3) := of64 rfl (d := (.plain (.loadL x0 x1 x2 x3))) rfl fun _ => by
  simp [long, whenZero, decode64Plain, Fields.imm14, Fields.imm19, -BitVec.reduceAppend]

theorem store (x0 : GReg) (x1 : GReg) (x2 : BitVec 11) (x3 : StoreSize) : Statement (.store x0 x1 x2 x3) := of32 rfl (d := (.plain (.store x0 x1 x2 x3))) rfl fun _ => by
  simp [base, whenZero, decode32Plain, Fields.imm14, Fields.imm19, -BitVec.reduceAppend]

theorem storeL (x0 : GReg) (x1 : GReg) (x2 : BitVec 32) (x3 : StoreSize) : Statement (.storeL x0 x1 x2 x3) := of64 rfl (d := (.plain (.storeL x0 x1 x2 x3))) rfl fun _ => by
  simp [long, whenZero, decode64Plain, Fields.imm14, Fields.imm19, -BitVec.reduceAppend]

theorem loadx (x0 : GReg) (x1 : GReg) (x2 : GReg) (x3 : BitVec 2) (x4 : LoadSize) : Statement (.loadx x0 x1 x2 x3 x4) := of32 rfl (d := (.plain (.loadx x0 x1 x2 x3 x4))) rfl fun _ => by
  simp [base, whenZero, decode32Plain, decMemX, -BitVec.reduceAppend]

theorem storex (x0 : GReg) (x1 : GReg) (x2 : GReg) (x3 : BitVec 2) (x4 : StoreSize) : Statement (.storex x0 x1 x2 x3 x4) := of32 rfl (d := (.plain (.storex x0 x1 x2 x3 x4))) rfl fun _ => by
  simp [base, whenZero, decode32Plain, decMemX, -BitVec.reduceAppend]

theorem loadAcq (x0 : GReg) (x1 : GReg) (x2 : Scope) (x3 : LoadSize) : Statement (.loadAcq x0 x1 x2 x3) := of32 rfl (d := (.plain (.loadAcq x0 x1 x2 x3))) rfl fun _ => by
  simp [base, whenZero, decode32Plain, decMemX, -BitVec.reduceAppend]

theorem storeRel (x0 : GReg) (x1 : GReg) (x2 : Scope) (x3 : StoreSize) : Statement (.storeRel x0 x1 x2 x3) := of32 rfl (d := (.plain (.storeRel x0 x1 x2 x3))) rfl fun _ => by
  simp [base, whenZero, decode32Plain, decMemX, -BitVec.reduceAppend]

theorem amoadd (x0 : AmoOps) : Statement (.amoadd x0) := of64 rfl (d := (.plain (.amoadd x0))) rfl fun _ => by
  simp [long, whenZero, decode64Plain, decAtomic, -BitVec.reduceAppend]

theorem amoand (x0 : AmoOps) : Statement (.amoand x0) := of64 rfl (d := (.plain (.amoand x0))) rfl fun _ => by
  simp [long, whenZero, decode64Plain, decAtomic, -BitVec.reduceAppend]

theorem amoor (x0 : AmoOps) : Statement (.amoor x0) := of64 rfl (d := (.plain (.amoor x0))) rfl fun _ => by
  simp [long, whenZero, decode64Plain, decAtomic, -BitVec.reduceAppend]

theorem amoxor (x0 : AmoOps) : Statement (.amoxor x0) := of64 rfl (d := (.plain (.amoxor x0))) rfl fun _ => by
  simp [long, whenZero, decode64Plain, decAtomic, -BitVec.reduceAppend]

theorem amomin (x0 : AmoOps) : Statement (.amomin x0) := of64 rfl (d := (.plain (.amomin x0))) rfl fun _ => by
  simp [long, whenZero, decode64Plain, decAtomic, -BitVec.reduceAppend]

theorem amomax (x0 : AmoOps) : Statement (.amomax x0) := of64 rfl (d := (.plain (.amomax x0))) rfl fun _ => by
  simp [long, whenZero, decode64Plain, decAtomic, -BitVec.reduceAppend]

theorem amominu (x0 : AmoOps) : Statement (.amominu x0) := of64 rfl (d := (.plain (.amominu x0))) rfl fun _ => by
  simp [long, whenZero, decode64Plain, decAtomic, -BitVec.reduceAppend]

theorem amomaxu (x0 : AmoOps) : Statement (.amomaxu x0) := of64 rfl (d := (.plain (.amomaxu x0))) rfl fun _ => by
  simp [long, whenZero, decode64Plain, decAtomic, -BitVec.reduceAppend]

theorem amoswap (x0 : AmoOps) : Statement (.amoswap x0) := of64 rfl (d := (.plain (.amoswap x0))) rfl fun _ => by
  simp [long, whenZero, decode64Plain, decAtomic, -BitVec.reduceAppend]

theorem amofadd (x0 : AmoOps) : Statement (.amofadd x0) := of64 rfl (d := (.plain (.amofadd x0))) rfl fun _ => by
  simp [long, whenZero, decode64Plain, decAtomic, -BitVec.reduceAppend]

theorem cas (x0 : AmoOps) : Statement (.cas x0) := of64 rfl (d := (.plain (.cas x0))) rfl fun _ => by
  simp [long, whenZero, decode64Plain, decAtomic, -BitVec.reduceAppend]

theorem fenceAcq (x0 : Scope) : Statement (.fenceAcq x0) := of32 rfl (d := (.plain (.fenceAcq x0))) rfl fun _ => by
  simp [base, whenZero, decode32Plain, decFence, -BitVec.reduceAppend]

theorem fenceRel (x0 : Scope) : Statement (.fenceRel x0) := of32 rfl (d := (.plain (.fenceRel x0))) rfl fun _ => by
  simp [base, whenZero, decode32Plain, decFence, -BitVec.reduceAppend]

theorem fenceFull (x0 : Scope) : Statement (.fenceFull x0) := of32 rfl (d := (.plain (.fenceFull x0))) rfl fun _ => by
  simp [base, whenZero, decode32Plain, decFence, -BitVec.reduceAppend]

theorem waitm (x0 : GReg) (x1 : GReg) (x2 : GReg) (x3 : Bool) (x4 : Scope) : Statement (.waitm x0 x1 x2 x3 x4) := by
  cases x3 <;> exact of32 rfl (d := .plain _) rfl fun _ => by
    simp [base, whenZero, MootType.code, MootType.ofCode, decode32Plain, decFence]

theorem prefetch (x0 : GReg) (x1 : Bool) : Statement (.prefetch x0 x1) := by
  cases x1 <;> exact of32 rfl (d := .plain _) rfl fun _ => by
    simp [base, whenZero, MootType.code, MootType.ofCode, decode32Plain, decFence]

theorem clean (x0 : GReg) (x1 : Scope) : Statement (.clean x0 x1) := of32 rfl (d := (.plain (.clean x0 x1))) rfl fun _ => by
  simp [base, whenZero, decode32Plain, decFence, -BitVec.reduceAppend]

theorem flush (x0 : GReg) (x1 : Scope) : Statement (.flush x0 x1) := of32 rfl (d := (.plain (.flush x0 x1))) rfl fun _ => by
  simp [base, whenZero, decode32Plain, decFence, -BitVec.reduceAppend]

theorem inval (x0 : GReg) (x1 : Scope) : Statement (.inval x0 x1) := of32 rfl (d := (.plain (.inval x0 x1))) rfl fun _ => by
  simp [base, whenZero, decode32Plain, decFence, -BitVec.reduceAppend]

theorem beq (x0 : GReg) (x1 : GReg) (x2 : BitVec 14) : Statement (.beq x0 x1 x2) := of32 rfl (d := (.plain (.beq x0 x1 x2))) rfl fun _ => by
  simp [base, whenZero, decode32Plain, Fields.imm14, Fields.imm19, -BitVec.reduceAppend]

theorem bne (x0 : GReg) (x1 : GReg) (x2 : BitVec 14) : Statement (.bne x0 x1 x2) := of32 rfl (d := (.plain (.bne x0 x1 x2))) rfl fun _ => by
  simp [base, whenZero, decode32Plain, Fields.imm14, Fields.imm19, -BitVec.reduceAppend]

theorem blt (x0 : GReg) (x1 : GReg) (x2 : BitVec 14) : Statement (.blt x0 x1 x2) := of32 rfl (d := (.plain (.blt x0 x1 x2))) rfl fun _ => by
  simp [base, whenZero, decode32Plain, Fields.imm14, Fields.imm19, -BitVec.reduceAppend]

theorem bge (x0 : GReg) (x1 : GReg) (x2 : BitVec 14) : Statement (.bge x0 x1 x2) := of32 rfl (d := (.plain (.bge x0 x1 x2))) rfl fun _ => by
  simp [base, whenZero, decode32Plain, Fields.imm14, Fields.imm19, -BitVec.reduceAppend]

theorem bltu (x0 : GReg) (x1 : GReg) (x2 : BitVec 14) : Statement (.bltu x0 x1 x2) := of32 rfl (d := (.plain (.bltu x0 x1 x2))) rfl fun _ => by
  simp [base, whenZero, decode32Plain, Fields.imm14, Fields.imm19, -BitVec.reduceAppend]

theorem bgeu (x0 : GReg) (x1 : GReg) (x2 : BitVec 14) : Statement (.bgeu x0 x1 x2) := of32 rfl (d := (.plain (.bgeu x0 x1 x2))) rfl fun _ => by
  simp [base, whenZero, decode32Plain, Fields.imm14, Fields.imm19, -BitVec.reduceAppend]

theorem beqL (x0 : GReg) (x1 : GReg) (x2 : BitVec 32) : Statement (.beqL x0 x1 x2) := of64 rfl (d := (.plain (.beqL x0 x1 x2))) rfl fun _ => by
  simp [long, whenZero, decode64Plain, Fields.imm14, Fields.imm19, -BitVec.reduceAppend]

theorem bneL (x0 : GReg) (x1 : GReg) (x2 : BitVec 32) : Statement (.bneL x0 x1 x2) := of64 rfl (d := (.plain (.bneL x0 x1 x2))) rfl fun _ => by
  simp [long, whenZero, decode64Plain, Fields.imm14, Fields.imm19, -BitVec.reduceAppend]

theorem bltL (x0 : GReg) (x1 : GReg) (x2 : BitVec 32) : Statement (.bltL x0 x1 x2) := of64 rfl (d := (.plain (.bltL x0 x1 x2))) rfl fun _ => by
  simp [long, whenZero, decode64Plain, Fields.imm14, Fields.imm19, -BitVec.reduceAppend]

theorem bgeL (x0 : GReg) (x1 : GReg) (x2 : BitVec 32) : Statement (.bgeL x0 x1 x2) := of64 rfl (d := (.plain (.bgeL x0 x1 x2))) rfl fun _ => by
  simp [long, whenZero, decode64Plain, Fields.imm14, Fields.imm19, -BitVec.reduceAppend]

theorem bltuL (x0 : GReg) (x1 : GReg) (x2 : BitVec 32) : Statement (.bltuL x0 x1 x2) := of64 rfl (d := (.plain (.bltuL x0 x1 x2))) rfl fun _ => by
  simp [long, whenZero, decode64Plain, Fields.imm14, Fields.imm19, -BitVec.reduceAppend]

theorem bgeuL (x0 : GReg) (x1 : GReg) (x2 : BitVec 32) : Statement (.bgeuL x0 x1 x2) := of64 rfl (d := (.plain (.bgeuL x0 x1 x2))) rfl fun _ => by
  simp [long, whenZero, decode64Plain, Fields.imm14, Fields.imm19, -BitVec.reduceAppend]

theorem call (x0 : GReg) (x1 : BitVec 19) : Statement (.call x0 x1) := of32 rfl (d := (.plain (.call x0 x1))) rfl fun _ => by
  simp [base, whenZero, decode32Plain, Fields.imm14, Fields.imm19, -BitVec.reduceAppend]

theorem lcall (x0 : GReg) (x1 : BitVec 32) : Statement (.lcall x0 x1) := of64 rfl (d := (.plain (.lcall x0 x1))) rfl fun _ => by
  simp [long, whenZero, decode64Plain, Fields.imm14, Fields.imm19, -BitVec.reduceAppend]

theorem jumpr (x0 : GReg) (x1 : GReg) (x2 : BitVec 14) : Statement (.jumpr x0 x1 x2) := of32 rfl (d := (.plain (.jumpr x0 x1 x2))) rfl fun _ => by
  simp [base, whenZero, decode32Plain, Fields.imm14, Fields.imm19, -BitVec.reduceAppend]

theorem spawn (x0 : GReg) (x1 : GReg) (x2 : GReg) (x3 : BitVec 2) : Statement (.spawn x0 x1 x2 x3) := of32 rfl (d := (.plain (.spawn x0 x1 x2 x3))) rfl fun _ => by
  simp [base, whenZero, decode32Plain, decTask, -BitVec.reduceAppend]

theorem msgopen (x0 : GReg) (x1 : GReg) (x2 : Bool) : Statement (.msgopen x0 x1 x2) := of32 rfl (d := (.plain (.msgopen x0 x1 x2))) rfl fun _ => by
  simp [base, whenZero, decode32Plain, decTask, -BitVec.reduceAppend]

theorem msgpoll (x0 : GReg) : Statement (.msgpoll x0) := of32 rfl (d := (.plain (.msgpoll x0))) rfl fun _ => by
  simp [base, whenZero, decode32Plain, decTask, -BitVec.reduceAppend]

theorem mootnew (x0 : GReg) (x1 : GReg) (x2 : GReg) (x3 : BitVec 3) : Statement (.mootnew x0 x1 x2 x3) := of32 rfl (d := (.plain (.mootnew x0 x1 x2 x3))) rfl fun _ => by
  simp [base, whenZero, decode32Plain, decMoot, -BitVec.reduceAppend]

theorem mootjoin (x0 : GReg) (x1 : GReg) (x2 : BitVec 3) : Statement (.mootjoin x0 x1 x2) := of32 rfl (d := (.plain (.mootjoin x0 x1 x2))) rfl fun _ => by
  simp [base, whenZero, decode32Plain, decMoot, -BitVec.reduceAppend]

theorem mootleave (x0 : BitVec 3) : Statement (.mootleave x0) := of32 rfl (d := (.plain (.mootleave x0))) rfl fun _ => by
  simp [base, whenZero, decode32Plain, decMoot, -BitVec.reduceAppend]

theorem mootfree (x0 : GReg) (x1 : BitVec 3) : Statement (.mootfree x0 x1) := of32 rfl (d := (.plain (.mootfree x0 x1))) rfl fun _ => by
  simp [base, whenZero, decode32Plain, decMoot, -BitVec.reduceAppend]

theorem mootarrive (x0 : GReg) (x1 : BitVec 3) : Statement (.mootarrive x0 x1) := of32 rfl (d := (.plain (.mootarrive x0 x1))) rfl fun _ => by
  simp [base, whenZero, decode32Plain, decMoot, -BitVec.reduceAppend]

theorem mootwait (x0 : GReg) (x1 : GReg) (x2 : BitVec 3) : Statement (.mootwait x0 x1 x2) := of32 rfl (d := (.plain (.mootwait x0 x1 x2))) rfl fun _ => by
  simp [base, whenZero, decode32Plain, decMoot, -BitVec.reduceAppend]

theorem mootsync (x0 : GReg) (x1 : BitVec 3) : Statement (.mootsync x0 x1) := of32 rfl (d := (.plain (.mootsync x0 x1))) rfl fun _ => by
  simp [base, whenZero, decode32Plain, decMoot, -BitVec.reduceAppend]

theorem mootvoteAll (x0 : GReg) (x1 : GReg) (x2 : BitVec 3) : Statement (.mootvoteAll x0 x1 x2) := of32 rfl (d := (.plain (.mootvoteAll x0 x1 x2))) rfl fun _ => by
  simp [base, whenZero, decode32Plain, decMoot, -BitVec.reduceAppend]

theorem mootvoteAny (x0 : GReg) (x1 : GReg) (x2 : BitVec 3) : Statement (.mootvoteAny x0 x1 x2) := of32 rfl (d := (.plain (.mootvoteAny x0 x1 x2))) rfl fun _ => by
  simp [base, whenZero, decode32Plain, decMoot, -BitVec.reduceAppend]

theorem mootvoteCount (x0 : GReg) (x1 : GReg) (x2 : BitVec 3) : Statement (.mootvoteCount x0 x1 x2) := of32 rfl (d := (.plain (.mootvoteCount x0 x1 x2))) rfl fun _ => by
  simp [base, whenZero, decode32Plain, decMoot, -BitVec.reduceAppend]

theorem mootbytes (x0 : GReg) (x1 : BitVec 3) : Statement (.mootbytes x0 x1) := of32 rfl (d := (.plain (.mootbytes x0 x1))) rfl fun _ => by
  simp [base, whenZero, decode32Plain, decMoot, -BitVec.reduceAppend]

theorem mootquery (x0 : GReg) (x1 : GReg) (x2 : BitVec 3) : Statement (.mootquery x0 x1 x2) := of32 rfl (d := (.plain (.mootquery x0 x1 x2))) rfl fun _ => by
  simp [base, whenZero, decode32Plain, decMoot, -BitVec.reduceAppend]

theorem mootredAdd (x0 : GReg) (x1 : GReg) (x2 : MootType) (x3 : BitVec 3) : Statement (.mootredAdd x0 x1 x2 x3) := by
  cases x2 <;> exact of32 rfl (d := .plain _) rfl fun _ => by
    simp [base, whenZero, MootType.code, MootType.ofCode, decode32Plain, decMoot]

theorem mootredMin (x0 : GReg) (x1 : GReg) (x2 : MootType) (x3 : BitVec 3) : Statement (.mootredMin x0 x1 x2 x3) := by
  cases x2 <;> exact of32 rfl (d := .plain _) rfl fun _ => by
    simp [base, whenZero, MootType.code, MootType.ofCode, decode32Plain, decMoot]

theorem mootredMax (x0 : GReg) (x1 : GReg) (x2 : MootType) (x3 : BitVec 3) : Statement (.mootredMax x0 x1 x2 x3) := by
  cases x2 <;> exact of32 rfl (d := .plain _) rfl fun _ => by
    simp [base, whenZero, MootType.code, MootType.ofCode, decode32Plain, decMoot]

theorem mootredAnd (x0 : GReg) (x1 : GReg) (x2 : BitVec 3) : Statement (.mootredAnd x0 x1 x2) := of32 rfl (d := (.plain (.mootredAnd x0 x1 x2))) rfl fun _ => by
  simp [base, whenZero, decode32Plain, decMoot, -BitVec.reduceAppend]

theorem mootredOr (x0 : GReg) (x1 : GReg) (x2 : BitVec 3) : Statement (.mootredOr x0 x1 x2) := of32 rfl (d := (.plain (.mootredOr x0 x1 x2))) rfl fun _ => by
  simp [base, whenZero, decode32Plain, decMoot, -BitVec.reduceAppend]

theorem mootredXor (x0 : GReg) (x1 : GReg) (x2 : BitVec 3) : Statement (.mootredXor x0 x1 x2) := of32 rfl (d := (.plain (.mootredXor x0 x1 x2))) rfl fun _ => by
  simp [base, whenZero, decode32Plain, decMoot, -BitVec.reduceAppend]

theorem xcopy (x0 : GReg) (x1 : GReg) : Statement (.xcopy x0 x1) := of32 rfl (d := (.plain (.xcopy x0 x1))) rfl fun _ => by
  simp [base, whenZero, decode32Plain, decEngine, -BitVec.reduceAppend]

theorem qgather (x0 : VReg) (x1 : VReg) (x2 : GReg) (x3 : MaskSel) : Statement (.qgather x0 x1 x2 x3) := of32 rfl (d := (.plain (.qgather x0 x1 x2 x3))) rfl fun _ => by
  simp [base, whenZero, decode32Plain, decEngine, -BitVec.reduceAppend]

theorem qwalk (x0 : GReg) (x1 : GReg) : Statement (.qwalk x0 x1) := of32 rfl (d := (.plain (.qwalk x0 x1))) rfl fun _ => by
  simp [base, whenZero, decode32Plain, decEngine, -BitVec.reduceAppend]

theorem kick (x0 : GReg) (x1 : GReg) : Statement (.kick x0 x1) := of32 rfl (d := (.plain (.kick x0 x1))) rfl fun _ => by
  simp [base, whenZero, decode32Plain, decEngine, -BitVec.reduceAppend]

theorem fadd (x0 : GReg) (x1 : GReg) (x2 : GReg) (x3 : FpFmt) (x4 : Rm) : Statement (.fadd x0 x1 x2 x3 x4) := of32 rfl (d := (.plain (.fadd x0 x1 x2 x3 x4))) rfl fun _ => by
  simp [base, whenZero, decode32Plain, decFpR, -BitVec.reduceAppend]

theorem fsub (x0 : GReg) (x1 : GReg) (x2 : GReg) (x3 : FpFmt) (x4 : Rm) : Statement (.fsub x0 x1 x2 x3 x4) := of32 rfl (d := (.plain (.fsub x0 x1 x2 x3 x4))) rfl fun _ => by
  simp [base, whenZero, decode32Plain, decFpR, -BitVec.reduceAppend]

theorem fmul (x0 : GReg) (x1 : GReg) (x2 : GReg) (x3 : FpFmt) (x4 : Rm) : Statement (.fmul x0 x1 x2 x3 x4) := of32 rfl (d := (.plain (.fmul x0 x1 x2 x3 x4))) rfl fun _ => by
  simp [base, whenZero, decode32Plain, decFpR, -BitVec.reduceAppend]

theorem fdiv (x0 : GReg) (x1 : GReg) (x2 : GReg) (x3 : FpFmt) (x4 : Rm) : Statement (.fdiv x0 x1 x2 x3 x4) := of32 rfl (d := (.plain (.fdiv x0 x1 x2 x3 x4))) rfl fun _ => by
  simp [base, whenZero, decode32Plain, decFpR, -BitVec.reduceAppend]

theorem fsqrt (x0 : GReg) (x1 : GReg) (x2 : FpFmt) (x3 : Rm) : Statement (.fsqrt x0 x1 x2 x3) := of32 rfl (d := (.plain (.fsqrt x0 x1 x2 x3))) rfl fun _ => by
  simp [base, whenZero, decode32Plain, decFpR, -BitVec.reduceAppend]

theorem fmin (x0 : GReg) (x1 : GReg) (x2 : GReg) (x3 : FpFmt) : Statement (.fmin x0 x1 x2 x3) := of32 rfl (d := (.plain (.fmin x0 x1 x2 x3))) rfl fun _ => by
  simp [base, whenZero, decode32Plain, decFpR, -BitVec.reduceAppend]

theorem fmax (x0 : GReg) (x1 : GReg) (x2 : GReg) (x3 : FpFmt) : Statement (.fmax x0 x1 x2 x3) := of32 rfl (d := (.plain (.fmax x0 x1 x2 x3))) rfl fun _ => by
  simp [base, whenZero, decode32Plain, decFpR, -BitVec.reduceAppend]

theorem fsgn (x0 : GReg) (x1 : GReg) (x2 : GReg) (x3 : FpFmt) (x4 : FsgnOp) : Statement (.fsgn x0 x1 x2 x3 x4) := of32 rfl (d := (.plain (.fsgn x0 x1 x2 x3 x4))) rfl fun _ => by
  simp [base, whenZero, decode32Plain, decFpR, -BitVec.reduceAppend]

theorem fcmp (x0 : GReg) (x1 : GReg) (x2 : GReg) (x3 : FpFmt) (x4 : FcmpOp) : Statement (.fcmp x0 x1 x2 x3 x4) := of32 rfl (d := (.plain (.fcmp x0 x1 x2 x3 x4))) rfl fun _ => by
  simp [base, whenZero, decode32Plain, decFpR, -BitVec.reduceAppend]

theorem fclass (x0 : GReg) (x1 : GReg) (x2 : FpFmt) : Statement (.fclass x0 x1 x2) := of32 rfl (d := (.plain (.fclass x0 x1 x2))) rfl fun _ => by
  simp [base, whenZero, decode32Plain, decFpR, -BitVec.reduceAppend]

theorem frnd (x0 : GReg) (x1 : GReg) (x2 : FpFmt) (x3 : Rm) : Statement (.frnd x0 x1 x2 x3) := of32 rfl (d := (.plain (.frnd x0 x1 x2 x3))) rfl fun _ => by
  simp [base, whenZero, decode32Plain, decFpR, -BitVec.reduceAppend]

theorem fmvx (x0 : GReg) (x1 : GReg) (x2 : FpFmt) : Statement (.fmvx x0 x1 x2) := of32 rfl (d := (.plain (.fmvx x0 x1 x2))) rfl fun _ => by
  simp [base, whenZero, decode32Plain, decFpR, -BitVec.reduceAppend]

theorem fma (x0 : GReg) (x1 : GReg) (x2 : GReg) (x3 : FpFmt) (x4 : Rm) : Statement (.fma x0 x1 x2 x3 x4) := of32 rfl (d := (.plain (.fma x0 x1 x2 x3 x4))) rfl fun _ => by
  simp [base, whenZero, decode32Plain, decFma, -BitVec.reduceAppend]

theorem fms (x0 : GReg) (x1 : GReg) (x2 : GReg) (x3 : FpFmt) (x4 : Rm) : Statement (.fms x0 x1 x2 x3 x4) := of32 rfl (d := (.plain (.fms x0 x1 x2 x3 x4))) rfl fun _ => by
  simp [base, whenZero, decode32Plain, decFma, -BitVec.reduceAppend]

theorem fnma (x0 : GReg) (x1 : GReg) (x2 : GReg) (x3 : FpFmt) (x4 : Rm) : Statement (.fnma x0 x1 x2 x3 x4) := of32 rfl (d := (.plain (.fnma x0 x1 x2 x3 x4))) rfl fun _ => by
  simp [base, whenZero, decode32Plain, decFma, -BitVec.reduceAppend]

theorem fnms (x0 : GReg) (x1 : GReg) (x2 : GReg) (x3 : FpFmt) (x4 : Rm) : Statement (.fnms x0 x1 x2 x3 x4) := of32 rfl (d := (.plain (.fnms x0 x1 x2 x3 x4))) rfl fun _ => by
  simp [base, whenZero, decode32Plain, decFma, -BitVec.reduceAppend]

theorem fcvt (x0 : GReg) (x1 : GReg) (x2 : CvtFmt) (x3 : CvtFmt) (x4 : Bool) (x5 : Rm) : Statement (.fcvt x0 x1 x2 x3 x4 x5) := of32 rfl (d := (.plain (.fcvt x0 x1 x2 x3 x4 x5))) rfl fun _ => by
  simp [base, whenZero, decode32Plain, decCvt, -BitVec.reduceAppend]

theorem syscall (x0 : BitVec 10) : Statement (.syscall x0) := of32 rfl (d := (.plain (.syscall x0))) rfl fun _ => by
  simp [base, whenZero, decode32Plain, decSystem, -BitVec.reduceAppend]

theorem brk (x0 : BitVec 10) : Statement (.brk x0) := of32 rfl (d := (.plain (.brk x0))) rfl fun _ => by
  simp [base, whenZero, decode32Plain, decSystem, -BitVec.reduceAppend]

theorem srd (x0 : GReg) (x1 : BitVec 12) : Statement (.srd x0 x1) := of32 rfl (d := (.plain (.srd x0 x1))) rfl fun _ => by
  simp [base, whenZero, decode32Plain, decSystem, -BitVec.reduceAppend]

theorem swr (x0 : GReg) (x1 : BitVec 12) : Statement (.swr x0 x1) := of32 rfl (d := (.plain (.swr x0 x1))) rfl fun _ => by
  simp [base, whenZero, decode32Plain, decSystem, -BitVec.reduceAppend]

theorem sswap (x0 : GReg) (x1 : BitVec 12) : Statement (.sswap x0 x1) := of32 rfl (d := (.plain (.sswap x0 x1))) rfl fun _ => by
  simp [base, whenZero, decode32Plain, decSystem, -BitVec.reduceAppend]

theorem tlbinv (x0 : GReg) (x1 : GReg) (x2 : Fin 3) : Statement (.tlbinv x0 x1 x2) := by
  match x2 with
  | 0 => exact of32 rfl (d := .plain _) rfl fun _ => by simp [base, whenZero, decode32Plain, decSystem]
  | 1 => exact of32 rfl (d := .plain _) rfl fun _ => by simp [base, whenZero, decode32Plain, decSystem]
  | 2 => exact of32 rfl (d := .plain _) rfl fun _ => by simp [base, whenZero, decode32Plain, decSystem]

theorem migrate (x0 : GReg) : Statement (.migrate x0) := of32 rfl (d := (.plain (.migrate x0))) rfl fun _ => by
  simp [base, whenZero, decode32Plain, decSystem, -BitVec.reduceAppend]

theorem pause (x0 : GReg) : Statement (.pause x0) := of32 rfl (d := (.plain (.pause x0))) rfl fun _ => by
  simp [base, whenZero, decode32Plain, decSystem, -BitVec.reduceAppend]

theorem vadd (x0 : VBase) : Statement (.vadd x0) := of32 rfl (d := (.plain (.vadd x0))) rfl fun _ => by
  simp [base, whenZero, decode32Plain, decVArith, decVBase, -BitVec.reduceAppend]

theorem vsub (x0 : VBase) : Statement (.vsub x0) := of32 rfl (d := (.plain (.vsub x0))) rfl fun _ => by
  simp [base, whenZero, decode32Plain, decVArith, decVBase, -BitVec.reduceAppend]

theorem vrsub (x0 : VBase) : Statement (.vrsub x0) := of32 rfl (d := (.plain (.vrsub x0))) rfl fun _ => by
  simp [base, whenZero, decode32Plain, decVArith, decVBase, -BitVec.reduceAppend]

theorem vmul (x0 : VBase) : Statement (.vmul x0) := of32 rfl (d := (.plain (.vmul x0))) rfl fun _ => by
  simp [base, whenZero, decode32Plain, decVArith, decVBase, -BitVec.reduceAppend]

theorem vmulh (x0 : VBase) : Statement (.vmulh x0) := of32 rfl (d := (.plain (.vmulh x0))) rfl fun _ => by
  simp [base, whenZero, decode32Plain, decVArith, decVBase, -BitVec.reduceAppend]

theorem vdiv (x0 : VBase) : Statement (.vdiv x0) := of32 rfl (d := (.plain (.vdiv x0))) rfl fun _ => by
  simp [base, whenZero, decode32Plain, decVArith, decVBase, -BitVec.reduceAppend]

theorem vrem (x0 : VBase) : Statement (.vrem x0) := of32 rfl (d := (.plain (.vrem x0))) rfl fun _ => by
  simp [base, whenZero, decode32Plain, decVArith, decVBase, -BitVec.reduceAppend]

theorem vmin (x0 : VBase) : Statement (.vmin x0) := of32 rfl (d := (.plain (.vmin x0))) rfl fun _ => by
  simp [base, whenZero, decode32Plain, decVArith, decVBase, -BitVec.reduceAppend]

theorem vmax (x0 : VBase) : Statement (.vmax x0) := of32 rfl (d := (.plain (.vmax x0))) rfl fun _ => by
  simp [base, whenZero, decode32Plain, decVArith, decVBase, -BitVec.reduceAppend]

theorem vand (x0 : VBase) : Statement (.vand x0) := of32 rfl (d := (.plain (.vand x0))) rfl fun _ => by
  simp [base, whenZero, decode32Plain, decVArith, decVBase, -BitVec.reduceAppend]

theorem vor (x0 : VBase) : Statement (.vor x0) := of32 rfl (d := (.plain (.vor x0))) rfl fun _ => by
  simp [base, whenZero, decode32Plain, decVArith, decVBase, -BitVec.reduceAppend]

theorem vxor (x0 : VBase) : Statement (.vxor x0) := of32 rfl (d := (.plain (.vxor x0))) rfl fun _ => by
  simp [base, whenZero, decode32Plain, decVArith, decVBase, -BitVec.reduceAppend]

theorem vshl (x0 : VBase) : Statement (.vshl x0) := of32 rfl (d := (.plain (.vshl x0))) rfl fun _ => by
  simp [base, whenZero, decode32Plain, decVArith, decVBase, -BitVec.reduceAppend]

theorem vshr (x0 : VBase) : Statement (.vshr x0) := of32 rfl (d := (.plain (.vshr x0))) rfl fun _ => by
  simp [base, whenZero, decode32Plain, decVArith, decVBase, -BitVec.reduceAppend]

theorem vfma (x0 : VFmaBase) : Statement (.vfma x0) := by
  obtain ⟨a, c, b, j, drv, form, m⟩ := x0
  cases form <;> exact of32 rfl (d := .plain _) rfl fun _ => by
    simp [base, FmaForm.code, decode32Plain, decVArith, decVFmaBase, -BitVec.reduceAppend]

theorem vfms (x0 : VFmaBase) : Statement (.vfms x0) := by
  obtain ⟨a, c, b, j, drv, form, m⟩ := x0
  refine of32 rfl (d := .plain _) rfl fun h => ?_
  obtain rfl : form = .vv := by simpa [WellFormed, VFmaBase.wfVv] using h
  simp [base, decode32Plain, decVArith, decVFmaBase, -BitVec.reduceAppend]

theorem vfnma (x0 : VFmaBase) : Statement (.vfnma x0) := by
  obtain ⟨a, c, b, j, drv, form, m⟩ := x0
  refine of32 rfl (d := .plain _) rfl fun h => ?_
  obtain rfl : form = .vv := by simpa [WellFormed, VFmaBase.wfVv] using h
  simp [base, decode32Plain, decVArith, decVFmaBase, -BitVec.reduceAppend]

theorem vcmpEq (x0 : VCmpBase) : Statement (.vcmpEq x0) := of32 rfl (d := (.plain (.vcmpEq x0))) rfl fun _ => by
  simp [base, whenZero, decode32Plain, decVArith, decVCmpBase, -BitVec.reduceAppend]

theorem vcmpNe (x0 : VCmpBase) : Statement (.vcmpNe x0) := of32 rfl (d := (.plain (.vcmpNe x0))) rfl fun _ => by
  simp [base, whenZero, decode32Plain, decVArith, decVCmpBase, -BitVec.reduceAppend]

theorem vcmpLt (x0 : VCmpBase) : Statement (.vcmpLt x0) := of32 rfl (d := (.plain (.vcmpLt x0))) rfl fun _ => by
  simp [base, whenZero, decode32Plain, decVArith, decVCmpBase, -BitVec.reduceAppend]

theorem vcmpLe (x0 : VCmpBase) : Statement (.vcmpLe x0) := of32 rfl (d := (.plain (.vcmpLe x0))) rfl fun _ => by
  simp [base, whenZero, decode32Plain, decVArith, decVCmpBase, -BitVec.reduceAppend]

theorem vaddL (x0 : VLong) : Statement (.vaddL x0) := of64 rfl (d := (.plain (.vaddL x0))) rfl fun h => by
  have h : x0.wf = true := h
  obtain ⟨hb, hc⟩ := VLong.wf_parts h
  simp [long, drovesOf, drove_code, hb, hc, h, decode64Plain, decVArithLong, decVLong, -BitVec.reduceAppend]

theorem vsubL (x0 : VLong) : Statement (.vsubL x0) := of64 rfl (d := (.plain (.vsubL x0))) rfl fun h => by
  have h : x0.wf = true := h
  obtain ⟨hb, hc⟩ := VLong.wf_parts h
  simp [long, drovesOf, drove_code, hb, hc, h, decode64Plain, decVArithLong, decVLong, -BitVec.reduceAppend]

theorem vrsubL (x0 : VLong) : Statement (.vrsubL x0) := of64 rfl (d := (.plain (.vrsubL x0))) rfl fun h => by
  have h : x0.wf = true := h
  obtain ⟨hb, hc⟩ := VLong.wf_parts h
  simp [long, drovesOf, drove_code, hb, hc, h, decode64Plain, decVArithLong, decVLong, -BitVec.reduceAppend]

theorem vmulL (x0 : VLong) : Statement (.vmulL x0) := of64 rfl (d := (.plain (.vmulL x0))) rfl fun h => by
  have h : x0.wf = true := h
  obtain ⟨hb, hc⟩ := VLong.wf_parts h
  simp [long, drovesOf, drove_code, hb, hc, h, decode64Plain, decVArithLong, decVLong, -BitVec.reduceAppend]

theorem vmulhL (x0 : VLong) : Statement (.vmulhL x0) := of64 rfl (d := (.plain (.vmulhL x0))) rfl fun h => by
  have h : x0.wf = true := h
  obtain ⟨hb, hc⟩ := VLong.wf_parts h
  simp [long, drovesOf, drove_code, hb, hc, h, decode64Plain, decVArithLong, decVLong, -BitVec.reduceAppend]

theorem vdivL (x0 : VLong) : Statement (.vdivL x0) := of64 rfl (d := (.plain (.vdivL x0))) rfl fun h => by
  have h : x0.wf = true := h
  obtain ⟨hb, hc⟩ := VLong.wf_parts h
  simp [long, drovesOf, drove_code, hb, hc, h, decode64Plain, decVArithLong, decVLong, -BitVec.reduceAppend]

theorem vremL (x0 : VLong) : Statement (.vremL x0) := of64 rfl (d := (.plain (.vremL x0))) rfl fun h => by
  have h : x0.wf = true := h
  obtain ⟨hb, hc⟩ := VLong.wf_parts h
  simp [long, drovesOf, drove_code, hb, hc, h, decode64Plain, decVArithLong, decVLong, -BitVec.reduceAppend]

theorem vminL (x0 : VLong) : Statement (.vminL x0) := of64 rfl (d := (.plain (.vminL x0))) rfl fun h => by
  have h : x0.wf = true := h
  obtain ⟨hb, hc⟩ := VLong.wf_parts h
  simp [long, drovesOf, drove_code, hb, hc, h, decode64Plain, decVArithLong, decVLong, -BitVec.reduceAppend]

theorem vmaxL (x0 : VLong) : Statement (.vmaxL x0) := of64 rfl (d := (.plain (.vmaxL x0))) rfl fun h => by
  have h : x0.wf = true := h
  obtain ⟨hb, hc⟩ := VLong.wf_parts h
  simp [long, drovesOf, drove_code, hb, hc, h, decode64Plain, decVArithLong, decVLong, -BitVec.reduceAppend]

theorem vandL (x0 : VLong) : Statement (.vandL x0) := of64 rfl (d := (.plain (.vandL x0))) rfl fun h => by
  have h : x0.wf = true := h
  obtain ⟨hb, hc⟩ := VLong.wf_parts h
  simp [long, drovesOf, drove_code, hb, hc, h, decode64Plain, decVArithLong, decVLong, -BitVec.reduceAppend]

theorem vorL (x0 : VLong) : Statement (.vorL x0) := of64 rfl (d := (.plain (.vorL x0))) rfl fun h => by
  have h : x0.wf = true := h
  obtain ⟨hb, hc⟩ := VLong.wf_parts h
  simp [long, drovesOf, drove_code, hb, hc, h, decode64Plain, decVArithLong, decVLong, -BitVec.reduceAppend]

theorem vxorL (x0 : VLong) : Statement (.vxorL x0) := of64 rfl (d := (.plain (.vxorL x0))) rfl fun h => by
  have h : x0.wf = true := h
  obtain ⟨hb, hc⟩ := VLong.wf_parts h
  simp [long, drovesOf, drove_code, hb, hc, h, decode64Plain, decVArithLong, decVLong, -BitVec.reduceAppend]

theorem vshlL (x0 : VLong) : Statement (.vshlL x0) := of64 rfl (d := (.plain (.vshlL x0))) rfl fun h => by
  have h : x0.wf = true := h
  obtain ⟨hb, hc⟩ := VLong.wf_parts h
  simp [long, drovesOf, drove_code, hb, hc, h, decode64Plain, decVArithLong, decVLong, -BitVec.reduceAppend]

theorem vshrL (x0 : VLong) : Statement (.vshrL x0) := of64 rfl (d := (.plain (.vshrL x0))) rfl fun h => by
  have h : x0.wf = true := h
  obtain ⟨hb, hc⟩ := VLong.wf_parts h
  simp [long, drovesOf, drove_code, hb, hc, h, decode64Plain, decVArithLong, decVLong, -BitVec.reduceAppend]

theorem vfmaL (x0 : VFmaLong) : Statement (.vfmaL x0) := by
  obtain ⟨a, c, b, j, form, m, db, dc⟩ := x0
  cases form <;> exact of64 rfl (d := .plain _) rfl fun h => by
    obtain ⟨hb, hc⟩ := VFmaLong.wf_parts h
    simp [long, FmaForm.code, drovesOf, drove_code, hb, hc, show VFmaLong.wf _ = true from h, decode64Plain, decVArithLong, decVFmaLong, checked, WellFormed, -BitVec.reduceAppend]

theorem vfmsL (x0 : VFmaLong) : Statement (.vfmsL x0) := by
  obtain ⟨a, c, b, j, form, m, db, dc⟩ := x0
  refine of64 rfl (d := .plain _) rfl fun h => ?_
  obtain ⟨hf, hb, hc⟩ := VFmaLong.wfVv_parts h
  subst hf
  simp [long, drovesOf, drove_code, hb, hc, show VFmaLong.wfVv _ = true from h, decode64Plain, decVArithLong, decVFmaLong, checked, WellFormed, -BitVec.reduceAppend]

theorem vfnmaL (x0 : VFmaLong) : Statement (.vfnmaL x0) := by
  obtain ⟨a, c, b, j, form, m, db, dc⟩ := x0
  refine of64 rfl (d := .plain _) rfl fun h => ?_
  obtain ⟨hf, hb, hc⟩ := VFmaLong.wfVv_parts h
  subst hf
  simp [long, drovesOf, drove_code, hb, hc, show VFmaLong.wfVv _ = true from h, decode64Plain, decVArithLong, decVFmaLong, checked, WellFormed, -BitVec.reduceAppend]

theorem vcmpEqL (x0 : VCmpLong) : Statement (.vcmpEqL x0) := of64 rfl (d := (.plain (.vcmpEqL x0))) rfl fun h => by
  have h : x0.wf = true := h
  obtain ⟨hb, hc⟩ := VCmpLong.wf_parts h
  simp [long, drovesOf, drove_code, hb, hc, h, decode64Plain, decVArithLong, decVCmpLong, -BitVec.reduceAppend]

theorem vcmpNeL (x0 : VCmpLong) : Statement (.vcmpNeL x0) := of64 rfl (d := (.plain (.vcmpNeL x0))) rfl fun h => by
  have h : x0.wf = true := h
  obtain ⟨hb, hc⟩ := VCmpLong.wf_parts h
  simp [long, drovesOf, drove_code, hb, hc, h, decode64Plain, decVArithLong, decVCmpLong, -BitVec.reduceAppend]

theorem vcmpLtL (x0 : VCmpLong) : Statement (.vcmpLtL x0) := of64 rfl (d := (.plain (.vcmpLtL x0))) rfl fun h => by
  have h : x0.wf = true := h
  obtain ⟨hb, hc⟩ := VCmpLong.wf_parts h
  simp [long, drovesOf, drove_code, hb, hc, h, decode64Plain, decVArithLong, decVCmpLong, -BitVec.reduceAppend]

theorem vcmpLeL (x0 : VCmpLong) : Statement (.vcmpLeL x0) := of64 rfl (d := (.plain (.vcmpLeL x0))) rfl fun h => by
  have h : x0.wf = true := h
  obtain ⟨hb, hc⟩ := VCmpLong.wf_parts h
  simp [long, drovesOf, drove_code, hb, hc, h, decode64Plain, decVArithLong, decVCmpLong, -BitVec.reduceAppend]

theorem vmv (x0 : VUn) : Statement (.vmv x0) := by
  obtain ⟨a, c, j, m, mod⟩ := x0
  cases mod with
  | short k =>
    exact of32 rfl (d := .plain _) rfl fun _ => by
      simp [base, decode32Plain, decVArith, decVUn, -BitVec.reduceAppend]
  | long q =>
    exact of64 rfl (d := .plain _) rfl fun h => by
      have hq : q.wf = true := h
      simp [long, drovesOf, drove_zero, drove_code, hq, decode64Plain, decVArithLong, decVUn, -BitVec.reduceAppend]

theorem vneg (x0 : VUn) : Statement (.vneg x0) := by
  obtain ⟨a, c, j, m, mod⟩ := x0
  cases mod with
  | short k =>
    exact of32 rfl (d := .plain _) rfl fun _ => by
      simp [base, decode32Plain, decVArith, decVUn, -BitVec.reduceAppend]
  | long q =>
    exact of64 rfl (d := .plain _) rfl fun h => by
      have hq : q.wf = true := h
      simp [long, drovesOf, drove_zero, drove_code, hq, decode64Plain, decVArithLong, decVUn, -BitVec.reduceAppend]

theorem vabs (x0 : VUn) : Statement (.vabs x0) := by
  obtain ⟨a, c, j, m, mod⟩ := x0
  cases mod with
  | short k =>
    exact of32 rfl (d := .plain _) rfl fun _ => by
      simp [base, decode32Plain, decVArith, decVUn, -BitVec.reduceAppend]
  | long q =>
    exact of64 rfl (d := .plain _) rfl fun h => by
      have hq : q.wf = true := h
      simp [long, drovesOf, drove_zero, drove_code, hq, decode64Plain, decVArithLong, decVUn, -BitVec.reduceAppend]

theorem vnot (x0 : VUn) : Statement (.vnot x0) := by
  obtain ⟨a, c, j, m, mod⟩ := x0
  cases mod with
  | short k =>
    exact of32 rfl (d := .plain _) rfl fun _ => by
      simp [base, decode32Plain, decVArith, decVUn, -BitVec.reduceAppend]
  | long q =>
    exact of64 rfl (d := .plain _) rfl fun h => by
      have hq : q.wf = true := h
      simp [long, drovesOf, drove_zero, drove_code, hq, decode64Plain, decVArithLong, decVUn, -BitVec.reduceAppend]

theorem vsqrt (x0 : VUn) : Statement (.vsqrt x0) := by
  obtain ⟨a, c, j, m, mod⟩ := x0
  cases mod with
  | short k =>
    exact of32 rfl (d := .plain _) rfl fun _ => by
      simp [base, decode32Plain, decVArith, decVUn, -BitVec.reduceAppend]
  | long q =>
    exact of64 rfl (d := .plain _) rfl fun h => by
      have hq : q.wf = true := h
      simp [long, drovesOf, drove_zero, drove_code, hq, decode64Plain, decVArithLong, decVUn, -BitVec.reduceAppend]

theorem vrcp (x0 : VUn) : Statement (.vrcp x0) := by
  obtain ⟨a, c, j, m, mod⟩ := x0
  cases mod with
  | short k =>
    exact of32 rfl (d := .plain _) rfl fun _ => by
      simp [base, decode32Plain, decVArith, decVUn, -BitVec.reduceAppend]
  | long q =>
    exact of64 rfl (d := .plain _) rfl fun h => by
      have hq : q.wf = true := h
      simp [long, drovesOf, drove_zero, drove_code, hq, decode64Plain, decVArithLong, decVUn, -BitVec.reduceAppend]

theorem vrsq (x0 : VUn) : Statement (.vrsq x0) := by
  obtain ⟨a, c, j, m, mod⟩ := x0
  cases mod with
  | short k =>
    exact of32 rfl (d := .plain _) rfl fun _ => by
      simp [base, decode32Plain, decVArith, decVUn, -BitVec.reduceAppend]
  | long q =>
    exact of64 rfl (d := .plain _) rfl fun h => by
      have hq : q.wf = true := h
      simp [long, drovesOf, drove_zero, drove_code, hq, decode64Plain, decVArithLong, decVUn, -BitVec.reduceAppend]

theorem vexp2 (x0 : VUn) : Statement (.vexp2 x0) := by
  obtain ⟨a, c, j, m, mod⟩ := x0
  cases mod with
  | short k =>
    exact of32 rfl (d := .plain _) rfl fun _ => by
      simp [base, decode32Plain, decVArith, decVUn, -BitVec.reduceAppend]
  | long q =>
    exact of64 rfl (d := .plain _) rfl fun h => by
      have hq : q.wf = true := h
      simp [long, drovesOf, drove_zero, drove_code, hq, decode64Plain, decVArithLong, decVUn, -BitVec.reduceAppend]

theorem vlog2 (x0 : VUn) : Statement (.vlog2 x0) := by
  obtain ⟨a, c, j, m, mod⟩ := x0
  cases mod with
  | short k =>
    exact of32 rfl (d := .plain _) rfl fun _ => by
      simp [base, decode32Plain, decVArith, decVUn, -BitVec.reduceAppend]
  | long q =>
    exact of64 rfl (d := .plain _) rfl fun h => by
      have hq : q.wf = true := h
      simp [long, drovesOf, drove_zero, drove_code, hq, decode64Plain, decVArithLong, decVUn, -BitVec.reduceAppend]

theorem vtanh (x0 : VUn) : Statement (.vtanh x0) := by
  obtain ⟨a, c, j, m, mod⟩ := x0
  cases mod with
  | short k =>
    exact of32 rfl (d := .plain _) rfl fun _ => by
      simp [base, decode32Plain, decVArith, decVUn, -BitVec.reduceAppend]
  | long q =>
    exact of64 rfl (d := .plain _) rfl fun h => by
      have hq : q.wf = true := h
      simp [long, drovesOf, drove_zero, drove_code, hq, decode64Plain, decVArithLong, decVUn, -BitVec.reduceAppend]

theorem vclz (x0 : VUn) : Statement (.vclz x0) := by
  obtain ⟨a, c, j, m, mod⟩ := x0
  cases mod with
  | short k =>
    exact of32 rfl (d := .plain _) rfl fun _ => by
      simp [base, decode32Plain, decVArith, decVUn, -BitVec.reduceAppend]
  | long q =>
    exact of64 rfl (d := .plain _) rfl fun h => by
      have hq : q.wf = true := h
      simp [long, drovesOf, drove_zero, drove_code, hq, decode64Plain, decVArithLong, decVUn, -BitVec.reduceAppend]

theorem vpopc (x0 : VUn) : Statement (.vpopc x0) := by
  obtain ⟨a, c, j, m, mod⟩ := x0
  cases mod with
  | short k =>
    exact of32 rfl (d := .plain _) rfl fun _ => by
      simp [base, decode32Plain, decVArith, decVUn, -BitVec.reduceAppend]
  | long q =>
    exact of64 rfl (d := .plain _) rfl fun h => by
      have hq : q.wf = true := h
      simp [long, drovesOf, drove_zero, drove_code, hq, decode64Plain, decVArithLong, decVUn, -BitVec.reduceAppend]

theorem vsel (x0 : VSelOps) : Statement (.vsel x0) := by
  obtain ⟨a, c, b, j, m, mods⟩ := x0
  cases mods with
  | none =>
    exact of32 rfl (d := .plain _) rfl fun h => by
      have h' := h
      simp [WellFormed, VSelOps.wf] at h'
      simp [base, checked, WellFormed, VSelOps.wf, h', decode32Plain, decMisc, -BitVec.reduceAppend]
  | some q =>
    exact of64 rfl (d := .plain _) rfl fun h => by
      simp [WellFormed, VSelOps.wf] at h
      simp [long, checked, WellFormed, VSelOps.wf, drovesOf, drove_code, h, decode64Plain, decMisc, -BitVec.reduceAppend]

theorem vred (x0 : VRedOps) : Statement (.vred x0) := by
  obtain ⟨a, c, op, j, m, dc⟩ := x0
  cases dc with
  | none =>
    exact of32 rfl (d := .plain _) rfl fun h => by
      simp [base, whenZero, decode32Plain, decMisc, -BitVec.reduceAppend]
  | some q =>
    exact of64 rfl (d := .plain _) rfl fun h => by
      simp [WellFormed, droveOptWf] at h
      simp [long, whenZero, drovesOf, drove_none, drove_code, h, decode64Plain, decMisc, -BitVec.reduceAppend]

theorem vredO (x0 : VRedOps) : Statement (.vredO x0) := by
  obtain ⟨a, c, op, j, m, dc⟩ := x0
  cases dc with
  | none =>
    exact of32 rfl (d := .plain _) rfl fun h => by
      simp [base, whenZero, decode32Plain, decMisc, -BitVec.reduceAppend]
  | some q =>
    exact of64 rfl (d := .plain _) rfl fun h => by
      simp [WellFormed, droveOptWf] at h
      simp [long, whenZero, drovesOf, drove_none, drove_code, h, decode64Plain, decMisc, -BitVec.reduceAppend]

theorem vscan (x0 : VRedOps) : Statement (.vscan x0) := by
  obtain ⟨a, c, op, j, m, dc⟩ := x0
  cases dc with
  | none =>
    exact of32 rfl (d := .plain _) rfl fun h => by
      simp [base, whenZero, decode32Plain, decMisc, -BitVec.reduceAppend]
  | some q =>
    exact of64 rfl (d := .plain _) rfl fun h => by
      simp [WellFormed, droveOptWf] at h
      simp [long, whenZero, drovesOf, drove_none, drove_code, h, decode64Plain, decMisc, -BitVec.reduceAppend]

theorem vcompress (x0 : VOne) : Statement (.vcompress x0) := by
  obtain ⟨a, c, j, m, dc⟩ := x0
  cases dc with
  | none =>
    exact of32 rfl (d := .plain _) rfl fun h => by
      simp [WellFormed, droveOptWf] at h
      simp [base, whenZero, checked, WellFormed, droveOptWf, h, decode32Plain, decMisc, -BitVec.reduceAppend]
  | some q =>
    exact of64 rfl (d := .plain _) rfl fun h => by
      simp [WellFormed, droveOptWf] at h
      simp [long, whenZero, checked, WellFormed, droveOptWf, drovesOf, drove_none, drove_code, h, decode64Plain, decMisc, -BitVec.reduceAppend]

theorem vexpand (x0 : VOne) : Statement (.vexpand x0) := by
  obtain ⟨a, c, j, m, dc⟩ := x0
  cases dc with
  | none =>
    exact of32 rfl (d := .plain _) rfl fun h => by
      simp [WellFormed, droveOptWf] at h
      simp [base, whenZero, checked, WellFormed, droveOptWf, h, decode32Plain, decMisc, -BitVec.reduceAppend]
  | some q =>
    exact of64 rfl (d := .plain _) rfl fun h => by
      simp [WellFormed, droveOptWf] at h
      simp [long, whenZero, checked, WellFormed, droveOptWf, drovesOf, drove_none, drove_code, h, decode64Plain, decMisc, -BitVec.reduceAppend]

theorem viota (x0 : VIotaOps) : Statement (.viota x0) := by
  obtain ⟨a, j, m, long⟩ := x0
  cases long with
  | false =>
    exact of32 rfl (d := .plain _) rfl fun _ => by
      simp [base, whenZero, m5, decode32Plain, decMisc, -BitVec.reduceAppend]
  | true =>
    exact of64 rfl (d := .plain _) rfl fun _ => by
      simp [Encoding.long, whenZero, m5, drovesOf, drove_none, decode64Plain, decMisc, -BitVec.reduceAppend]

theorem vreshape (x0 : VReshapeOps) : Statement (.vreshape x0) := by
  obtain ⟨a, c, b, j, m, dc⟩ := x0
  cases dc with
  | none =>
    exact of32 rfl (d := .plain _) rfl fun h => by
      simp [base, whenZero, decode32Plain, decMisc, -BitVec.reduceAppend]
  | some q =>
    exact of64 rfl (d := .plain _) rfl fun h => by
      simp [WellFormed, droveOptWf] at h
      simp [long, whenZero, drovesOf, drove_none, drove_code, h, decode64Plain, decMisc, -BitVec.reduceAppend]

theorem vextract (x0 : VExtractOps) : Statement (.vextract x0) := by
  obtain ⟨a, c, b, dc⟩ := x0
  cases dc with
  | none =>
    exact of32 rfl (d := .plain _) rfl fun h => by
      simp [base, whenZero, decode32Plain, decMisc, -BitVec.reduceAppend]
  | some q =>
    exact of64 rfl (d := .plain _) rfl fun h => by
      simp [WellFormed, droveOptWf] at h
      simp [long, whenZero, drovesOf, drove_none, drove_code, h, decode64Plain, decMisc, -BitVec.reduceAppend]

theorem vinsert (x0 : VInsertOps) : Statement (.vinsert x0) := by
  obtain ⟨a, b, c, j, m, long⟩ := x0
  cases long with
  | false =>
    exact of32 rfl (d := .plain _) rfl fun _ => by
      simp [base, whenZero, m5, decode32Plain, decMisc, -BitVec.reduceAppend]
  | true =>
    exact of64 rfl (d := .plain _) rfl fun _ => by
      simp [Encoding.long, whenZero, m5, drovesOf, drove_none, decode64Plain, decMisc, -BitVec.reduceAppend]

theorem vld (x0 : VLdOps) : Statement (.vld x0) := by
  obtain ⟨a, b, addr, j, u, tag, m⟩ := x0
  cases addr <;> exact of32 rfl (d := .plain _) rfl fun _ => by
    simp [base, VAddr.dBit, VAddr.cField, decode32Plain, decVMem, decVAddr, -BitVec.reduceAppend]

theorem vst (x0 : VStOps) : Statement (.vst x0) := by
  obtain ⟨a, b, addr, j, u, m⟩ := x0
  cases addr <;> exact of32 rfl (d := .plain _) rfl fun _ => by
    simp [base, VAddr.dBit, VAddr.cField, decode32Plain, decVMem, decVAddr, -BitVec.reduceAppend]

theorem vldx (x0 : VLdxOps) : Statement (.vldx x0) := of32 rfl (d := (.plain (.vldx x0))) rfl fun _ => by
  simp [base, decode32Plain, decVMem, -BitVec.reduceAppend]

theorem vstx (x0 : VStxOps) : Statement (.vstx x0) := of32 rfl (d := (.plain (.vstx x0))) rfl fun _ => by
  simp [base, decode32Plain, decVMem, -BitVec.reduceAppend]

theorem vldL (x0 : VLdOps) (x1 : BitVec 32) : Statement (.vldL x0 x1) := by
  obtain ⟨a, b, addr, j, u, tag, m⟩ := x0
  cases addr <;> exact of64 rfl (d := .plain _) rfl fun _ => by
    simp [long, VAddr.dBit, VAddr.cField, decode64Plain, decVMem, decVAddr, -BitVec.reduceAppend]

theorem vstL (x0 : VStOps) (x1 : BitVec 32) : Statement (.vstL x0 x1) := by
  obtain ⟨a, b, addr, j, u, m⟩ := x0
  cases addr <;> exact of64 rfl (d := .plain _) rfl fun _ => by
    simp [long, VAddr.dBit, VAddr.cField, decode64Plain, decVMem, decVAddr, -BitVec.reduceAppend]

theorem vldxL (x0 : VLdxOps) (x1 : BitVec 32) : Statement (.vldxL x0 x1) := of64 rfl (d := (.plain (.vldxL x0 x1))) rfl fun _ => by
  simp [long, decode64Plain, decVMem, -BitVec.reduceAppend]

theorem vstxL (x0 : VStxOps) (x1 : BitVec 32) : Statement (.vstxL x0 x1) := of64 rfl (d := (.plain (.vstxL x0 x1))) rfl fun _ => by
  simp [long, decode64Plain, decVMem, -BitVec.reduceAppend]

theorem vldW (x0 : VLdwOps) : Statement (.vldW x0) := by
  obtain ⟨a, w, j, tag, m, off⟩ := x0
  cases off with
  | none =>
    exact of32 rfl (d := .plain _) rfl fun _ => by
      simp [base, whenZero, m5, decode32Plain, decStream, -BitVec.reduceAppend]
  | some q =>
    exact of64 rfl (d := .plain _) rfl fun _ => by
      simp [long, whenZero, m5, decode64Plain, decStream, -BitVec.reduceAppend]

theorem vstW (x0 : VStwOps) : Statement (.vstW x0) := by
  obtain ⟨a, w, j, m, off⟩ := x0
  cases off with
  | none =>
    exact of32 rfl (d := .plain _) rfl fun _ => by
      simp [base, whenZero, m5, decode32Plain, decStream, -BitVec.reduceAppend]
  | some q =>
    exact of64 rfl (d := .plain _) rfl fun _ => by
      simp [long, whenZero, m5, decode64Plain, decStream, -BitVec.reduceAppend]

theorem wset (x0 : BitVec 3) (x1 : GReg) (x2 : GReg) (x3 : Option (BitVec 32)) : Statement (.wset x0 x1 x2 x3) := by
  cases x3 with
  | none =>
    exact of32 rfl (d := .plain _) rfl fun _ => by
      simp [base, whenZero, m5, decode32Plain, decStream, -BitVec.reduceAppend]
  | some q =>
    exact of64 rfl (d := .plain _) rfl fun _ => by
      simp [long, whenZero, m5, decode64Plain, decStream, -BitVec.reduceAppend]

theorem wadv (x0 : BitVec 3) (x1 : GReg) (x2 : Option (BitVec 32)) : Statement (.wadv x0 x1 x2) := by
  cases x2 with
  | none =>
    exact of32 rfl (d := .plain _) rfl fun _ => by
      simp [base, whenZero, m5, decode32Plain, decStream, -BitVec.reduceAppend]
  | some q =>
    exact of64 rfl (d := .plain _) rfl fun _ => by
      simp [long, whenZero, m5, decode64Plain, decStream, -BitVec.reduceAppend]

theorem cnop : Statement .cnop := of16 rfl (by simp [lengthOf, -BitVec.reduceAppend]) (by simp [decode16, -BitVec.reduceAppend])

theorem fenceSv : Statement .fenceSv := of32 rfl (d := (.plain .fenceSv)) rfl fun _ => by
  simp [base, whenZero, decode32Plain, decFence, -BitVec.reduceAppend]

theorem fenceVs : Statement .fenceVs := of32 rfl (d := (.plain .fenceVs)) rfl fun _ => by
  simp [base, whenZero, decode32Plain, decFence, -BitVec.reduceAppend]

theorem fenceVv : Statement .fenceVv := of32 rfl (d := (.plain .fenceVv)) rfl fun _ => by
  simp [base, whenZero, decode32Plain, decFence, -BitVec.reduceAppend]

theorem fenceI : Statement .fenceI := of32 rfl (d := (.plain .fenceI)) rfl fun _ => by
  simp [base, whenZero, decode32Plain, decFence, -BitVec.reduceAppend]

theorem join : Statement .join := of32 rfl (d := (.plain .join)) rfl fun _ => by
  simp [base, whenZero, decode32Plain, decTask, -BitVec.reduceAppend]

theorem taskend : Statement .taskend := of32 rfl (d := (.plain .taskend)) rfl fun _ => by
  simp [base, whenZero, decode32Plain, decTask, -BitVec.reduceAppend]

theorem msgdone : Statement .msgdone := of32 rfl (d := (.plain .msgdone)) rfl fun _ => by
  simp [base, whenZero, decode32Plain, decTask, -BitVec.reduceAppend]

theorem gbar : Statement .gbar := of32 rfl (d := (.plain .gbar)) rfl fun _ => by
  simp [base, whenZero, decode32Plain, decMoot, -BitVec.reduceAppend]

theorem eret : Statement .eret := of32 rfl (d := (.plain .eret)) rfl fun _ => by
  simp [base, whenZero, decode32Plain, decSystem, -BitVec.reduceAppend]

theorem yield : Statement .yield := of32 rfl (d := (.plain .yield)) rfl fun _ => by
  simp [base, whenZero, decode32Plain, decSystem, -BitVec.reduceAppend]

theorem halt : Statement .halt := of32 rfl (d := (.plain .halt)) rfl fun _ => by
  simp [base, whenZero, decode32Plain, decSystem, -BitVec.reduceAppend]

theorem wfm : Statement .wfm := of32 rfl (d := (.plain .wfm)) rfl fun _ => by
  simp [base, whenZero, decode32Plain, decSystem, -BitVec.reduceAppend]

theorem vsetn (x0 : VSetOps) : Statement (.vsetn x0) := of32 rfl (d := (.vsetn x0)) rfl fun _ => by
  simp [base, whenZero, decCfg, -BitVec.reduceAppend]

theorem vsetnG (x0 : VSetOps) : Statement (.vsetnG x0) := of32 rfl (d := (.vsetnG x0)) rfl fun _ => by
  simp [base, whenZero, decCfg, -BitVec.reduceAppend]

theorem vsetd (x0 : GReg) (x1 : GReg) (x2 : Fin 3) : Statement (.vsetd x0 x1 x2) := by
  match x2 with
  | 0 => exact of32 rfl (d := .vsetd _ _ _) rfl fun _ => by simp [base, whenZero, decCfg]
  | 1 => exact of32 rfl (d := .vsetd _ _ _) rfl fun _ => by simp [base, whenZero, decCfg]
  | 2 => exact of32 rfl (d := .vsetd _ _ _) rfl fun _ => by simp [base, whenZero, decCfg]

theorem vtag (x0 : VReg) (x1 : Tag) : Statement (.vtag x0 x1) := of32 rfl (d := (.vtag x0 x1)) rfl fun _ => by
  simp [base, whenZero, decCfg, -BitVec.reduceAppend]

theorem vfsave (x0 : GReg) : Statement (.vfsave x0) := of32 rfl (d := (.vfsave x0)) rfl fun _ => by
  simp [base, whenZero, decCfg, -BitVec.reduceAppend]

theorem vfrestore (x0 : GReg) : Statement (.vfrestore x0) := of32 rfl (d := (.vfrestore x0)) rfl fun _ => by
  simp [base, whenZero, decCfg, -BitVec.reduceAppend]

theorem mand (x0 : MaskOps) : Statement (.mand x0) := by
  obtain ⟨a, b, c, j, long⟩ := x0
  cases long with
  | false =>
    exact of32 rfl (d := .mand _) rfl fun _ => by
      simp [base, whenZero, m5, decMask, -BitVec.reduceAppend]
  | true =>
    exact of64 rfl (d := .mand _) rfl fun _ => by
      simp [Encoding.long, whenZero, m5, drovesOf, drove_none, decMask, -BitVec.reduceAppend]

theorem mor (x0 : MaskOps) : Statement (.mor x0) := by
  obtain ⟨a, b, c, j, long⟩ := x0
  cases long with
  | false =>
    exact of32 rfl (d := .mor _) rfl fun _ => by
      simp [base, whenZero, m5, decMask, -BitVec.reduceAppend]
  | true =>
    exact of64 rfl (d := .mor _) rfl fun _ => by
      simp [Encoding.long, whenZero, m5, drovesOf, drove_none, decMask, -BitVec.reduceAppend]

theorem mxor (x0 : MaskOps) : Statement (.mxor x0) := by
  obtain ⟨a, b, c, j, long⟩ := x0
  cases long with
  | false =>
    exact of32 rfl (d := .mxor _) rfl fun _ => by
      simp [base, whenZero, m5, decMask, -BitVec.reduceAppend]
  | true =>
    exact of64 rfl (d := .mxor _) rfl fun _ => by
      simp [Encoding.long, whenZero, m5, drovesOf, drove_none, decMask, -BitVec.reduceAppend]

theorem mandn (x0 : MaskOps) : Statement (.mandn x0) := by
  obtain ⟨a, b, c, j, long⟩ := x0
  cases long with
  | false =>
    exact of32 rfl (d := .mandn _) rfl fun _ => by
      simp [base, whenZero, m5, decMask, -BitVec.reduceAppend]
  | true =>
    exact of64 rfl (d := .mandn _) rfl fun _ => by
      simp [Encoding.long, whenZero, m5, drovesOf, drove_none, decMask, -BitVec.reduceAppend]

theorem mmov (x0 : MaskMovOps) : Statement (.mmov x0) := by
  obtain ⟨a, c, j, long⟩ := x0
  cases long with
  | false =>
    exact of32 rfl (d := .mmov _) rfl fun _ => by
      simp [base, whenZero, m5, decMask, -BitVec.reduceAppend]
  | true =>
    exact of64 rfl (d := .mmov _) rfl fun _ => by
      simp [Encoding.long, whenZero, m5, drovesOf, drove_none, decMask, -BitVec.reduceAppend]

theorem mpopc (x0 : MaskCountOps) : Statement (.mpopc x0) := by
  obtain ⟨a, c, long⟩ := x0
  cases long with
  | false =>
    exact of32 rfl (d := .mpopc _) rfl fun _ => by
      simp [base, whenZero, m5, decMask, -BitVec.reduceAppend]
  | true =>
    exact of64 rfl (d := .mpopc _) rfl fun _ => by
      simp [Encoding.long, whenZero, m5, drovesOf, drove_none, decMask, -BitVec.reduceAppend]

theorem mfirst (x0 : MaskCountOps) : Statement (.mfirst x0) := by
  obtain ⟨a, c, long⟩ := x0
  cases long with
  | false =>
    exact of32 rfl (d := .mfirst _) rfl fun _ => by
      simp [base, whenZero, m5, decMask, -BitVec.reduceAppend]
  | true =>
    exact of64 rfl (d := .mfirst _) rfl fun _ => by
      simp [Encoding.long, whenZero, m5, drovesOf, drove_none, decMask, -BitVec.reduceAppend]

theorem vcvt (x0 : VCvtOps) : Statement (.vcvt x0) := by
  obtain ⟨a, c, tag, sew, rm, j, m, dc⟩ := x0
  cases dc with
  | none =>
    exact of32 rfl (d := .vcvt _) rfl fun h => by
      simp [WellFormed, droveOptWf, VCvtOps.wf] at h
      simp [base, whenZero, VCvtOps.wf, droveOptWf, h, decVCvt, -BitVec.reduceAppend]
  | some q =>
    exact of64 rfl (d := .vcvt _) rfl fun h => by
      simp [WellFormed, droveOptWf, VCvtOps.wf] at h
      simp [long, whenZero, VCvtOps.wf, droveOptWf, drovesOf, drove_none, drove_code, h, decVCvt, -BitVec.reduceAppend]

theorem vcvtSat (x0 : VCvtOps) : Statement (.vcvtSat x0) := by
  obtain ⟨a, c, tag, sew, rm, j, m, dc⟩ := x0
  cases dc with
  | none =>
    exact of32 rfl (d := .vcvtSat _) rfl fun h => by
      simp [WellFormed, droveOptWf, VCvtOps.wf] at h
      simp [base, whenZero, VCvtOps.wf, droveOptWf, h, decVCvt, -BitVec.reduceAppend]
  | some q =>
    exact of64 rfl (d := .vcvtSat _) rfl fun h => by
      simp [WellFormed, droveOptWf, VCvtOps.wf] at h
      simp [long, whenZero, VCvtOps.wf, droveOptWf, drovesOf, drove_none, drove_code, h, decVCvt, -BitVec.reduceAppend]

theorem vcvtI4 (x0 : VOne) : Statement (.vcvtI4 x0) := by
  obtain ⟨a, c, j, m, dc⟩ := x0
  cases dc with
  | none =>
    exact of32 rfl (d := .vcvtI4 _) rfl fun h => by
      simp [base, whenZero, decVCvt, -BitVec.reduceAppend]
  | some q =>
    exact of64 rfl (d := .vcvtI4 _) rfl fun h => by
      simp [WellFormed, droveOptWf] at h
      simp [long, whenZero, drovesOf, drove_none, drove_code, h, decVCvt, -BitVec.reduceAppend]

theorem vcvtE3m2 (x0 : VOne) : Statement (.vcvtE3m2 x0) := by
  obtain ⟨a, c, j, m, dc⟩ := x0
  cases dc with
  | none =>
    exact of32 rfl (d := .vcvtE3m2 _) rfl fun h => by
      simp [base, whenZero, decVCvt, -BitVec.reduceAppend]
  | some q =>
    exact of64 rfl (d := .vcvtE3m2 _) rfl fun h => by
      simp [WellFormed, droveOptWf] at h
      simp [long, whenZero, drovesOf, drove_none, drove_code, h, decVCvt, -BitVec.reduceAppend]

theorem vcvtE2m3 (x0 : VOne) : Statement (.vcvtE2m3 x0) := by
  obtain ⟨a, c, j, m, dc⟩ := x0
  cases dc with
  | none =>
    exact of32 rfl (d := .vcvtE2m3 _) rfl fun h => by
      simp [base, whenZero, decVCvt, -BitVec.reduceAppend]
  | some q =>
    exact of64 rfl (d := .vcvtE2m3 _) rfl fun h => by
      simp [WellFormed, droveOptWf] at h
      simp [long, whenZero, drovesOf, drove_none, drove_code, h, decVCvt, -BitVec.reduceAppend]

theorem mattach (x0 : GReg) (x1 : GReg) : Statement (.mattach x0 x1) := of32 rfl (d := (.mattach x0 x1)) rfl fun _ => by
  simp [base, whenZero, decMatA, t5, -BitVec.reduceAppend]

theorem mshape (x0 : GReg) : Statement (.mshape x0) := of32 rfl (d := (.mshape x0)) rfl fun _ => by
  simp [base, whenZero, decMatA, t5, -BitVec.reduceAppend]

theorem mtld (x0 : BitVec 2) (x1 : GReg) (x2 : GReg) : Statement (.mtld x0 x1 x2) := of32 rfl (d := (.mtld x0 x1 x2)) rfl fun _ => by
  simp [base, whenZero, decMatA, t5, -BitVec.reduceAppend]

theorem mtldk (x0 : BitVec 2) (x1 : GReg) (x2 : GReg) : Statement (.mtldk x0 x1 x2) := of32 rfl (d := (.mtldk x0 x1 x2)) rfl fun _ => by
  simp [base, whenZero, decMatA, t5, -BitVec.reduceAppend]

theorem mtst (x0 : BitVec 2) (x1 : GReg) (x2 : GReg) : Statement (.mtst x0 x1 x2) := of32 rfl (d := (.mtst x0 x1 x2)) rfl fun _ => by
  simp [base, whenZero, decMatA, t5, -BitVec.reduceAppend]

theorem mring (x0 : BitVec 2) (x1 : Bool) : Statement (.mring x0 x1) := of32 rfl (d := (.mring x0 x1)) rfl fun _ => by
  simp [base, whenZero, decMatA, t5, -BitVec.reduceAppend]

theorem mma (x0 : MmaOps) : Statement (.mma x0) := of32 rfl (d := (.mma x0)) rfl fun _ => by
  simp [base, whenZero, decMatBMaj, t5, -BitVec.reduceAppend]

theorem mmas (x0 : MmaOps) (x1 : BitVec 3) : Statement (.mmas x0 x1) := of32 rfl (d := (.mmas x0 x1)) rfl fun _ => by
  simp [base, whenZero, decMatBMaj, t5, -BitVec.reduceAppend]

theorem mext (x0 : VReg) (x1 : GReg) (x2 : Bool) (x3 : ExtFmt) (x4 : MaskSel) : Statement (.mext x0 x1 x2 x3 x4) := of32 rfl (d := (.mext x0 x1 x2 x3 x4)) rfl fun _ => by
  simp [base, whenZero, decMatBMaj, t5, -BitVec.reduceAppend]

theorem mextst (x0 : VReg) (x1 : GReg) (x2 : GReg) (x3 : Bool) (x4 : ExtFmt) (x5 : MaskSel) : Statement (.mextst x0 x1 x2 x3 x4 x5) := of32 rfl (d := (.mextst x0 x1 x2 x3 x4 x5)) rfl fun _ => by
  simp [base, whenZero, decMatBMaj, t5, -BitVec.reduceAppend]

theorem mdetach : Statement .mdetach := of32 rfl (d := (.plain .mdetach)) rfl fun _ => by
  simp [base, whenZero, decMatA, t5, -BitVec.reduceAppend]

theorem mzero : Statement .mzero := of32 rfl (d := (.plain .mzero)) rfl fun _ => by
  simp [base, whenZero, decMatA, t5, -BitVec.reduceAppend]

theorem mrel : Statement .mrel := of32 rfl (d := (.plain .mrel)) rfl fun _ => by
  simp [base, whenZero, decMatA, t5, -BitVec.reduceAppend]

theorem mwait : Statement .mwait := of32 rfl (d := (.plain .mwait)) rfl fun _ => by
  simp [base, whenZero, decMatA, t5, -BitVec.reduceAppend]

theorem coldReset : Statement .coldReset := of_event rfl

theorem asyncTrap : Statement .asyncTrap := of_event rfl

theorem migrationTrap (x0 : Cls) (x1 : Word) : Statement (.migrationTrap x0 x1) := of_event rfl

theorem carterQueuePlacement : Statement .carterQueuePlacement := of_event rfl

theorem window : Statement .window := of_event rfl

theorem mixMigration : Statement .mixMigration := of_event rfl

theorem preemption (x0 : Nat) : Statement (.preemption x0) := of_event rfl

theorem placement (x0 : Nat) : Statement (.placement x0) := of_event rfl

theorem lendRequest (x0 : Nat) : Statement (.lendRequest x0) := of_event rfl

theorem overflowReturn (x0 : Nat) : Statement (.overflowReturn x0) := of_event rfl

theorem levelLift (x0 : Nat) (x1 : Fin 3) : Statement (.levelLift x0 x1) := of_event rfl

theorem groupStart (x0 : GroupKey) : Statement (.groupStart x0) := of_event rfl

theorem reservationRelease (x0 : Nat) : Statement (.reservationRelease x0) := of_event rfl

theorem tkill (x0 : Word) : Statement (.tkill x0) := of_event rfl

theorem hbaseWrite (x0 : Word) : Statement (.hbaseWrite x0) := of_event rfl

theorem hlimitWrite (x0 : Word) : Statement (.hlimitWrite x0) := of_event rfl

theorem hstrayWrite (x0 : Word) : Statement (.hstrayWrite x0) := of_event rfl

theorem reevevecWrite (x0 : Word) : Statement (.reevevecWrite x0) := of_event rfl

theorem registerWrite (x0 : BitVec 12) (x1 : Word) : Statement (.registerWrite x0 x1) := of_event rfl

theorem messageDeparture (x0 : CoreId) : Statement (.messageDeparture x0) := of_event rfl

theorem messageDispatch (x0 : CoreId) : Statement (.messageDispatch x0) := of_event rfl

theorem post (x0 : BitVec 4) (x1 : Word) : Statement (.post x0 x1) := of_event rfl

theorem hostBar0Write (x0 : Nat) (x1 : List Byte) : Statement (.hostBar0Write x0 x1) := of_event rfl

theorem hostWrite (x0 : HostVia) (x1 : Nat) (x2 : List Byte) : Statement (.hostWrite x0 x1 x2) := of_event rfl

theorem hostRead (x0 : HostVia) (x1 : Nat) (x2 : Nat) : Statement (.hostRead x0 x1 x2) := of_event rfl

theorem convoyStart : Statement .convoyStart := of_event rfl

theorem convoyClose : Statement .convoyClose := of_event rfl

theorem convoyDrain : Statement .convoyDrain := of_event rfl

theorem latchForward (x0 : CroftId) (x1 : Bool) : Statement (.latchForward x0 x1) := of_event rfl

theorem gets (x0 : Nat) (x1 : Nat) : Statement (.gets x0 x1) := of_event rfl

theorem getx (x0 : Nat) (x1 : Nat) : Statement (.getx x0 x1) := of_event rfl

theorem upg (x0 : Nat) (x1 : Nat) : Statement (.upg x0 x1) := of_event rfl

theorem puts (x0 : Nat) (x1 : Nat) : Statement (.puts x0 x1) := of_event rfl

theorem putx (x0 : Nat) (x1 : Nat) : Statement (.putx x0 x1) := of_event rfl

theorem inv (x0 : Nat) (x1 : Nat) : Statement (.inv x0 x1) := of_event rfl

theorem invAck (x0 : Nat) (x1 : Nat) : Statement (.invAck x0 x1) := of_event rfl

theorem fwd (x0 : Nat) : Statement (.fwd x0) := of_event rfl

theorem dataReply (x0 : Nat) (x1 : Nat) : Statement (.dataReply x0 x1) := of_event rfl

theorem complete (x0 : Nat) (x1 : Nat) : Statement (.complete x0 x1) := of_event rfl

theorem putAck (x0 : Nat) (x1 : Nat) : Statement (.putAck x0 x1) := of_event rfl

theorem farAtomic (x0 : Nat) (x1 : HomeOp) : Statement (.farAtomic x0 x1) := of_event rfl

theorem sectoredStore (x0 : Nat) (x1 : Nat) (x2 : List Byte) : Statement (.sectoredStore x0 x1 x2) := of_event rfl

theorem homeRead (x0 : Nat) (x1 : Nat) : Statement (.homeRead x0 x1) := of_event rfl

theorem homeWrite (x0 : Nat) (x1 : List Byte) : Statement (.homeWrite x0 x1) := of_event rfl

theorem wakeNotice (x0 : Place) : Statement (.wakeNotice x0) := of_event rfl

theorem watchPoll (x0 : Place) : Statement (.watchPoll x0) := of_event rfl

theorem pauseExpiry (x0 : Place) : Statement (.pauseExpiry x0) := of_event rfl

theorem linkActive (x0 : LinkId) : Statement (.linkActive x0) := of_event rfl

theorem linkDoze (x0 : LinkId) : Statement (.linkDoze x0) := of_event rfl

theorem dieLost (x0 : Nat) : Statement (.dieLost x0) := of_event rfl

theorem pendDecrement (x0 : MootTable) (x1 : Word) (x2 : Nat) : Statement (.pendDecrement x0 x1 x2) := of_event rfl

theorem copyRecord (x0 : EngineId) : Statement (.copyRecord x0) := of_event rfl

theorem migrateRecord (x0 : EngineId) : Statement (.migrateRecord x0) := of_event rfl

theorem lockhouseAdmit : Statement .lockhouseAdmit := of_event rfl

theorem sealRecord (x0 : EngineId) : Statement (.sealRecord x0) := of_event rfl

theorem openRecord (x0 : EngineId) : Statement (.openRecord x0) := of_event rfl

theorem chase (x0 : EngineId) : Statement (.chase x0) := of_event rfl

theorem uwalk (x0 : EngineId) : Statement (.uwalk x0) := of_event rfl

theorem allreduce (x0 : EngineId) (x1 : List RankSays) : Statement (.allreduce x0 x1) := of_event rfl

theorem allgather (x0 : EngineId) (x1 : List RankSays) : Statement (.allgather x0 x1) := of_event rfl

theorem reducescatter (x0 : EngineId) (x1 : List RankSays) : Statement (.reducescatter x0 x1) := of_event rfl

theorem broadcast (x0 : EngineId) (x1 : List RankSays) : Statement (.broadcast x0 x1) := of_event rfl

theorem collectiveTimeout (x0 : EngineId) : Statement (.collectiveTimeout x0) := of_event rfl

theorem peerTimeout (x0 : Agent) : Statement (.peerTimeout x0) := of_event rfl

theorem keyWrite (x0 : BitVec 6) (x1 : Fin 4) (x2 : Word) : Statement (.keyWrite x0 x1 x2) := of_event rfl

theorem extentRemove (x0 : BitVec 6) : Statement (.extentRemove x0) := of_event rfl

theorem extentRemoved (x0 : BitVec 6) : Statement (.extentRemoved x0) := of_event rfl

theorem bisnp (x0 : BackInv) : Statement (.bisnp x0) := of_event rfl

theorem tdispMessage (x0 : BitVec 4) (x1 : Tdisp) : Statement (.tdispMessage x0 x1) := of_event rfl

theorem spdmMeasurement : Statement .spdmMeasurement := of_event rfl

theorem spdmDebugRequest (x0 : Place) : Statement (.spdmDebugRequest x0) := of_event rfl

theorem correctedError (x0 : RasUnit) (x1 : Nat) (x2 : Nat) : Statement (.correctedError x0 x1 x2) := of_event rfl

theorem rasWindow (x0 : RasUnit) (x1 : Nat) : Statement (.rasWindow x0 x1) := of_event rfl

theorem parityError (x0 : ParityAt) : Statement (.parityError x0) := of_event rfl

theorem raslogRead : Statement .raslogRead := of_event rfl

theorem rateWrite (x0 : BitVec 4) (x1 : Word) : Statement (.rateWrite x0 x1) := of_event rfl

theorem channelSwitchEnd (x0 : Nat) (x1 : Nat) : Statement (.channelSwitchEnd x0 x1) := of_event rfl

theorem migctlFree (x0 : Nat) : Statement (.migctlFree x0) := of_event rfl

theorem migctlFreeIfComplete (x0 : Nat) : Statement (.migctlFreeIfComplete x0) := of_event rfl

theorem quiesceRequest (x0 : Nat) : Statement (.quiesceRequest x0) := of_event rfl

theorem quiesceCancel (x0 : Nat) : Statement (.quiesceCancel x0) := of_event rfl

theorem drained (x0 : Nat) : Statement (.drained x0) := of_event rfl

theorem save (x0 : Nat) : Statement (.save x0) := of_event rfl

theorem saveEnd (x0 : Nat) : Statement (.saveEnd x0) := of_event rfl

theorem clkenWrite (x0 : Nat) (x1 : Word) : Statement (.clkenWrite x0 x1) := of_event rfl

theorem railenWrite (x0 : Nat) (x1 : Word) : Statement (.railenWrite x0 x1) := of_event rfl

theorem railSettled (x0 : Nat) : Statement (.railSettled x0) := of_event rfl

theorem restore (x0 : Nat) : Statement (.restore x0) := of_event rfl

theorem restoreEnd (x0 : Nat) : Statement (.restoreEnd x0) := of_event rfl

theorem wakeRequest (x0 : Nat) : Statement (.wakeRequest x0) := of_event rfl

theorem illegalInstruction (x0 : Word) : Statement (.illegalInstruction x0) := of_event rfl

theorem fetchFault : Statement .fetchFault := of_event rfl

theorem scaleUpRequest (x0 : Nat) (x1 : HomeOp) : Statement (.scaleUpRequest x0 x1) := of_event rfl

theorem fwdData (x0 : Nat) : Statement (.fwdData x0) := of_event rfl

theorem bisnpResponse (x0 : Nat) : Statement (.bisnpResponse x0) := of_event rfl

theorem ideKm (x0 : BitVec 4) (x1 : Bool) : Statement (.ideKm x0 x1) := of_event rfl

theorem hostConfigWrite (x0 : BitVec 4) (x1 : Nat) : Statement (.hostConfigWrite x0 x1) := of_event rfl

theorem linkRetrain (x0 : LinkId) (x1 : Bool) : Statement (.linkRetrain x0 x1) := of_event rfl

theorem uncorrectableError (x0 : RasUnit) (x1 : Nat) : Statement (.uncorrectableError x0 x1) := of_event rfl

end Sys2Proof.Laws.Encoding
end

