-- ==== Sys2Proof/Laws/State.lean ====
section
/-! SUPPORT. What each update of the state leaves alone: one lemma per field and update, so that no proof
unfolds a record update. The fields an update does change have no lemma here. -/

namespace Sys2Proof.Laws

open Machine

@[simp] theorem hart_closeConvoy_pc (h : Hart) : (h.closeConvoy).pc = h.pc := rfl
@[simp] theorem hart_closeConvoy_g (h : Hart) : (h.closeConvoy).g = h.g := rfl
@[simp] theorem hart_closeConvoy_ldsT (h : Hart) : (h.closeConvoy).ldsT = h.ldsT := rfl
@[simp] theorem hart_closeConvoy_ldsS (h : Hart) : (h.closeConvoy).ldsS = h.ldsS := rfl
@[simp] theorem hart_closeConvoy_ldsF (h : Hart) : (h.closeConvoy).ldsF = h.ldsF := rfl
@[simp] theorem hart_closeConvoy_status (h : Hart) : (h.closeConvoy).status = h.status := rfl
@[simp] theorem hart_closeConvoy_bankS (h : Hart) : (h.closeConvoy).bankS = h.bankS := rfl
@[simp] theorem hart_closeConvoy_bankF (h : Hart) : (h.closeConvoy).bankF = h.bankF := rfl
@[simp] theorem hart_closeConvoy_tvec (h : Hart) : (h.closeConvoy).tvec = h.tvec := rfl
@[simp] theorem hart_closeConvoy_ftvec (h : Hart) : (h.closeConvoy).ftvec = h.ftvec := rfl
@[simp] theorem hart_closeConvoy_tdeleg (h : Hart) : (h.closeConvoy).tdeleg = h.tdeleg := rfl
@[simp] theorem hart_closeConvoy_scratch (h : Hart) : (h.closeConvoy).scratch = h.scratch := rfl
@[simp] theorem hart_closeConvoy_fscratch (h : Hart) : (h.closeConvoy).fscratch = h.fscratch := rfl
@[simp] theorem hart_closeConvoy_taskId (h : Hart) : (h.closeConvoy).taskId = h.taskId := rfl
@[simp] theorem hart_closeConvoy_parent (h : Hart) : (h.closeConvoy).parent = h.parent := rfl
@[simp] theorem hart_closeConvoy_desc (h : Hart) : (h.closeConvoy).desc = h.desc := rfl
@[simp] theorem hart_closeConvoy_arg (h : Hart) : (h.closeConvoy).arg = h.arg := rfl
@[simp] theorem hart_closeConvoy_prio (h : Hart) : (h.closeConvoy).prio = h.prio := rfl
@[simp] theorem hart_closeConvoy_placedAt (h : Hart) : (h.closeConvoy).placedAt = h.placedAt := rfl
@[simp] theorem hart_closeConvoy_mixctl (h : Hart) : (h.closeConvoy).mixctl = h.mixctl := rfl
@[simp] theorem hart_closeConvoy_nv (h : Hart) : (h.closeConvoy).nv = h.nv := rfl
@[simp] theorem hart_closeConvoy_nm (h : Hart) : (h.closeConvoy).nm = h.nm := rfl
@[simp] theorem hart_closeConvoy_nf (h : Hart) : (h.closeConvoy).nf = h.nf := rfl
@[simp] theorem hart_closeConvoy_winCount (h : Hart) : (h.closeConvoy).winCount = h.winCount := rfl
@[simp] theorem hart_closeConvoy_windows (h : Hart) : (h.closeConvoy).windows = h.windows := rfl
@[simp] theorem hart_closeConvoy_moveTo (h : Hart) : (h.closeConvoy).moveTo = h.moveTo := rfl
@[simp] theorem hart_closeConvoy_evict (h : Hart) : (h.closeConvoy).evict = h.evict := rfl
@[simp] theorem hart_closeConvoy_urgent (h : Hart) : (h.closeConvoy).urgent = h.urgent := rfl
@[simp] theorem hart_closeConvoy_instret (h : Hart) : (h.closeConvoy).instret = h.instret := rfl
@[simp] theorem hart_closeConvoy_fflags (h : Hart) : (h.closeConvoy).fflags = h.fflags := rfl
@[simp] theorem hart_closeConvoy_frm (h : Hart) : (h.closeConvoy).frm = h.frm := rfl
@[simp] theorem hart_closeConvoy_fenable (h : Hart) : (h.closeConvoy).fenable = h.fenable := rfl
@[simp] theorem hart_closeConvoy_seed (h : Hart) : (h.closeConvoy).seed = h.seed := rfl
@[simp] theorem hart_closeConvoy_asid (h : Hart) : (h.closeConvoy).asid = h.asid := rfl
@[simp] theorem hart_closeConvoy_ptroot (h : Hart) : (h.closeConvoy).ptroot = h.ptroot := rfl
@[simp] theorem hart_closeConvoy_ccid (h : Hart) : (h.closeConvoy).ccid = h.ccid := rfl
@[simp] theorem hart_closeConvoy_diraddr (h : Hart) : (h.closeConvoy).diraddr = h.diraddr := rfl
@[simp] theorem hart_closeConvoy_pwMode (h : Hart) : (h.closeConvoy).pwMode = h.pwMode := rfl
@[simp] theorem hart_closeConvoy_pwSel (h : Hart) : (h.closeConvoy).pwSel = h.pwSel := rfl
@[simp] theorem hart_closeConvoy_seqerr (h : Hart) : (h.closeConvoy).seqerr = h.seqerr := rfl
@[simp] theorem hart_closeConvoy_compute (h : Hart) : (h.closeConvoy).compute = h.compute := rfl
@[simp] theorem hart_closeConvoy_handles (h : Hart) : (h.closeConvoy).handles = h.handles := rfl
@[simp] theorem hart_closeConvoy_gang (h : Hart) : (h.closeConvoy).gang = h.gang := rfl
@[simp] theorem hart_closeConvoy_words (h : Hart) : (h.closeConvoy).words = h.words := rfl
@[simp] theorem hart_closeConvoy_wordsHere (h : Hart) : (h.closeConvoy).wordsHere = h.wordsHere := rfl
@[simp] theorem hart_closeConvoy_open (h : Hart) : (h.closeConvoy).open' = h.open' := rfl
@[simp] theorem hart_closeConvoy_wait (h : Hart) : (h.closeConvoy).wait = h.wait := rfl
@[simp] theorem hart_closeConvoy_pend1 (h : Hart) : (h.closeConvoy).pend1 = h.pend1 := rfl
@[simp] theorem hart_closeConvoy_pend2 (h : Hart) : (h.closeConvoy).pend2 = h.pend2 := rfl
@[simp] theorem hart_closeConvoy_fpTraps (h : Hart) : (h.closeConvoy).fpTraps = h.fpTraps := rfl
@[simp] theorem hart_closeConvoy_mat (h : Hart) : (h.closeConvoy).mat = h.mat := rfl

@[simp] theorem hart_writeG_pc (h : Hart) (r : GReg) (v : Word) : (h.writeG r v).pc = h.pc := by unfold Hart.writeG; split <;> rfl
@[simp] theorem hart_writeG_ldsT (h : Hart) (r : GReg) (v : Word) : (h.writeG r v).ldsT = h.ldsT := by unfold Hart.writeG; split <;> rfl
@[simp] theorem hart_writeG_ldsS (h : Hart) (r : GReg) (v : Word) : (h.writeG r v).ldsS = h.ldsS := by unfold Hart.writeG; split <;> rfl
@[simp] theorem hart_writeG_ldsF (h : Hart) (r : GReg) (v : Word) : (h.writeG r v).ldsF = h.ldsF := by unfold Hart.writeG; split <;> rfl
@[simp] theorem hart_writeG_status (h : Hart) (r : GReg) (v : Word) : (h.writeG r v).status = h.status := by unfold Hart.writeG; split <;> rfl
@[simp] theorem hart_writeG_bankS (h : Hart) (r : GReg) (v : Word) : (h.writeG r v).bankS = h.bankS := by unfold Hart.writeG; split <;> rfl
@[simp] theorem hart_writeG_bankF (h : Hart) (r : GReg) (v : Word) : (h.writeG r v).bankF = h.bankF := by unfold Hart.writeG; split <;> rfl
@[simp] theorem hart_writeG_tvec (h : Hart) (r : GReg) (v : Word) : (h.writeG r v).tvec = h.tvec := by unfold Hart.writeG; split <;> rfl
@[simp] theorem hart_writeG_ftvec (h : Hart) (r : GReg) (v : Word) : (h.writeG r v).ftvec = h.ftvec := by unfold Hart.writeG; split <;> rfl
@[simp] theorem hart_writeG_tdeleg (h : Hart) (r : GReg) (v : Word) : (h.writeG r v).tdeleg = h.tdeleg := by unfold Hart.writeG; split <;> rfl
@[simp] theorem hart_writeG_scratch (h : Hart) (r : GReg) (v : Word) : (h.writeG r v).scratch = h.scratch := by unfold Hart.writeG; split <;> rfl
@[simp] theorem hart_writeG_fscratch (h : Hart) (r : GReg) (v : Word) : (h.writeG r v).fscratch = h.fscratch := by unfold Hart.writeG; split <;> rfl
@[simp] theorem hart_writeG_taskId (h : Hart) (r : GReg) (v : Word) : (h.writeG r v).taskId = h.taskId := by unfold Hart.writeG; split <;> rfl
@[simp] theorem hart_writeG_parent (h : Hart) (r : GReg) (v : Word) : (h.writeG r v).parent = h.parent := by unfold Hart.writeG; split <;> rfl
@[simp] theorem hart_writeG_desc (h : Hart) (r : GReg) (v : Word) : (h.writeG r v).desc = h.desc := by unfold Hart.writeG; split <;> rfl
@[simp] theorem hart_writeG_arg (h : Hart) (r : GReg) (v : Word) : (h.writeG r v).arg = h.arg := by unfold Hart.writeG; split <;> rfl
@[simp] theorem hart_writeG_prio (h : Hart) (r : GReg) (v : Word) : (h.writeG r v).prio = h.prio := by unfold Hart.writeG; split <;> rfl
@[simp] theorem hart_writeG_placedAt (h : Hart) (r : GReg) (v : Word) : (h.writeG r v).placedAt = h.placedAt := by unfold Hart.writeG; split <;> rfl
@[simp] theorem hart_writeG_mixctl (h : Hart) (r : GReg) (v : Word) : (h.writeG r v).mixctl = h.mixctl := by unfold Hart.writeG; split <;> rfl
@[simp] theorem hart_writeG_nv (h : Hart) (r : GReg) (v : Word) : (h.writeG r v).nv = h.nv := by unfold Hart.writeG; split <;> rfl
@[simp] theorem hart_writeG_nm (h : Hart) (r : GReg) (v : Word) : (h.writeG r v).nm = h.nm := by unfold Hart.writeG; split <;> rfl
@[simp] theorem hart_writeG_nf (h : Hart) (r : GReg) (v : Word) : (h.writeG r v).nf = h.nf := by unfold Hart.writeG; split <;> rfl
@[simp] theorem hart_writeG_winCount (h : Hart) (r : GReg) (v : Word) : (h.writeG r v).winCount = h.winCount := by unfold Hart.writeG; split <;> rfl
@[simp] theorem hart_writeG_windows (h : Hart) (r : GReg) (v : Word) : (h.writeG r v).windows = h.windows := by unfold Hart.writeG; split <;> rfl
@[simp] theorem hart_writeG_moveTo (h : Hart) (r : GReg) (v : Word) : (h.writeG r v).moveTo = h.moveTo := by unfold Hart.writeG; split <;> rfl
@[simp] theorem hart_writeG_evict (h : Hart) (r : GReg) (v : Word) : (h.writeG r v).evict = h.evict := by unfold Hart.writeG; split <;> rfl
@[simp] theorem hart_writeG_urgent (h : Hart) (r : GReg) (v : Word) : (h.writeG r v).urgent = h.urgent := by unfold Hart.writeG; split <;> rfl
@[simp] theorem hart_writeG_instret (h : Hart) (r : GReg) (v : Word) : (h.writeG r v).instret = h.instret := by unfold Hart.writeG; split <;> rfl
@[simp] theorem hart_writeG_fflags (h : Hart) (r : GReg) (v : Word) : (h.writeG r v).fflags = h.fflags := by unfold Hart.writeG; split <;> rfl
@[simp] theorem hart_writeG_frm (h : Hart) (r : GReg) (v : Word) : (h.writeG r v).frm = h.frm := by unfold Hart.writeG; split <;> rfl
@[simp] theorem hart_writeG_fenable (h : Hart) (r : GReg) (v : Word) : (h.writeG r v).fenable = h.fenable := by unfold Hart.writeG; split <;> rfl
@[simp] theorem hart_writeG_seed (h : Hart) (r : GReg) (v : Word) : (h.writeG r v).seed = h.seed := by unfold Hart.writeG; split <;> rfl
@[simp] theorem hart_writeG_asid (h : Hart) (r : GReg) (v : Word) : (h.writeG r v).asid = h.asid := by unfold Hart.writeG; split <;> rfl
@[simp] theorem hart_writeG_ptroot (h : Hart) (r : GReg) (v : Word) : (h.writeG r v).ptroot = h.ptroot := by unfold Hart.writeG; split <;> rfl
@[simp] theorem hart_writeG_ccid (h : Hart) (r : GReg) (v : Word) : (h.writeG r v).ccid = h.ccid := by unfold Hart.writeG; split <;> rfl
@[simp] theorem hart_writeG_diraddr (h : Hart) (r : GReg) (v : Word) : (h.writeG r v).diraddr = h.diraddr := by unfold Hart.writeG; split <;> rfl
@[simp] theorem hart_writeG_pwMode (h : Hart) (r : GReg) (v : Word) : (h.writeG r v).pwMode = h.pwMode := by unfold Hart.writeG; split <;> rfl
@[simp] theorem hart_writeG_pwSel (h : Hart) (r : GReg) (v : Word) : (h.writeG r v).pwSel = h.pwSel := by unfold Hart.writeG; split <;> rfl
@[simp] theorem hart_writeG_seqerr (h : Hart) (r : GReg) (v : Word) : (h.writeG r v).seqerr = h.seqerr := by unfold Hart.writeG; split <;> rfl
@[simp] theorem hart_writeG_compute (h : Hart) (r : GReg) (v : Word) : (h.writeG r v).compute = h.compute := by unfold Hart.writeG; split <;> rfl
@[simp] theorem hart_writeG_handles (h : Hart) (r : GReg) (v : Word) : (h.writeG r v).handles = h.handles := by unfold Hart.writeG; split <;> rfl
@[simp] theorem hart_writeG_gang (h : Hart) (r : GReg) (v : Word) : (h.writeG r v).gang = h.gang := by unfold Hart.writeG; split <;> rfl
@[simp] theorem hart_writeG_words (h : Hart) (r : GReg) (v : Word) : (h.writeG r v).words = h.words := by unfold Hart.writeG; split <;> rfl
@[simp] theorem hart_writeG_wordsHere (h : Hart) (r : GReg) (v : Word) : (h.writeG r v).wordsHere = h.wordsHere := by unfold Hart.writeG; split <;> rfl
@[simp] theorem hart_writeG_open (h : Hart) (r : GReg) (v : Word) : (h.writeG r v).open' = h.open' := by unfold Hart.writeG; split <;> rfl
@[simp] theorem hart_writeG_wait (h : Hart) (r : GReg) (v : Word) : (h.writeG r v).wait = h.wait := by unfold Hart.writeG; split <;> rfl
@[simp] theorem hart_writeG_pend1 (h : Hart) (r : GReg) (v : Word) : (h.writeG r v).pend1 = h.pend1 := by unfold Hart.writeG; split <;> rfl
@[simp] theorem hart_writeG_pend2 (h : Hart) (r : GReg) (v : Word) : (h.writeG r v).pend2 = h.pend2 := by unfold Hart.writeG; split <;> rfl
@[simp] theorem hart_writeG_fpTraps (h : Hart) (r : GReg) (v : Word) : (h.writeG r v).fpTraps = h.fpTraps := by unfold Hart.writeG; split <;> rfl
@[simp] theorem hart_writeG_vec (h : Hart) (r : GReg) (v : Word) : (h.writeG r v).vec = h.vec := by unfold Hart.writeG; split <;> rfl
@[simp] theorem hart_writeG_mat (h : Hart) (r : GReg) (v : Word) : (h.writeG r v).mat = h.mat := by unfold Hart.writeG; split <;> rfl

@[simp] theorem hart_setLds_pc (h : Hart) (r : BitVec 5) : (h.setLds r).pc = h.pc := by unfold Hart.setLds; split <;> rfl
@[simp] theorem hart_setLds_g (h : Hart) (r : BitVec 5) : (h.setLds r).g = h.g := by unfold Hart.setLds; split <;> rfl
@[simp] theorem hart_setLds_status (h : Hart) (r : BitVec 5) : (h.setLds r).status = h.status := by unfold Hart.setLds; split <;> rfl
@[simp] theorem hart_setLds_bankS (h : Hart) (r : BitVec 5) : (h.setLds r).bankS = h.bankS := by unfold Hart.setLds; split <;> rfl
@[simp] theorem hart_setLds_bankF (h : Hart) (r : BitVec 5) : (h.setLds r).bankF = h.bankF := by unfold Hart.setLds; split <;> rfl
@[simp] theorem hart_setLds_tvec (h : Hart) (r : BitVec 5) : (h.setLds r).tvec = h.tvec := by unfold Hart.setLds; split <;> rfl
@[simp] theorem hart_setLds_ftvec (h : Hart) (r : BitVec 5) : (h.setLds r).ftvec = h.ftvec := by unfold Hart.setLds; split <;> rfl
@[simp] theorem hart_setLds_tdeleg (h : Hart) (r : BitVec 5) : (h.setLds r).tdeleg = h.tdeleg := by unfold Hart.setLds; split <;> rfl
@[simp] theorem hart_setLds_scratch (h : Hart) (r : BitVec 5) : (h.setLds r).scratch = h.scratch := by unfold Hart.setLds; split <;> rfl
@[simp] theorem hart_setLds_fscratch (h : Hart) (r : BitVec 5) : (h.setLds r).fscratch = h.fscratch := by unfold Hart.setLds; split <;> rfl
@[simp] theorem hart_setLds_taskId (h : Hart) (r : BitVec 5) : (h.setLds r).taskId = h.taskId := by unfold Hart.setLds; split <;> rfl
@[simp] theorem hart_setLds_parent (h : Hart) (r : BitVec 5) : (h.setLds r).parent = h.parent := by unfold Hart.setLds; split <;> rfl
@[simp] theorem hart_setLds_desc (h : Hart) (r : BitVec 5) : (h.setLds r).desc = h.desc := by unfold Hart.setLds; split <;> rfl
@[simp] theorem hart_setLds_arg (h : Hart) (r : BitVec 5) : (h.setLds r).arg = h.arg := by unfold Hart.setLds; split <;> rfl
@[simp] theorem hart_setLds_prio (h : Hart) (r : BitVec 5) : (h.setLds r).prio = h.prio := by unfold Hart.setLds; split <;> rfl
@[simp] theorem hart_setLds_placedAt (h : Hart) (r : BitVec 5) : (h.setLds r).placedAt = h.placedAt := by unfold Hart.setLds; split <;> rfl
@[simp] theorem hart_setLds_mixctl (h : Hart) (r : BitVec 5) : (h.setLds r).mixctl = h.mixctl := by unfold Hart.setLds; split <;> rfl
@[simp] theorem hart_setLds_nv (h : Hart) (r : BitVec 5) : (h.setLds r).nv = h.nv := by unfold Hart.setLds; split <;> rfl
@[simp] theorem hart_setLds_nm (h : Hart) (r : BitVec 5) : (h.setLds r).nm = h.nm := by unfold Hart.setLds; split <;> rfl
@[simp] theorem hart_setLds_nf (h : Hart) (r : BitVec 5) : (h.setLds r).nf = h.nf := by unfold Hart.setLds; split <;> rfl
@[simp] theorem hart_setLds_winCount (h : Hart) (r : BitVec 5) : (h.setLds r).winCount = h.winCount := by unfold Hart.setLds; split <;> rfl
@[simp] theorem hart_setLds_windows (h : Hart) (r : BitVec 5) : (h.setLds r).windows = h.windows := by unfold Hart.setLds; split <;> rfl
@[simp] theorem hart_setLds_moveTo (h : Hart) (r : BitVec 5) : (h.setLds r).moveTo = h.moveTo := by unfold Hart.setLds; split <;> rfl
@[simp] theorem hart_setLds_evict (h : Hart) (r : BitVec 5) : (h.setLds r).evict = h.evict := by unfold Hart.setLds; split <;> rfl
@[simp] theorem hart_setLds_urgent (h : Hart) (r : BitVec 5) : (h.setLds r).urgent = h.urgent := by unfold Hart.setLds; split <;> rfl
@[simp] theorem hart_setLds_instret (h : Hart) (r : BitVec 5) : (h.setLds r).instret = h.instret := by unfold Hart.setLds; split <;> rfl
@[simp] theorem hart_setLds_fflags (h : Hart) (r : BitVec 5) : (h.setLds r).fflags = h.fflags := by unfold Hart.setLds; split <;> rfl
@[simp] theorem hart_setLds_frm (h : Hart) (r : BitVec 5) : (h.setLds r).frm = h.frm := by unfold Hart.setLds; split <;> rfl
@[simp] theorem hart_setLds_fenable (h : Hart) (r : BitVec 5) : (h.setLds r).fenable = h.fenable := by unfold Hart.setLds; split <;> rfl
@[simp] theorem hart_setLds_seed (h : Hart) (r : BitVec 5) : (h.setLds r).seed = h.seed := by unfold Hart.setLds; split <;> rfl
@[simp] theorem hart_setLds_asid (h : Hart) (r : BitVec 5) : (h.setLds r).asid = h.asid := by unfold Hart.setLds; split <;> rfl
@[simp] theorem hart_setLds_ptroot (h : Hart) (r : BitVec 5) : (h.setLds r).ptroot = h.ptroot := by unfold Hart.setLds; split <;> rfl
@[simp] theorem hart_setLds_ccid (h : Hart) (r : BitVec 5) : (h.setLds r).ccid = h.ccid := by unfold Hart.setLds; split <;> rfl
@[simp] theorem hart_setLds_diraddr (h : Hart) (r : BitVec 5) : (h.setLds r).diraddr = h.diraddr := by unfold Hart.setLds; split <;> rfl
@[simp] theorem hart_setLds_pwMode (h : Hart) (r : BitVec 5) : (h.setLds r).pwMode = h.pwMode := by unfold Hart.setLds; split <;> rfl
@[simp] theorem hart_setLds_pwSel (h : Hart) (r : BitVec 5) : (h.setLds r).pwSel = h.pwSel := by unfold Hart.setLds; split <;> rfl
@[simp] theorem hart_setLds_seqerr (h : Hart) (r : BitVec 5) : (h.setLds r).seqerr = h.seqerr := by unfold Hart.setLds; split <;> rfl
@[simp] theorem hart_setLds_compute (h : Hart) (r : BitVec 5) : (h.setLds r).compute = h.compute := by unfold Hart.setLds; split <;> rfl
@[simp] theorem hart_setLds_handles (h : Hart) (r : BitVec 5) : (h.setLds r).handles = h.handles := by unfold Hart.setLds; split <;> rfl
@[simp] theorem hart_setLds_gang (h : Hart) (r : BitVec 5) : (h.setLds r).gang = h.gang := by unfold Hart.setLds; split <;> rfl
@[simp] theorem hart_setLds_words (h : Hart) (r : BitVec 5) : (h.setLds r).words = h.words := by unfold Hart.setLds; split <;> rfl
@[simp] theorem hart_setLds_wordsHere (h : Hart) (r : BitVec 5) : (h.setLds r).wordsHere = h.wordsHere := by unfold Hart.setLds; split <;> rfl
@[simp] theorem hart_setLds_open (h : Hart) (r : BitVec 5) : (h.setLds r).open' = h.open' := by unfold Hart.setLds; split <;> rfl
@[simp] theorem hart_setLds_wait (h : Hart) (r : BitVec 5) : (h.setLds r).wait = h.wait := by unfold Hart.setLds; split <;> rfl
@[simp] theorem hart_setLds_pend1 (h : Hart) (r : BitVec 5) : (h.setLds r).pend1 = h.pend1 := by unfold Hart.setLds; split <;> rfl
@[simp] theorem hart_setLds_pend2 (h : Hart) (r : BitVec 5) : (h.setLds r).pend2 = h.pend2 := by unfold Hart.setLds; split <;> rfl
@[simp] theorem hart_setLds_fpTraps (h : Hart) (r : BitVec 5) : (h.setLds r).fpTraps = h.fpTraps := by unfold Hart.setLds; split <;> rfl
@[simp] theorem hart_setLds_vec (h : Hart) (r : BitVec 5) : (h.setLds r).vec = h.vec := by unfold Hart.setLds; split <;> rfl
@[simp] theorem hart_setLds_mat (h : Hart) (r : BitVec 5) : (h.setLds r).mat = h.mat := by unfold Hart.setLds; split <;> rfl

@[simp] theorem hart_noteDest_pc (h : Hart) (r : GReg) : (h.noteDest r).pc = h.pc := by unfold Hart.noteDest; split <;> simp
@[simp] theorem hart_noteDest_g (h : Hart) (r : GReg) : (h.noteDest r).g = h.g := by unfold Hart.noteDest; split <;> simp
@[simp] theorem hart_noteDest_status (h : Hart) (r : GReg) : (h.noteDest r).status = h.status := by unfold Hart.noteDest; split <;> simp
@[simp] theorem hart_noteDest_bankS (h : Hart) (r : GReg) : (h.noteDest r).bankS = h.bankS := by unfold Hart.noteDest; split <;> simp
@[simp] theorem hart_noteDest_bankF (h : Hart) (r : GReg) : (h.noteDest r).bankF = h.bankF := by unfold Hart.noteDest; split <;> simp
@[simp] theorem hart_noteDest_tvec (h : Hart) (r : GReg) : (h.noteDest r).tvec = h.tvec := by unfold Hart.noteDest; split <;> simp
@[simp] theorem hart_noteDest_ftvec (h : Hart) (r : GReg) : (h.noteDest r).ftvec = h.ftvec := by unfold Hart.noteDest; split <;> simp
@[simp] theorem hart_noteDest_tdeleg (h : Hart) (r : GReg) : (h.noteDest r).tdeleg = h.tdeleg := by unfold Hart.noteDest; split <;> simp
@[simp] theorem hart_noteDest_scratch (h : Hart) (r : GReg) : (h.noteDest r).scratch = h.scratch := by unfold Hart.noteDest; split <;> simp
@[simp] theorem hart_noteDest_fscratch (h : Hart) (r : GReg) : (h.noteDest r).fscratch = h.fscratch := by unfold Hart.noteDest; split <;> simp
@[simp] theorem hart_noteDest_taskId (h : Hart) (r : GReg) : (h.noteDest r).taskId = h.taskId := by unfold Hart.noteDest; split <;> simp
@[simp] theorem hart_noteDest_parent (h : Hart) (r : GReg) : (h.noteDest r).parent = h.parent := by unfold Hart.noteDest; split <;> simp
@[simp] theorem hart_noteDest_desc (h : Hart) (r : GReg) : (h.noteDest r).desc = h.desc := by unfold Hart.noteDest; split <;> simp
@[simp] theorem hart_noteDest_arg (h : Hart) (r : GReg) : (h.noteDest r).arg = h.arg := by unfold Hart.noteDest; split <;> simp
@[simp] theorem hart_noteDest_prio (h : Hart) (r : GReg) : (h.noteDest r).prio = h.prio := by unfold Hart.noteDest; split <;> simp
@[simp] theorem hart_noteDest_placedAt (h : Hart) (r : GReg) : (h.noteDest r).placedAt = h.placedAt := by unfold Hart.noteDest; split <;> simp
@[simp] theorem hart_noteDest_mixctl (h : Hart) (r : GReg) : (h.noteDest r).mixctl = h.mixctl := by unfold Hart.noteDest; split <;> simp
@[simp] theorem hart_noteDest_nv (h : Hart) (r : GReg) : (h.noteDest r).nv = h.nv := by unfold Hart.noteDest; split <;> simp
@[simp] theorem hart_noteDest_nm (h : Hart) (r : GReg) : (h.noteDest r).nm = h.nm := by unfold Hart.noteDest; split <;> simp
@[simp] theorem hart_noteDest_nf (h : Hart) (r : GReg) : (h.noteDest r).nf = h.nf := by unfold Hart.noteDest; split <;> simp
@[simp] theorem hart_noteDest_winCount (h : Hart) (r : GReg) : (h.noteDest r).winCount = h.winCount := by unfold Hart.noteDest; split <;> simp
@[simp] theorem hart_noteDest_windows (h : Hart) (r : GReg) : (h.noteDest r).windows = h.windows := by unfold Hart.noteDest; split <;> simp
@[simp] theorem hart_noteDest_moveTo (h : Hart) (r : GReg) : (h.noteDest r).moveTo = h.moveTo := by unfold Hart.noteDest; split <;> simp
@[simp] theorem hart_noteDest_evict (h : Hart) (r : GReg) : (h.noteDest r).evict = h.evict := by unfold Hart.noteDest; split <;> simp
@[simp] theorem hart_noteDest_urgent (h : Hart) (r : GReg) : (h.noteDest r).urgent = h.urgent := by unfold Hart.noteDest; split <;> simp
@[simp] theorem hart_noteDest_instret (h : Hart) (r : GReg) : (h.noteDest r).instret = h.instret := by unfold Hart.noteDest; split <;> simp
@[simp] theorem hart_noteDest_fflags (h : Hart) (r : GReg) : (h.noteDest r).fflags = h.fflags := by unfold Hart.noteDest; split <;> simp
@[simp] theorem hart_noteDest_frm (h : Hart) (r : GReg) : (h.noteDest r).frm = h.frm := by unfold Hart.noteDest; split <;> simp
@[simp] theorem hart_noteDest_fenable (h : Hart) (r : GReg) : (h.noteDest r).fenable = h.fenable := by unfold Hart.noteDest; split <;> simp
@[simp] theorem hart_noteDest_seed (h : Hart) (r : GReg) : (h.noteDest r).seed = h.seed := by unfold Hart.noteDest; split <;> simp
@[simp] theorem hart_noteDest_asid (h : Hart) (r : GReg) : (h.noteDest r).asid = h.asid := by unfold Hart.noteDest; split <;> simp
@[simp] theorem hart_noteDest_ptroot (h : Hart) (r : GReg) : (h.noteDest r).ptroot = h.ptroot := by unfold Hart.noteDest; split <;> simp
@[simp] theorem hart_noteDest_ccid (h : Hart) (r : GReg) : (h.noteDest r).ccid = h.ccid := by unfold Hart.noteDest; split <;> simp
@[simp] theorem hart_noteDest_diraddr (h : Hart) (r : GReg) : (h.noteDest r).diraddr = h.diraddr := by unfold Hart.noteDest; split <;> simp
@[simp] theorem hart_noteDest_pwMode (h : Hart) (r : GReg) : (h.noteDest r).pwMode = h.pwMode := by unfold Hart.noteDest; split <;> simp
@[simp] theorem hart_noteDest_pwSel (h : Hart) (r : GReg) : (h.noteDest r).pwSel = h.pwSel := by unfold Hart.noteDest; split <;> simp
@[simp] theorem hart_noteDest_seqerr (h : Hart) (r : GReg) : (h.noteDest r).seqerr = h.seqerr := by unfold Hart.noteDest; split <;> simp
@[simp] theorem hart_noteDest_compute (h : Hart) (r : GReg) : (h.noteDest r).compute = h.compute := by unfold Hart.noteDest; split <;> simp
@[simp] theorem hart_noteDest_handles (h : Hart) (r : GReg) : (h.noteDest r).handles = h.handles := by unfold Hart.noteDest; split <;> simp
@[simp] theorem hart_noteDest_gang (h : Hart) (r : GReg) : (h.noteDest r).gang = h.gang := by unfold Hart.noteDest; split <;> simp
@[simp] theorem hart_noteDest_words (h : Hart) (r : GReg) : (h.noteDest r).words = h.words := by unfold Hart.noteDest; split <;> simp
@[simp] theorem hart_noteDest_wordsHere (h : Hart) (r : GReg) : (h.noteDest r).wordsHere = h.wordsHere := by unfold Hart.noteDest; split <;> simp
@[simp] theorem hart_noteDest_open (h : Hart) (r : GReg) : (h.noteDest r).open' = h.open' := by unfold Hart.noteDest; split <;> simp
@[simp] theorem hart_noteDest_wait (h : Hart) (r : GReg) : (h.noteDest r).wait = h.wait := by unfold Hart.noteDest; split <;> simp
@[simp] theorem hart_noteDest_pend1 (h : Hart) (r : GReg) : (h.noteDest r).pend1 = h.pend1 := by unfold Hart.noteDest; split <;> simp
@[simp] theorem hart_noteDest_pend2 (h : Hart) (r : GReg) : (h.noteDest r).pend2 = h.pend2 := by unfold Hart.noteDest; split <;> simp
@[simp] theorem hart_noteDest_fpTraps (h : Hart) (r : GReg) : (h.noteDest r).fpTraps = h.fpTraps := by unfold Hart.noteDest; split <;> simp
@[simp] theorem hart_noteDest_vec (h : Hart) (r : GReg) : (h.noteDest r).vec = h.vec := by unfold Hart.noteDest; split <;> simp
@[simp] theorem hart_noteDest_mat (h : Hart) (r : GReg) : (h.noteDest r).mat = h.mat := by unfold Hart.noteDest; split <;> simp

@[simp] theorem hart_count_pc (h : Hart) (k : Mix) : (h.count k).pc = h.pc := by unfold Hart.count; dsimp only; split <;> rfl
@[simp] theorem hart_count_g (h : Hart) (k : Mix) : (h.count k).g = h.g := by unfold Hart.count; dsimp only; split <;> rfl
@[simp] theorem hart_count_ldsT (h : Hart) (k : Mix) : (h.count k).ldsT = h.ldsT := by unfold Hart.count; dsimp only; split <;> rfl
@[simp] theorem hart_count_ldsS (h : Hart) (k : Mix) : (h.count k).ldsS = h.ldsS := by unfold Hart.count; dsimp only; split <;> rfl
@[simp] theorem hart_count_ldsF (h : Hart) (k : Mix) : (h.count k).ldsF = h.ldsF := by unfold Hart.count; dsimp only; split <;> rfl
@[simp] theorem hart_count_status (h : Hart) (k : Mix) : (h.count k).status = h.status := by unfold Hart.count; dsimp only; split <;> rfl
@[simp] theorem hart_count_bankS (h : Hart) (k : Mix) : (h.count k).bankS = h.bankS := by unfold Hart.count; dsimp only; split <;> rfl
@[simp] theorem hart_count_bankF (h : Hart) (k : Mix) : (h.count k).bankF = h.bankF := by unfold Hart.count; dsimp only; split <;> rfl
@[simp] theorem hart_count_tvec (h : Hart) (k : Mix) : (h.count k).tvec = h.tvec := by unfold Hart.count; dsimp only; split <;> rfl
@[simp] theorem hart_count_ftvec (h : Hart) (k : Mix) : (h.count k).ftvec = h.ftvec := by unfold Hart.count; dsimp only; split <;> rfl
@[simp] theorem hart_count_tdeleg (h : Hart) (k : Mix) : (h.count k).tdeleg = h.tdeleg := by unfold Hart.count; dsimp only; split <;> rfl
@[simp] theorem hart_count_scratch (h : Hart) (k : Mix) : (h.count k).scratch = h.scratch := by unfold Hart.count; dsimp only; split <;> rfl
@[simp] theorem hart_count_fscratch (h : Hart) (k : Mix) : (h.count k).fscratch = h.fscratch := by unfold Hart.count; dsimp only; split <;> rfl
@[simp] theorem hart_count_taskId (h : Hart) (k : Mix) : (h.count k).taskId = h.taskId := by unfold Hart.count; dsimp only; split <;> rfl
@[simp] theorem hart_count_parent (h : Hart) (k : Mix) : (h.count k).parent = h.parent := by unfold Hart.count; dsimp only; split <;> rfl
@[simp] theorem hart_count_desc (h : Hart) (k : Mix) : (h.count k).desc = h.desc := by unfold Hart.count; dsimp only; split <;> rfl
@[simp] theorem hart_count_arg (h : Hart) (k : Mix) : (h.count k).arg = h.arg := by unfold Hart.count; dsimp only; split <;> rfl
@[simp] theorem hart_count_prio (h : Hart) (k : Mix) : (h.count k).prio = h.prio := by unfold Hart.count; dsimp only; split <;> rfl
@[simp] theorem hart_count_placedAt (h : Hart) (k : Mix) : (h.count k).placedAt = h.placedAt := by unfold Hart.count; dsimp only; split <;> rfl
@[simp] theorem hart_count_mixctl (h : Hart) (k : Mix) : (h.count k).mixctl = h.mixctl := by unfold Hart.count; dsimp only; split <;> rfl
@[simp] theorem hart_count_windows (h : Hart) (k : Mix) : (h.count k).windows = h.windows := by unfold Hart.count; dsimp only; split <;> rfl
@[simp] theorem hart_count_moveTo (h : Hart) (k : Mix) : (h.count k).moveTo = h.moveTo := by unfold Hart.count; dsimp only; split <;> rfl
@[simp] theorem hart_count_evict (h : Hart) (k : Mix) : (h.count k).evict = h.evict := by unfold Hart.count; dsimp only; split <;> rfl
@[simp] theorem hart_count_urgent (h : Hart) (k : Mix) : (h.count k).urgent = h.urgent := by unfold Hart.count; dsimp only; split <;> rfl
@[simp] theorem hart_count_fflags (h : Hart) (k : Mix) : (h.count k).fflags = h.fflags := by unfold Hart.count; dsimp only; split <;> rfl
@[simp] theorem hart_count_frm (h : Hart) (k : Mix) : (h.count k).frm = h.frm := by unfold Hart.count; dsimp only; split <;> rfl
@[simp] theorem hart_count_fenable (h : Hart) (k : Mix) : (h.count k).fenable = h.fenable := by unfold Hart.count; dsimp only; split <;> rfl
@[simp] theorem hart_count_seed (h : Hart) (k : Mix) : (h.count k).seed = h.seed := by unfold Hart.count; dsimp only; split <;> rfl
@[simp] theorem hart_count_asid (h : Hart) (k : Mix) : (h.count k).asid = h.asid := by unfold Hart.count; dsimp only; split <;> rfl
@[simp] theorem hart_count_ptroot (h : Hart) (k : Mix) : (h.count k).ptroot = h.ptroot := by unfold Hart.count; dsimp only; split <;> rfl
@[simp] theorem hart_count_ccid (h : Hart) (k : Mix) : (h.count k).ccid = h.ccid := by unfold Hart.count; dsimp only; split <;> rfl
@[simp] theorem hart_count_diraddr (h : Hart) (k : Mix) : (h.count k).diraddr = h.diraddr := by unfold Hart.count; dsimp only; split <;> rfl
@[simp] theorem hart_count_pwMode (h : Hart) (k : Mix) : (h.count k).pwMode = h.pwMode := by unfold Hart.count; dsimp only; split <;> rfl
@[simp] theorem hart_count_pwSel (h : Hart) (k : Mix) : (h.count k).pwSel = h.pwSel := by unfold Hart.count; dsimp only; split <;> rfl
@[simp] theorem hart_count_seqerr (h : Hart) (k : Mix) : (h.count k).seqerr = h.seqerr := by unfold Hart.count; dsimp only; split <;> rfl
@[simp] theorem hart_count_compute (h : Hart) (k : Mix) : (h.count k).compute = h.compute := by unfold Hart.count; dsimp only; split <;> rfl
@[simp] theorem hart_count_handles (h : Hart) (k : Mix) : (h.count k).handles = h.handles := by unfold Hart.count; dsimp only; split <;> rfl
@[simp] theorem hart_count_gang (h : Hart) (k : Mix) : (h.count k).gang = h.gang := by unfold Hart.count; dsimp only; split <;> rfl
@[simp] theorem hart_count_words (h : Hart) (k : Mix) : (h.count k).words = h.words := by unfold Hart.count; dsimp only; split <;> rfl
@[simp] theorem hart_count_wordsHere (h : Hart) (k : Mix) : (h.count k).wordsHere = h.wordsHere := by unfold Hart.count; dsimp only; split <;> rfl
@[simp] theorem hart_count_open (h : Hart) (k : Mix) : (h.count k).open' = h.open' := by unfold Hart.count; dsimp only; split <;> rfl
@[simp] theorem hart_count_wait (h : Hart) (k : Mix) : (h.count k).wait = h.wait := by unfold Hart.count; dsimp only; split <;> rfl
@[simp] theorem hart_count_pend1 (h : Hart) (k : Mix) : (h.count k).pend1 = h.pend1 := by unfold Hart.count; dsimp only; split <;> rfl
@[simp] theorem hart_count_pend2 (h : Hart) (k : Mix) : (h.count k).pend2 = h.pend2 := by unfold Hart.count; dsimp only; split <;> rfl
@[simp] theorem hart_count_fpTraps (h : Hart) (k : Mix) : (h.count k).fpTraps = h.fpTraps := by unfold Hart.count; dsimp only; split <;> rfl
@[simp] theorem hart_count_vec (h : Hart) (k : Mix) : (h.count k).vec = h.vec := by unfold Hart.count; dsimp only; split <;> rfl
@[simp] theorem hart_count_mat (h : Hart) (k : Mix) : (h.count k).mat = h.mat := by unfold Hart.count; dsimp only; split <;> rfl

@[simp] theorem hart_pop_pc (h : Hart) (n : Nat) : (h.pop n).pc = h.pc := by unfold Hart.pop; split <;> rfl
@[simp] theorem hart_pop_g (h : Hart) (n : Nat) : (h.pop n).g = h.g := by unfold Hart.pop; split <;> rfl
@[simp] theorem hart_pop_ldsT (h : Hart) (n : Nat) : (h.pop n).ldsT = h.ldsT := by unfold Hart.pop; split <;> rfl
@[simp] theorem hart_pop_ldsS (h : Hart) (n : Nat) : (h.pop n).ldsS = h.ldsS := by unfold Hart.pop; split <;> rfl
@[simp] theorem hart_pop_ldsF (h : Hart) (n : Nat) : (h.pop n).ldsF = h.ldsF := by unfold Hart.pop; split <;> rfl
@[simp] theorem hart_pop_status (h : Hart) (n : Nat) : (h.pop n).status = h.status := by unfold Hart.pop; split <;> rfl
@[simp] theorem hart_pop_bankS (h : Hart) (n : Nat) : (h.pop n).bankS = h.bankS := by unfold Hart.pop; split <;> rfl
@[simp] theorem hart_pop_bankF (h : Hart) (n : Nat) : (h.pop n).bankF = h.bankF := by unfold Hart.pop; split <;> rfl
@[simp] theorem hart_pop_tvec (h : Hart) (n : Nat) : (h.pop n).tvec = h.tvec := by unfold Hart.pop; split <;> rfl
@[simp] theorem hart_pop_ftvec (h : Hart) (n : Nat) : (h.pop n).ftvec = h.ftvec := by unfold Hart.pop; split <;> rfl
@[simp] theorem hart_pop_tdeleg (h : Hart) (n : Nat) : (h.pop n).tdeleg = h.tdeleg := by unfold Hart.pop; split <;> rfl
@[simp] theorem hart_pop_scratch (h : Hart) (n : Nat) : (h.pop n).scratch = h.scratch := by unfold Hart.pop; split <;> rfl
@[simp] theorem hart_pop_fscratch (h : Hart) (n : Nat) : (h.pop n).fscratch = h.fscratch := by unfold Hart.pop; split <;> rfl
@[simp] theorem hart_pop_taskId (h : Hart) (n : Nat) : (h.pop n).taskId = h.taskId := by unfold Hart.pop; split <;> rfl
@[simp] theorem hart_pop_parent (h : Hart) (n : Nat) : (h.pop n).parent = h.parent := by unfold Hart.pop; split <;> rfl
@[simp] theorem hart_pop_desc (h : Hart) (n : Nat) : (h.pop n).desc = h.desc := by unfold Hart.pop; split <;> rfl
@[simp] theorem hart_pop_arg (h : Hart) (n : Nat) : (h.pop n).arg = h.arg := by unfold Hart.pop; split <;> rfl
@[simp] theorem hart_pop_prio (h : Hart) (n : Nat) : (h.pop n).prio = h.prio := by unfold Hart.pop; split <;> rfl
@[simp] theorem hart_pop_placedAt (h : Hart) (n : Nat) : (h.pop n).placedAt = h.placedAt := by unfold Hart.pop; split <;> rfl
@[simp] theorem hart_pop_mixctl (h : Hart) (n : Nat) : (h.pop n).mixctl = h.mixctl := by unfold Hart.pop; split <;> rfl
@[simp] theorem hart_pop_nv (h : Hart) (n : Nat) : (h.pop n).nv = h.nv := by unfold Hart.pop; split <;> rfl
@[simp] theorem hart_pop_nm (h : Hart) (n : Nat) : (h.pop n).nm = h.nm := by unfold Hart.pop; split <;> rfl
@[simp] theorem hart_pop_nf (h : Hart) (n : Nat) : (h.pop n).nf = h.nf := by unfold Hart.pop; split <;> rfl
@[simp] theorem hart_pop_winCount (h : Hart) (n : Nat) : (h.pop n).winCount = h.winCount := by unfold Hart.pop; split <;> rfl
@[simp] theorem hart_pop_windows (h : Hart) (n : Nat) : (h.pop n).windows = h.windows := by unfold Hart.pop; split <;> rfl
@[simp] theorem hart_pop_moveTo (h : Hart) (n : Nat) : (h.pop n).moveTo = h.moveTo := by unfold Hart.pop; split <;> rfl
@[simp] theorem hart_pop_evict (h : Hart) (n : Nat) : (h.pop n).evict = h.evict := by unfold Hart.pop; split <;> rfl
@[simp] theorem hart_pop_urgent (h : Hart) (n : Nat) : (h.pop n).urgent = h.urgent := by unfold Hart.pop; split <;> rfl
@[simp] theorem hart_pop_instret (h : Hart) (n : Nat) : (h.pop n).instret = h.instret := by unfold Hart.pop; split <;> rfl
@[simp] theorem hart_pop_fflags (h : Hart) (n : Nat) : (h.pop n).fflags = h.fflags := by unfold Hart.pop; split <;> rfl
@[simp] theorem hart_pop_frm (h : Hart) (n : Nat) : (h.pop n).frm = h.frm := by unfold Hart.pop; split <;> rfl
@[simp] theorem hart_pop_fenable (h : Hart) (n : Nat) : (h.pop n).fenable = h.fenable := by unfold Hart.pop; split <;> rfl
@[simp] theorem hart_pop_seed (h : Hart) (n : Nat) : (h.pop n).seed = h.seed := by unfold Hart.pop; split <;> rfl
@[simp] theorem hart_pop_asid (h : Hart) (n : Nat) : (h.pop n).asid = h.asid := by unfold Hart.pop; split <;> rfl
@[simp] theorem hart_pop_ptroot (h : Hart) (n : Nat) : (h.pop n).ptroot = h.ptroot := by unfold Hart.pop; split <;> rfl
@[simp] theorem hart_pop_ccid (h : Hart) (n : Nat) : (h.pop n).ccid = h.ccid := by unfold Hart.pop; split <;> rfl
@[simp] theorem hart_pop_diraddr (h : Hart) (n : Nat) : (h.pop n).diraddr = h.diraddr := by unfold Hart.pop; split <;> rfl
@[simp] theorem hart_pop_pwMode (h : Hart) (n : Nat) : (h.pop n).pwMode = h.pwMode := by unfold Hart.pop; split <;> rfl
@[simp] theorem hart_pop_pwSel (h : Hart) (n : Nat) : (h.pop n).pwSel = h.pwSel := by unfold Hart.pop; split <;> rfl
@[simp] theorem hart_pop_seqerr (h : Hart) (n : Nat) : (h.pop n).seqerr = h.seqerr := by unfold Hart.pop; split <;> rfl
@[simp] theorem hart_pop_compute (h : Hart) (n : Nat) : (h.pop n).compute = h.compute := by unfold Hart.pop; split <;> rfl
@[simp] theorem hart_pop_handles (h : Hart) (n : Nat) : (h.pop n).handles = h.handles := by unfold Hart.pop; split <;> rfl
@[simp] theorem hart_pop_gang (h : Hart) (n : Nat) : (h.pop n).gang = h.gang := by unfold Hart.pop; split <;> rfl
@[simp] theorem hart_pop_open (h : Hart) (n : Nat) : (h.pop n).open' = h.open' := by unfold Hart.pop; split <;> rfl
@[simp] theorem hart_pop_wait (h : Hart) (n : Nat) : (h.pop n).wait = h.wait := by unfold Hart.pop; split <;> rfl
@[simp] theorem hart_pop_pend1 (h : Hart) (n : Nat) : (h.pop n).pend1 = h.pend1 := by unfold Hart.pop; split <;> rfl
@[simp] theorem hart_pop_pend2 (h : Hart) (n : Nat) : (h.pop n).pend2 = h.pend2 := by unfold Hart.pop; split <;> rfl
@[simp] theorem hart_pop_fpTraps (h : Hart) (n : Nat) : (h.pop n).fpTraps = h.fpTraps := by unfold Hart.pop; split <;> rfl
@[simp] theorem hart_pop_vec (h : Hart) (n : Nat) : (h.pop n).vec = h.vec := by unfold Hart.pop; split <;> rfl
@[simp] theorem hart_pop_mat (h : Hart) (n : Nat) : (h.pop n).mat = h.mat := by unfold Hart.pop; split <;> rfl

@[simp] theorem hart_raise_pc (h : Hart) (f : FFlags) : (h.raise f).pc = h.pc := rfl
@[simp] theorem hart_raise_g (h : Hart) (f : FFlags) : (h.raise f).g = h.g := rfl
@[simp] theorem hart_raise_ldsT (h : Hart) (f : FFlags) : (h.raise f).ldsT = h.ldsT := rfl
@[simp] theorem hart_raise_ldsS (h : Hart) (f : FFlags) : (h.raise f).ldsS = h.ldsS := rfl
@[simp] theorem hart_raise_ldsF (h : Hart) (f : FFlags) : (h.raise f).ldsF = h.ldsF := rfl
@[simp] theorem hart_raise_status (h : Hart) (f : FFlags) : (h.raise f).status = h.status := rfl
@[simp] theorem hart_raise_bankS (h : Hart) (f : FFlags) : (h.raise f).bankS = h.bankS := rfl
@[simp] theorem hart_raise_bankF (h : Hart) (f : FFlags) : (h.raise f).bankF = h.bankF := rfl
@[simp] theorem hart_raise_tvec (h : Hart) (f : FFlags) : (h.raise f).tvec = h.tvec := rfl
@[simp] theorem hart_raise_ftvec (h : Hart) (f : FFlags) : (h.raise f).ftvec = h.ftvec := rfl
@[simp] theorem hart_raise_tdeleg (h : Hart) (f : FFlags) : (h.raise f).tdeleg = h.tdeleg := rfl
@[simp] theorem hart_raise_scratch (h : Hart) (f : FFlags) : (h.raise f).scratch = h.scratch := rfl
@[simp] theorem hart_raise_fscratch (h : Hart) (f : FFlags) : (h.raise f).fscratch = h.fscratch := rfl
@[simp] theorem hart_raise_taskId (h : Hart) (f : FFlags) : (h.raise f).taskId = h.taskId := rfl
@[simp] theorem hart_raise_parent (h : Hart) (f : FFlags) : (h.raise f).parent = h.parent := rfl
@[simp] theorem hart_raise_desc (h : Hart) (f : FFlags) : (h.raise f).desc = h.desc := rfl
@[simp] theorem hart_raise_arg (h : Hart) (f : FFlags) : (h.raise f).arg = h.arg := rfl
@[simp] theorem hart_raise_prio (h : Hart) (f : FFlags) : (h.raise f).prio = h.prio := rfl
@[simp] theorem hart_raise_placedAt (h : Hart) (f : FFlags) : (h.raise f).placedAt = h.placedAt := rfl
@[simp] theorem hart_raise_mixctl (h : Hart) (f : FFlags) : (h.raise f).mixctl = h.mixctl := rfl
@[simp] theorem hart_raise_nv (h : Hart) (f : FFlags) : (h.raise f).nv = h.nv := rfl
@[simp] theorem hart_raise_nm (h : Hart) (f : FFlags) : (h.raise f).nm = h.nm := rfl
@[simp] theorem hart_raise_nf (h : Hart) (f : FFlags) : (h.raise f).nf = h.nf := rfl
@[simp] theorem hart_raise_winCount (h : Hart) (f : FFlags) : (h.raise f).winCount = h.winCount := rfl
@[simp] theorem hart_raise_windows (h : Hart) (f : FFlags) : (h.raise f).windows = h.windows := rfl
@[simp] theorem hart_raise_moveTo (h : Hart) (f : FFlags) : (h.raise f).moveTo = h.moveTo := rfl
@[simp] theorem hart_raise_evict (h : Hart) (f : FFlags) : (h.raise f).evict = h.evict := rfl
@[simp] theorem hart_raise_urgent (h : Hart) (f : FFlags) : (h.raise f).urgent = h.urgent := rfl
@[simp] theorem hart_raise_instret (h : Hart) (f : FFlags) : (h.raise f).instret = h.instret := rfl
@[simp] theorem hart_raise_frm (h : Hart) (f : FFlags) : (h.raise f).frm = h.frm := rfl
@[simp] theorem hart_raise_fenable (h : Hart) (f : FFlags) : (h.raise f).fenable = h.fenable := rfl
@[simp] theorem hart_raise_seed (h : Hart) (f : FFlags) : (h.raise f).seed = h.seed := rfl
@[simp] theorem hart_raise_asid (h : Hart) (f : FFlags) : (h.raise f).asid = h.asid := rfl
@[simp] theorem hart_raise_ptroot (h : Hart) (f : FFlags) : (h.raise f).ptroot = h.ptroot := rfl
@[simp] theorem hart_raise_ccid (h : Hart) (f : FFlags) : (h.raise f).ccid = h.ccid := rfl
@[simp] theorem hart_raise_diraddr (h : Hart) (f : FFlags) : (h.raise f).diraddr = h.diraddr := rfl
@[simp] theorem hart_raise_pwMode (h : Hart) (f : FFlags) : (h.raise f).pwMode = h.pwMode := rfl
@[simp] theorem hart_raise_pwSel (h : Hart) (f : FFlags) : (h.raise f).pwSel = h.pwSel := rfl
@[simp] theorem hart_raise_seqerr (h : Hart) (f : FFlags) : (h.raise f).seqerr = h.seqerr := rfl
@[simp] theorem hart_raise_compute (h : Hart) (f : FFlags) : (h.raise f).compute = h.compute := rfl
@[simp] theorem hart_raise_handles (h : Hart) (f : FFlags) : (h.raise f).handles = h.handles := rfl
@[simp] theorem hart_raise_gang (h : Hart) (f : FFlags) : (h.raise f).gang = h.gang := rfl
@[simp] theorem hart_raise_words (h : Hart) (f : FFlags) : (h.raise f).words = h.words := rfl
@[simp] theorem hart_raise_wordsHere (h : Hart) (f : FFlags) : (h.raise f).wordsHere = h.wordsHere := rfl
@[simp] theorem hart_raise_open (h : Hart) (f : FFlags) : (h.raise f).open' = h.open' := rfl
@[simp] theorem hart_raise_wait (h : Hart) (f : FFlags) : (h.raise f).wait = h.wait := rfl
@[simp] theorem hart_raise_pend1 (h : Hart) (f : FFlags) : (h.raise f).pend1 = h.pend1 := rfl
@[simp] theorem hart_raise_pend2 (h : Hart) (f : FFlags) : (h.raise f).pend2 = h.pend2 := rfl
@[simp] theorem hart_raise_fpTraps (h : Hart) (f : FFlags) : (h.raise f).fpTraps = h.fpTraps := rfl
@[simp] theorem hart_raise_vec (h : Hart) (f : FFlags) : (h.raise f).vec = h.vec := rfl
@[simp] theorem hart_raise_mat (h : Hart) (f : FFlags) : (h.raise f).mat = h.mat := rfl

@[simp] theorem hart_drawFor_pc (h : Hart) (m : Mode) : (h.drawFor m).pc = h.pc := by unfold Hart.drawFor; split <;> rfl
@[simp] theorem hart_drawFor_g (h : Hart) (m : Mode) : (h.drawFor m).g = h.g := by unfold Hart.drawFor; split <;> rfl
@[simp] theorem hart_drawFor_ldsT (h : Hart) (m : Mode) : (h.drawFor m).ldsT = h.ldsT := by unfold Hart.drawFor; split <;> rfl
@[simp] theorem hart_drawFor_ldsS (h : Hart) (m : Mode) : (h.drawFor m).ldsS = h.ldsS := by unfold Hart.drawFor; split <;> rfl
@[simp] theorem hart_drawFor_ldsF (h : Hart) (m : Mode) : (h.drawFor m).ldsF = h.ldsF := by unfold Hart.drawFor; split <;> rfl
@[simp] theorem hart_drawFor_status (h : Hart) (m : Mode) : (h.drawFor m).status = h.status := by unfold Hart.drawFor; split <;> rfl
@[simp] theorem hart_drawFor_bankS (h : Hart) (m : Mode) : (h.drawFor m).bankS = h.bankS := by unfold Hart.drawFor; split <;> rfl
@[simp] theorem hart_drawFor_bankF (h : Hart) (m : Mode) : (h.drawFor m).bankF = h.bankF := by unfold Hart.drawFor; split <;> rfl
@[simp] theorem hart_drawFor_tvec (h : Hart) (m : Mode) : (h.drawFor m).tvec = h.tvec := by unfold Hart.drawFor; split <;> rfl
@[simp] theorem hart_drawFor_ftvec (h : Hart) (m : Mode) : (h.drawFor m).ftvec = h.ftvec := by unfold Hart.drawFor; split <;> rfl
@[simp] theorem hart_drawFor_tdeleg (h : Hart) (m : Mode) : (h.drawFor m).tdeleg = h.tdeleg := by unfold Hart.drawFor; split <;> rfl
@[simp] theorem hart_drawFor_scratch (h : Hart) (m : Mode) : (h.drawFor m).scratch = h.scratch := by unfold Hart.drawFor; split <;> rfl
@[simp] theorem hart_drawFor_fscratch (h : Hart) (m : Mode) : (h.drawFor m).fscratch = h.fscratch := by unfold Hart.drawFor; split <;> rfl
@[simp] theorem hart_drawFor_taskId (h : Hart) (m : Mode) : (h.drawFor m).taskId = h.taskId := by unfold Hart.drawFor; split <;> rfl
@[simp] theorem hart_drawFor_parent (h : Hart) (m : Mode) : (h.drawFor m).parent = h.parent := by unfold Hart.drawFor; split <;> rfl
@[simp] theorem hart_drawFor_desc (h : Hart) (m : Mode) : (h.drawFor m).desc = h.desc := by unfold Hart.drawFor; split <;> rfl
@[simp] theorem hart_drawFor_arg (h : Hart) (m : Mode) : (h.drawFor m).arg = h.arg := by unfold Hart.drawFor; split <;> rfl
@[simp] theorem hart_drawFor_prio (h : Hart) (m : Mode) : (h.drawFor m).prio = h.prio := by unfold Hart.drawFor; split <;> rfl
@[simp] theorem hart_drawFor_placedAt (h : Hart) (m : Mode) : (h.drawFor m).placedAt = h.placedAt := by unfold Hart.drawFor; split <;> rfl
@[simp] theorem hart_drawFor_mixctl (h : Hart) (m : Mode) : (h.drawFor m).mixctl = h.mixctl := by unfold Hart.drawFor; split <;> rfl
@[simp] theorem hart_drawFor_nv (h : Hart) (m : Mode) : (h.drawFor m).nv = h.nv := by unfold Hart.drawFor; split <;> rfl
@[simp] theorem hart_drawFor_nm (h : Hart) (m : Mode) : (h.drawFor m).nm = h.nm := by unfold Hart.drawFor; split <;> rfl
@[simp] theorem hart_drawFor_nf (h : Hart) (m : Mode) : (h.drawFor m).nf = h.nf := by unfold Hart.drawFor; split <;> rfl
@[simp] theorem hart_drawFor_winCount (h : Hart) (m : Mode) : (h.drawFor m).winCount = h.winCount := by unfold Hart.drawFor; split <;> rfl
@[simp] theorem hart_drawFor_windows (h : Hart) (m : Mode) : (h.drawFor m).windows = h.windows := by unfold Hart.drawFor; split <;> rfl
@[simp] theorem hart_drawFor_moveTo (h : Hart) (m : Mode) : (h.drawFor m).moveTo = h.moveTo := by unfold Hart.drawFor; split <;> rfl
@[simp] theorem hart_drawFor_evict (h : Hart) (m : Mode) : (h.drawFor m).evict = h.evict := by unfold Hart.drawFor; split <;> rfl
@[simp] theorem hart_drawFor_urgent (h : Hart) (m : Mode) : (h.drawFor m).urgent = h.urgent := by unfold Hart.drawFor; split <;> rfl
@[simp] theorem hart_drawFor_instret (h : Hart) (m : Mode) : (h.drawFor m).instret = h.instret := by unfold Hart.drawFor; split <;> rfl
@[simp] theorem hart_drawFor_fflags (h : Hart) (m : Mode) : (h.drawFor m).fflags = h.fflags := by unfold Hart.drawFor; split <;> rfl
@[simp] theorem hart_drawFor_frm (h : Hart) (m : Mode) : (h.drawFor m).frm = h.frm := by unfold Hart.drawFor; split <;> rfl
@[simp] theorem hart_drawFor_fenable (h : Hart) (m : Mode) : (h.drawFor m).fenable = h.fenable := by unfold Hart.drawFor; split <;> rfl
@[simp] theorem hart_drawFor_asid (h : Hart) (m : Mode) : (h.drawFor m).asid = h.asid := by unfold Hart.drawFor; split <;> rfl
@[simp] theorem hart_drawFor_ptroot (h : Hart) (m : Mode) : (h.drawFor m).ptroot = h.ptroot := by unfold Hart.drawFor; split <;> rfl
@[simp] theorem hart_drawFor_ccid (h : Hart) (m : Mode) : (h.drawFor m).ccid = h.ccid := by unfold Hart.drawFor; split <;> rfl
@[simp] theorem hart_drawFor_diraddr (h : Hart) (m : Mode) : (h.drawFor m).diraddr = h.diraddr := by unfold Hart.drawFor; split <;> rfl
@[simp] theorem hart_drawFor_pwMode (h : Hart) (m : Mode) : (h.drawFor m).pwMode = h.pwMode := by unfold Hart.drawFor; split <;> rfl
@[simp] theorem hart_drawFor_pwSel (h : Hart) (m : Mode) : (h.drawFor m).pwSel = h.pwSel := by unfold Hart.drawFor; split <;> rfl
@[simp] theorem hart_drawFor_seqerr (h : Hart) (m : Mode) : (h.drawFor m).seqerr = h.seqerr := by unfold Hart.drawFor; split <;> rfl
@[simp] theorem hart_drawFor_compute (h : Hart) (m : Mode) : (h.drawFor m).compute = h.compute := by unfold Hart.drawFor; split <;> rfl
@[simp] theorem hart_drawFor_handles (h : Hart) (m : Mode) : (h.drawFor m).handles = h.handles := by unfold Hart.drawFor; split <;> rfl
@[simp] theorem hart_drawFor_gang (h : Hart) (m : Mode) : (h.drawFor m).gang = h.gang := by unfold Hart.drawFor; split <;> rfl
@[simp] theorem hart_drawFor_words (h : Hart) (m : Mode) : (h.drawFor m).words = h.words := by unfold Hart.drawFor; split <;> rfl
@[simp] theorem hart_drawFor_wordsHere (h : Hart) (m : Mode) : (h.drawFor m).wordsHere = h.wordsHere := by unfold Hart.drawFor; split <;> rfl
@[simp] theorem hart_drawFor_open (h : Hart) (m : Mode) : (h.drawFor m).open' = h.open' := by unfold Hart.drawFor; split <;> rfl
@[simp] theorem hart_drawFor_wait (h : Hart) (m : Mode) : (h.drawFor m).wait = h.wait := by unfold Hart.drawFor; split <;> rfl
@[simp] theorem hart_drawFor_pend1 (h : Hart) (m : Mode) : (h.drawFor m).pend1 = h.pend1 := by unfold Hart.drawFor; split <;> rfl
@[simp] theorem hart_drawFor_pend2 (h : Hart) (m : Mode) : (h.drawFor m).pend2 = h.pend2 := by unfold Hart.drawFor; split <;> rfl
@[simp] theorem hart_drawFor_fpTraps (h : Hart) (m : Mode) : (h.drawFor m).fpTraps = h.fpTraps := by unfold Hart.drawFor; split <;> rfl
@[simp] theorem hart_drawFor_vec (h : Hart) (m : Mode) : (h.drawFor m).vec = h.vec := by unfold Hart.drawFor; split <;> rfl
@[simp] theorem hart_drawFor_mat (h : Hart) (m : Mode) : (h.drawFor m).mat = h.mat := by unfold Hart.drawFor; split <;> rfl

@[simp] theorem state_setCore_member (s : State) (c : CoreId) (x : Core) : (s.setCore c x).member = s.member := rfl
@[simp] theorem state_setCore_hart (s : State) (c : CoreId) (x : Core) : (s.setCore c x).hart = s.hart := rfl
@[simp] theorem state_setCore_here (s : State) (c : CoreId) (x : Core) : (s.setCore c x).here = s.here := rfl
@[simp] theorem state_setCore_others (s : State) (c : CoreId) (x : Core) : (s.setCore c x).others = s.others := rfl
@[simp] theorem state_setCore_turns (s : State) (c : CoreId) (x : Core) : (s.setCore c x).turns = s.turns := rfl
@[simp] theorem state_setCore_free (s : State) (c : CoreId) (x : Core) : (s.setCore c x).free = s.free := rfl
@[simp] theorem state_setCore_clock (s : State) (c : CoreId) (x : Core) : (s.setCore c x).clock = s.clock := rfl
@[simp] theorem state_setCore_mem (s : State) (c : CoreId) (x : Core) : (s.setCore c x).mem = s.mem := rfl
@[simp] theorem state_setCore_poison (s : State) (c : CoreId) (x : Core) : (s.setCore c x).poison = s.poison := rfl
@[simp] theorem state_setCore_parishes (s : State) (c : CoreId) (x : Core) : (s.setCore c x).parishes = s.parishes := rfl
@[simp] theorem state_setCore_crofts (s : State) (c : CoreId) (x : Core) : (s.setCore c x).crofts = s.crofts := rfl
@[simp] theorem state_setCore_coh (s : State) (c : CoreId) (x : Core) : (s.setCore c x).coh = s.coh := rfl
@[simp] theorem state_setCore_moots (s : State) (c : CoreId) (x : Core) : (s.setCore c x).moots = s.moots := rfl
@[simp] theorem state_setCore_copyQ (s : State) (c : CoreId) (x : Core) : (s.setCore c x).copyQ = s.copyQ := rfl
@[simp] theorem state_setCore_walkQ (s : State) (c : CoreId) (x : Core) : (s.setCore c x).walkQ = s.walkQ := rfl
@[simp] theorem state_setCore_kickQ (s : State) (c : CoreId) (x : Core) : (s.setCore c x).kickQ = s.kickQ := rfl
@[simp] theorem state_setCore_lockQ (s : State) (c : CoreId) (x : Core) : (s.setCore c x).lockQ = s.lockQ := rfl
@[simp] theorem state_setCore_lockWait (s : State) (c : CoreId) (x : Core) : (s.setCore c x).lockWait = s.lockWait := rfl
@[simp] theorem state_setCore_engTlb (s : State) (c : CoreId) (x : Core) : (s.setCore c x).engTlb = s.engTlb := rfl
@[simp] theorem state_setCore_keys (s : State) (c : CoreId) (x : Core) : (s.setCore c x).keys = s.keys := rfl
@[simp] theorem state_setCore_migs (s : State) (c : CoreId) (x : Core) : (s.setCore c x).migs = s.migs := rfl
@[simp] theorem state_setCore_migrating (s : State) (c : CoreId) (x : Core) : (s.setCore c x).migrating = s.migrating := rfl
@[simp] theorem state_setCore_window (s : State) (c : CoreId) (x : Core) : (s.setCore c x).window = s.window := rfl
@[simp] theorem state_setCore_posts (s : State) (c : CoreId) (x : Core) : (s.setCore c x).posts = s.posts := rfl
@[simp] theorem state_setCore_ranges (s : State) (c : CoreId) (x : Core) : (s.setCore c x).ranges = s.ranges := rfl
@[simp] theorem state_setCore_funcs (s : State) (c : CoreId) (x : Core) : (s.setCore c x).funcs = s.funcs := rfl
@[simp] theorem state_setCore_present (s : State) (c : CoreId) (x : Core) : (s.setCore c x).present = s.present := rfl
@[simp] theorem state_setCore_self (s : State) (c : CoreId) (x : Core) : (s.setCore c x).self = s.self := rfl
@[simp] theorem state_setCore_endpoints (s : State) (c : CoreId) (x : Core) : (s.setCore c x).endpoints = s.endpoints := rfl
@[simp] theorem state_setCore_hashsel (s : State) (c : CoreId) (x : Core) : (s.setCore c x).hashsel = s.hashsel := rfl
@[simp] theorem state_setCore_rates (s : State) (c : CoreId) (x : Core) : (s.setCore c x).rates = s.rates := rfl
@[simp] theorem state_setCore_switching (s : State) (c : CoreId) (x : Core) : (s.setCore c x).switching = s.switching := rfl
@[simp] theorem state_setCore_raslog (s : State) (c : CoreId) (x : Core) : (s.setCore c x).raslog = s.raslog := rfl
@[simp] theorem state_setCore_raslost (s : State) (c : CoreId) (x : Core) : (s.setCore c x).raslost = s.raslost := rfl
@[simp] theorem state_setCore_counts (s : State) (c : CoreId) (x : Core) : (s.setCore c x).counts = s.counts := rfl
@[simp] theorem state_setCore_retired (s : State) (c : CoreId) (x : Core) : (s.setCore c x).retired = s.retired := rfl
@[simp] theorem state_setCore_links (s : State) (c : CoreId) (x : Core) : (s.setCore c x).links = s.links := rfl
@[simp] theorem state_setCore_waking (s : State) (c : CoreId) (x : Core) : (s.setCore c x).waking = s.waking := rfl
@[simp] theorem state_setCore_reqHeld (s : State) (c : CoreId) (x : Core) : (s.setCore c x).reqHeld = s.reqHeld := rfl
@[simp] theorem state_setCore_slotWrites (s : State) (c : CoreId) (x : Core) : (s.setCore c x).slotWrites = s.slotWrites := rfl
@[simp] theorem state_setCore_cxlHeld (s : State) (c : CoreId) (x : Core) : (s.setCore c x).cxlHeld = s.cxlHeld := rfl
@[simp] theorem state_setCore_updHeld (s : State) (c : CoreId) (x : Core) : (s.setCore c x).updHeld = s.updHeld := rfl
@[simp] theorem state_setCore_lostDies (s : State) (c : CoreId) (x : Core) : (s.setCore c x).lostDies = s.lostDies := rfl
@[simp] theorem state_setCore_carter (s : State) (c : CoreId) (x : Core) : (s.setCore c x).carter = s.carter := rfl
@[simp] theorem state_setCore_recovery (s : State) (c : CoreId) (x : Core) : (s.setCore c x).recovery = s.recovery := rfl
@[simp] theorem state_setCore_leaf (s : State) (c : CoreId) (x : Core) : (s.setCore c x).leaf = s.leaf := rfl
@[simp] theorem state_setCore_hostOut (s : State) (c : CoreId) (x : Core) : (s.setCore c x).hostOut = s.hostOut := rfl
@[simp] theorem state_setCore_timeout (s : State) (c : CoreId) (x : Core) : (s.setCore c x).timeout = s.timeout := rfl
@[simp] theorem state_setCore_heldSaves (s : State) (c : CoreId) (x : Core) : (s.setCore c x).heldSaves = s.heldSaves := rfl

@[simp] theorem state_setParish_member (s : State) (pp : Nat) (x : Parish) : (s.setParish pp x).member = s.member := rfl
@[simp] theorem state_setParish_hart (s : State) (pp : Nat) (x : Parish) : (s.setParish pp x).hart = s.hart := rfl
@[simp] theorem state_setParish_here (s : State) (pp : Nat) (x : Parish) : (s.setParish pp x).here = s.here := rfl
@[simp] theorem state_setParish_others (s : State) (pp : Nat) (x : Parish) : (s.setParish pp x).others = s.others := rfl
@[simp] theorem state_setParish_turns (s : State) (pp : Nat) (x : Parish) : (s.setParish pp x).turns = s.turns := rfl
@[simp] theorem state_setParish_free (s : State) (pp : Nat) (x : Parish) : (s.setParish pp x).free = s.free := rfl
@[simp] theorem state_setParish_clock (s : State) (pp : Nat) (x : Parish) : (s.setParish pp x).clock = s.clock := rfl
@[simp] theorem state_setParish_mem (s : State) (pp : Nat) (x : Parish) : (s.setParish pp x).mem = s.mem := rfl
@[simp] theorem state_setParish_poison (s : State) (pp : Nat) (x : Parish) : (s.setParish pp x).poison = s.poison := rfl
@[simp] theorem state_setParish_cores (s : State) (pp : Nat) (x : Parish) : (s.setParish pp x).cores = s.cores := rfl
@[simp] theorem state_setParish_crofts (s : State) (pp : Nat) (x : Parish) : (s.setParish pp x).crofts = s.crofts := rfl
@[simp] theorem state_setParish_coh (s : State) (pp : Nat) (x : Parish) : (s.setParish pp x).coh = s.coh := rfl
@[simp] theorem state_setParish_moots (s : State) (pp : Nat) (x : Parish) : (s.setParish pp x).moots = s.moots := rfl
@[simp] theorem state_setParish_copyQ (s : State) (pp : Nat) (x : Parish) : (s.setParish pp x).copyQ = s.copyQ := rfl
@[simp] theorem state_setParish_walkQ (s : State) (pp : Nat) (x : Parish) : (s.setParish pp x).walkQ = s.walkQ := rfl
@[simp] theorem state_setParish_kickQ (s : State) (pp : Nat) (x : Parish) : (s.setParish pp x).kickQ = s.kickQ := rfl
@[simp] theorem state_setParish_lockQ (s : State) (pp : Nat) (x : Parish) : (s.setParish pp x).lockQ = s.lockQ := rfl
@[simp] theorem state_setParish_lockWait (s : State) (pp : Nat) (x : Parish) : (s.setParish pp x).lockWait = s.lockWait := rfl
@[simp] theorem state_setParish_engTlb (s : State) (pp : Nat) (x : Parish) : (s.setParish pp x).engTlb = s.engTlb := rfl
@[simp] theorem state_setParish_keys (s : State) (pp : Nat) (x : Parish) : (s.setParish pp x).keys = s.keys := rfl
@[simp] theorem state_setParish_migs (s : State) (pp : Nat) (x : Parish) : (s.setParish pp x).migs = s.migs := rfl
@[simp] theorem state_setParish_migrating (s : State) (pp : Nat) (x : Parish) : (s.setParish pp x).migrating = s.migrating := rfl
@[simp] theorem state_setParish_window (s : State) (pp : Nat) (x : Parish) : (s.setParish pp x).window = s.window := rfl
@[simp] theorem state_setParish_posts (s : State) (pp : Nat) (x : Parish) : (s.setParish pp x).posts = s.posts := rfl
@[simp] theorem state_setParish_ranges (s : State) (pp : Nat) (x : Parish) : (s.setParish pp x).ranges = s.ranges := rfl
@[simp] theorem state_setParish_funcs (s : State) (pp : Nat) (x : Parish) : (s.setParish pp x).funcs = s.funcs := rfl
@[simp] theorem state_setParish_present (s : State) (pp : Nat) (x : Parish) : (s.setParish pp x).present = s.present := rfl
@[simp] theorem state_setParish_self (s : State) (pp : Nat) (x : Parish) : (s.setParish pp x).self = s.self := rfl
@[simp] theorem state_setParish_endpoints (s : State) (pp : Nat) (x : Parish) : (s.setParish pp x).endpoints = s.endpoints := rfl
@[simp] theorem state_setParish_hashsel (s : State) (pp : Nat) (x : Parish) : (s.setParish pp x).hashsel = s.hashsel := rfl
@[simp] theorem state_setParish_rates (s : State) (pp : Nat) (x : Parish) : (s.setParish pp x).rates = s.rates := rfl
@[simp] theorem state_setParish_switching (s : State) (pp : Nat) (x : Parish) : (s.setParish pp x).switching = s.switching := rfl
@[simp] theorem state_setParish_raslog (s : State) (pp : Nat) (x : Parish) : (s.setParish pp x).raslog = s.raslog := rfl
@[simp] theorem state_setParish_raslost (s : State) (pp : Nat) (x : Parish) : (s.setParish pp x).raslost = s.raslost := rfl
@[simp] theorem state_setParish_counts (s : State) (pp : Nat) (x : Parish) : (s.setParish pp x).counts = s.counts := rfl
@[simp] theorem state_setParish_retired (s : State) (pp : Nat) (x : Parish) : (s.setParish pp x).retired = s.retired := rfl
@[simp] theorem state_setParish_links (s : State) (pp : Nat) (x : Parish) : (s.setParish pp x).links = s.links := rfl
@[simp] theorem state_setParish_waking (s : State) (pp : Nat) (x : Parish) : (s.setParish pp x).waking = s.waking := rfl
@[simp] theorem state_setParish_reqHeld (s : State) (pp : Nat) (x : Parish) : (s.setParish pp x).reqHeld = s.reqHeld := rfl
@[simp] theorem state_setParish_slotWrites (s : State) (pp : Nat) (x : Parish) : (s.setParish pp x).slotWrites = s.slotWrites := rfl
@[simp] theorem state_setParish_cxlHeld (s : State) (pp : Nat) (x : Parish) : (s.setParish pp x).cxlHeld = s.cxlHeld := rfl
@[simp] theorem state_setParish_updHeld (s : State) (pp : Nat) (x : Parish) : (s.setParish pp x).updHeld = s.updHeld := rfl
@[simp] theorem state_setParish_lostDies (s : State) (pp : Nat) (x : Parish) : (s.setParish pp x).lostDies = s.lostDies := rfl
@[simp] theorem state_setParish_carter (s : State) (pp : Nat) (x : Parish) : (s.setParish pp x).carter = s.carter := rfl
@[simp] theorem state_setParish_recovery (s : State) (pp : Nat) (x : Parish) : (s.setParish pp x).recovery = s.recovery := rfl
@[simp] theorem state_setParish_leaf (s : State) (pp : Nat) (x : Parish) : (s.setParish pp x).leaf = s.leaf := rfl
@[simp] theorem state_setParish_hostOut (s : State) (pp : Nat) (x : Parish) : (s.setParish pp x).hostOut = s.hostOut := rfl
@[simp] theorem state_setParish_timeout (s : State) (pp : Nat) (x : Parish) : (s.setParish pp x).timeout = s.timeout := rfl
@[simp] theorem state_setParish_heldSaves (s : State) (pp : Nat) (x : Parish) : (s.setParish pp x).heldSaves = s.heldSaves := rfl

@[simp] theorem state_setPdata_member (s : State) (pp : Nat) (x : ParishData) : (s.setPdata pp x).member = s.member := rfl
@[simp] theorem state_setPdata_hart (s : State) (pp : Nat) (x : ParishData) : (s.setPdata pp x).hart = s.hart := rfl
@[simp] theorem state_setPdata_here (s : State) (pp : Nat) (x : ParishData) : (s.setPdata pp x).here = s.here := rfl
@[simp] theorem state_setPdata_others (s : State) (pp : Nat) (x : ParishData) : (s.setPdata pp x).others = s.others := rfl
@[simp] theorem state_setPdata_turns (s : State) (pp : Nat) (x : ParishData) : (s.setPdata pp x).turns = s.turns := rfl
@[simp] theorem state_setPdata_free (s : State) (pp : Nat) (x : ParishData) : (s.setPdata pp x).free = s.free := rfl
@[simp] theorem state_setPdata_clock (s : State) (pp : Nat) (x : ParishData) : (s.setPdata pp x).clock = s.clock := rfl
@[simp] theorem state_setPdata_mem (s : State) (pp : Nat) (x : ParishData) : (s.setPdata pp x).mem = s.mem := rfl
@[simp] theorem state_setPdata_poison (s : State) (pp : Nat) (x : ParishData) : (s.setPdata pp x).poison = s.poison := rfl
@[simp] theorem state_setPdata_cores (s : State) (pp : Nat) (x : ParishData) : (s.setPdata pp x).cores = s.cores := rfl
@[simp] theorem state_setPdata_crofts (s : State) (pp : Nat) (x : ParishData) : (s.setPdata pp x).crofts = s.crofts := rfl
@[simp] theorem state_setPdata_coh (s : State) (pp : Nat) (x : ParishData) : (s.setPdata pp x).coh = s.coh := rfl
@[simp] theorem state_setPdata_moots (s : State) (pp : Nat) (x : ParishData) : (s.setPdata pp x).moots = s.moots := rfl
@[simp] theorem state_setPdata_copyQ (s : State) (pp : Nat) (x : ParishData) : (s.setPdata pp x).copyQ = s.copyQ := rfl
@[simp] theorem state_setPdata_walkQ (s : State) (pp : Nat) (x : ParishData) : (s.setPdata pp x).walkQ = s.walkQ := rfl
@[simp] theorem state_setPdata_kickQ (s : State) (pp : Nat) (x : ParishData) : (s.setPdata pp x).kickQ = s.kickQ := rfl
@[simp] theorem state_setPdata_lockQ (s : State) (pp : Nat) (x : ParishData) : (s.setPdata pp x).lockQ = s.lockQ := rfl
@[simp] theorem state_setPdata_lockWait (s : State) (pp : Nat) (x : ParishData) : (s.setPdata pp x).lockWait = s.lockWait := rfl
@[simp] theorem state_setPdata_engTlb (s : State) (pp : Nat) (x : ParishData) : (s.setPdata pp x).engTlb = s.engTlb := rfl
@[simp] theorem state_setPdata_keys (s : State) (pp : Nat) (x : ParishData) : (s.setPdata pp x).keys = s.keys := rfl
@[simp] theorem state_setPdata_migs (s : State) (pp : Nat) (x : ParishData) : (s.setPdata pp x).migs = s.migs := rfl
@[simp] theorem state_setPdata_migrating (s : State) (pp : Nat) (x : ParishData) : (s.setPdata pp x).migrating = s.migrating := rfl
@[simp] theorem state_setPdata_window (s : State) (pp : Nat) (x : ParishData) : (s.setPdata pp x).window = s.window := rfl
@[simp] theorem state_setPdata_posts (s : State) (pp : Nat) (x : ParishData) : (s.setPdata pp x).posts = s.posts := rfl
@[simp] theorem state_setPdata_ranges (s : State) (pp : Nat) (x : ParishData) : (s.setPdata pp x).ranges = s.ranges := rfl
@[simp] theorem state_setPdata_funcs (s : State) (pp : Nat) (x : ParishData) : (s.setPdata pp x).funcs = s.funcs := rfl
@[simp] theorem state_setPdata_present (s : State) (pp : Nat) (x : ParishData) : (s.setPdata pp x).present = s.present := rfl
@[simp] theorem state_setPdata_self (s : State) (pp : Nat) (x : ParishData) : (s.setPdata pp x).self = s.self := rfl
@[simp] theorem state_setPdata_endpoints (s : State) (pp : Nat) (x : ParishData) : (s.setPdata pp x).endpoints = s.endpoints := rfl
@[simp] theorem state_setPdata_hashsel (s : State) (pp : Nat) (x : ParishData) : (s.setPdata pp x).hashsel = s.hashsel := rfl
@[simp] theorem state_setPdata_rates (s : State) (pp : Nat) (x : ParishData) : (s.setPdata pp x).rates = s.rates := rfl
@[simp] theorem state_setPdata_switching (s : State) (pp : Nat) (x : ParishData) : (s.setPdata pp x).switching = s.switching := rfl
@[simp] theorem state_setPdata_raslog (s : State) (pp : Nat) (x : ParishData) : (s.setPdata pp x).raslog = s.raslog := rfl
@[simp] theorem state_setPdata_raslost (s : State) (pp : Nat) (x : ParishData) : (s.setPdata pp x).raslost = s.raslost := rfl
@[simp] theorem state_setPdata_counts (s : State) (pp : Nat) (x : ParishData) : (s.setPdata pp x).counts = s.counts := rfl
@[simp] theorem state_setPdata_retired (s : State) (pp : Nat) (x : ParishData) : (s.setPdata pp x).retired = s.retired := rfl
@[simp] theorem state_setPdata_links (s : State) (pp : Nat) (x : ParishData) : (s.setPdata pp x).links = s.links := rfl
@[simp] theorem state_setPdata_waking (s : State) (pp : Nat) (x : ParishData) : (s.setPdata pp x).waking = s.waking := rfl
@[simp] theorem state_setPdata_reqHeld (s : State) (pp : Nat) (x : ParishData) : (s.setPdata pp x).reqHeld = s.reqHeld := rfl
@[simp] theorem state_setPdata_slotWrites (s : State) (pp : Nat) (x : ParishData) : (s.setPdata pp x).slotWrites = s.slotWrites := rfl
@[simp] theorem state_setPdata_cxlHeld (s : State) (pp : Nat) (x : ParishData) : (s.setPdata pp x).cxlHeld = s.cxlHeld := rfl
@[simp] theorem state_setPdata_updHeld (s : State) (pp : Nat) (x : ParishData) : (s.setPdata pp x).updHeld = s.updHeld := rfl
@[simp] theorem state_setPdata_lostDies (s : State) (pp : Nat) (x : ParishData) : (s.setPdata pp x).lostDies = s.lostDies := rfl
@[simp] theorem state_setPdata_carter (s : State) (pp : Nat) (x : ParishData) : (s.setPdata pp x).carter = s.carter := rfl
@[simp] theorem state_setPdata_recovery (s : State) (pp : Nat) (x : ParishData) : (s.setPdata pp x).recovery = s.recovery := rfl
@[simp] theorem state_setPdata_leaf (s : State) (pp : Nat) (x : ParishData) : (s.setPdata pp x).leaf = s.leaf := rfl
@[simp] theorem state_setPdata_hostOut (s : State) (pp : Nat) (x : ParishData) : (s.setPdata pp x).hostOut = s.hostOut := rfl
@[simp] theorem state_setPdata_timeout (s : State) (pp : Nat) (x : ParishData) : (s.setPdata pp x).timeout = s.timeout := rfl
@[simp] theorem state_setPdata_heldSaves (s : State) (pp : Nat) (x : ParishData) : (s.setPdata pp x).heldSaves = s.heldSaves := rfl

@[simp] theorem state_setCroft_member (s : State) (c : CroftId) (x : Croft) : (s.setCroft c x).member = s.member := rfl
@[simp] theorem state_setCroft_hart (s : State) (c : CroftId) (x : Croft) : (s.setCroft c x).hart = s.hart := rfl
@[simp] theorem state_setCroft_here (s : State) (c : CroftId) (x : Croft) : (s.setCroft c x).here = s.here := rfl
@[simp] theorem state_setCroft_others (s : State) (c : CroftId) (x : Croft) : (s.setCroft c x).others = s.others := rfl
@[simp] theorem state_setCroft_turns (s : State) (c : CroftId) (x : Croft) : (s.setCroft c x).turns = s.turns := rfl
@[simp] theorem state_setCroft_free (s : State) (c : CroftId) (x : Croft) : (s.setCroft c x).free = s.free := rfl
@[simp] theorem state_setCroft_clock (s : State) (c : CroftId) (x : Croft) : (s.setCroft c x).clock = s.clock := rfl
@[simp] theorem state_setCroft_mem (s : State) (c : CroftId) (x : Croft) : (s.setCroft c x).mem = s.mem := rfl
@[simp] theorem state_setCroft_poison (s : State) (c : CroftId) (x : Croft) : (s.setCroft c x).poison = s.poison := rfl
@[simp] theorem state_setCroft_cores (s : State) (c : CroftId) (x : Croft) : (s.setCroft c x).cores = s.cores := rfl
@[simp] theorem state_setCroft_parishes (s : State) (c : CroftId) (x : Croft) : (s.setCroft c x).parishes = s.parishes := rfl
@[simp] theorem state_setCroft_coh (s : State) (c : CroftId) (x : Croft) : (s.setCroft c x).coh = s.coh := rfl
@[simp] theorem state_setCroft_moots (s : State) (c : CroftId) (x : Croft) : (s.setCroft c x).moots = s.moots := rfl
@[simp] theorem state_setCroft_copyQ (s : State) (c : CroftId) (x : Croft) : (s.setCroft c x).copyQ = s.copyQ := rfl
@[simp] theorem state_setCroft_walkQ (s : State) (c : CroftId) (x : Croft) : (s.setCroft c x).walkQ = s.walkQ := rfl
@[simp] theorem state_setCroft_kickQ (s : State) (c : CroftId) (x : Croft) : (s.setCroft c x).kickQ = s.kickQ := rfl
@[simp] theorem state_setCroft_lockQ (s : State) (c : CroftId) (x : Croft) : (s.setCroft c x).lockQ = s.lockQ := rfl
@[simp] theorem state_setCroft_lockWait (s : State) (c : CroftId) (x : Croft) : (s.setCroft c x).lockWait = s.lockWait := rfl
@[simp] theorem state_setCroft_engTlb (s : State) (c : CroftId) (x : Croft) : (s.setCroft c x).engTlb = s.engTlb := rfl
@[simp] theorem state_setCroft_keys (s : State) (c : CroftId) (x : Croft) : (s.setCroft c x).keys = s.keys := rfl
@[simp] theorem state_setCroft_migs (s : State) (c : CroftId) (x : Croft) : (s.setCroft c x).migs = s.migs := rfl
@[simp] theorem state_setCroft_migrating (s : State) (c : CroftId) (x : Croft) : (s.setCroft c x).migrating = s.migrating := rfl
@[simp] theorem state_setCroft_window (s : State) (c : CroftId) (x : Croft) : (s.setCroft c x).window = s.window := rfl
@[simp] theorem state_setCroft_posts (s : State) (c : CroftId) (x : Croft) : (s.setCroft c x).posts = s.posts := rfl
@[simp] theorem state_setCroft_ranges (s : State) (c : CroftId) (x : Croft) : (s.setCroft c x).ranges = s.ranges := rfl
@[simp] theorem state_setCroft_funcs (s : State) (c : CroftId) (x : Croft) : (s.setCroft c x).funcs = s.funcs := rfl
@[simp] theorem state_setCroft_present (s : State) (c : CroftId) (x : Croft) : (s.setCroft c x).present = s.present := rfl
@[simp] theorem state_setCroft_self (s : State) (c : CroftId) (x : Croft) : (s.setCroft c x).self = s.self := rfl
@[simp] theorem state_setCroft_endpoints (s : State) (c : CroftId) (x : Croft) : (s.setCroft c x).endpoints = s.endpoints := rfl
@[simp] theorem state_setCroft_hashsel (s : State) (c : CroftId) (x : Croft) : (s.setCroft c x).hashsel = s.hashsel := rfl
@[simp] theorem state_setCroft_rates (s : State) (c : CroftId) (x : Croft) : (s.setCroft c x).rates = s.rates := rfl
@[simp] theorem state_setCroft_switching (s : State) (c : CroftId) (x : Croft) : (s.setCroft c x).switching = s.switching := rfl
@[simp] theorem state_setCroft_raslog (s : State) (c : CroftId) (x : Croft) : (s.setCroft c x).raslog = s.raslog := rfl
@[simp] theorem state_setCroft_raslost (s : State) (c : CroftId) (x : Croft) : (s.setCroft c x).raslost = s.raslost := rfl
@[simp] theorem state_setCroft_counts (s : State) (c : CroftId) (x : Croft) : (s.setCroft c x).counts = s.counts := rfl
@[simp] theorem state_setCroft_retired (s : State) (c : CroftId) (x : Croft) : (s.setCroft c x).retired = s.retired := rfl
@[simp] theorem state_setCroft_links (s : State) (c : CroftId) (x : Croft) : (s.setCroft c x).links = s.links := rfl
@[simp] theorem state_setCroft_waking (s : State) (c : CroftId) (x : Croft) : (s.setCroft c x).waking = s.waking := rfl
@[simp] theorem state_setCroft_reqHeld (s : State) (c : CroftId) (x : Croft) : (s.setCroft c x).reqHeld = s.reqHeld := rfl
@[simp] theorem state_setCroft_slotWrites (s : State) (c : CroftId) (x : Croft) : (s.setCroft c x).slotWrites = s.slotWrites := rfl
@[simp] theorem state_setCroft_cxlHeld (s : State) (c : CroftId) (x : Croft) : (s.setCroft c x).cxlHeld = s.cxlHeld := rfl
@[simp] theorem state_setCroft_updHeld (s : State) (c : CroftId) (x : Croft) : (s.setCroft c x).updHeld = s.updHeld := rfl
@[simp] theorem state_setCroft_lostDies (s : State) (c : CroftId) (x : Croft) : (s.setCroft c x).lostDies = s.lostDies := rfl
@[simp] theorem state_setCroft_carter (s : State) (c : CroftId) (x : Croft) : (s.setCroft c x).carter = s.carter := rfl
@[simp] theorem state_setCroft_recovery (s : State) (c : CroftId) (x : Croft) : (s.setCroft c x).recovery = s.recovery := rfl
@[simp] theorem state_setCroft_leaf (s : State) (c : CroftId) (x : Croft) : (s.setCroft c x).leaf = s.leaf := rfl
@[simp] theorem state_setCroft_hostOut (s : State) (c : CroftId) (x : Croft) : (s.setCroft c x).hostOut = s.hostOut := rfl
@[simp] theorem state_setCroft_timeout (s : State) (c : CroftId) (x : Croft) : (s.setCroft c x).timeout = s.timeout := rfl
@[simp] theorem state_setCroft_heldSaves (s : State) (c : CroftId) (x : Croft) : (s.setCroft c x).heldSaves = s.heldSaves := rfl

@[simp] theorem state_setHart_member (s : State) (p : Place) (x : Hart) : (s.setHart p x).member = s.member := by unfold State.setHart; split <;> rfl
@[simp] theorem state_setHart_here (s : State) (p : Place) (x : Hart) : (s.setHart p x).here = s.here := by unfold State.setHart; split <;> rfl
@[simp] theorem state_setHart_turns (s : State) (p : Place) (x : Hart) : (s.setHart p x).turns = s.turns := by unfold State.setHart; split <;> rfl
@[simp] theorem state_setHart_free (s : State) (p : Place) (x : Hart) : (s.setHart p x).free = s.free := by unfold State.setHart; split <;> rfl
@[simp] theorem state_setHart_clock (s : State) (p : Place) (x : Hart) : (s.setHart p x).clock = s.clock := by unfold State.setHart; split <;> rfl
@[simp] theorem state_setHart_mem (s : State) (p : Place) (x : Hart) : (s.setHart p x).mem = s.mem := by unfold State.setHart; split <;> rfl
@[simp] theorem state_setHart_poison (s : State) (p : Place) (x : Hart) : (s.setHart p x).poison = s.poison := by unfold State.setHart; split <;> rfl
@[simp] theorem state_setHart_cores (s : State) (p : Place) (x : Hart) : (s.setHart p x).cores = s.cores := by unfold State.setHart; split <;> rfl
@[simp] theorem state_setHart_parishes (s : State) (p : Place) (x : Hart) : (s.setHart p x).parishes = s.parishes := by unfold State.setHart; split <;> rfl
@[simp] theorem state_setHart_crofts (s : State) (p : Place) (x : Hart) : (s.setHart p x).crofts = s.crofts := by unfold State.setHart; split <;> rfl
@[simp] theorem state_setHart_coh (s : State) (p : Place) (x : Hart) : (s.setHart p x).coh = s.coh := by unfold State.setHart; split <;> rfl
@[simp] theorem state_setHart_moots (s : State) (p : Place) (x : Hart) : (s.setHart p x).moots = s.moots := by unfold State.setHart; split <;> rfl
@[simp] theorem state_setHart_copyQ (s : State) (p : Place) (x : Hart) : (s.setHart p x).copyQ = s.copyQ := by unfold State.setHart; split <;> rfl
@[simp] theorem state_setHart_walkQ (s : State) (p : Place) (x : Hart) : (s.setHart p x).walkQ = s.walkQ := by unfold State.setHart; split <;> rfl
@[simp] theorem state_setHart_kickQ (s : State) (p : Place) (x : Hart) : (s.setHart p x).kickQ = s.kickQ := by unfold State.setHart; split <;> rfl
@[simp] theorem state_setHart_lockQ (s : State) (p : Place) (x : Hart) : (s.setHart p x).lockQ = s.lockQ := by unfold State.setHart; split <;> rfl
@[simp] theorem state_setHart_lockWait (s : State) (p : Place) (x : Hart) : (s.setHart p x).lockWait = s.lockWait := by unfold State.setHart; split <;> rfl
@[simp] theorem state_setHart_engTlb (s : State) (p : Place) (x : Hart) : (s.setHart p x).engTlb = s.engTlb := by unfold State.setHart; split <;> rfl
@[simp] theorem state_setHart_keys (s : State) (p : Place) (x : Hart) : (s.setHart p x).keys = s.keys := by unfold State.setHart; split <;> rfl
@[simp] theorem state_setHart_migs (s : State) (p : Place) (x : Hart) : (s.setHart p x).migs = s.migs := by unfold State.setHart; split <;> rfl
@[simp] theorem state_setHart_migrating (s : State) (p : Place) (x : Hart) : (s.setHart p x).migrating = s.migrating := by unfold State.setHart; split <;> rfl
@[simp] theorem state_setHart_window (s : State) (p : Place) (x : Hart) : (s.setHart p x).window = s.window := by unfold State.setHart; split <;> rfl
@[simp] theorem state_setHart_posts (s : State) (p : Place) (x : Hart) : (s.setHart p x).posts = s.posts := by unfold State.setHart; split <;> rfl
@[simp] theorem state_setHart_ranges (s : State) (p : Place) (x : Hart) : (s.setHart p x).ranges = s.ranges := by unfold State.setHart; split <;> rfl
@[simp] theorem state_setHart_funcs (s : State) (p : Place) (x : Hart) : (s.setHart p x).funcs = s.funcs := by unfold State.setHart; split <;> rfl
@[simp] theorem state_setHart_present (s : State) (p : Place) (x : Hart) : (s.setHart p x).present = s.present := by unfold State.setHart; split <;> rfl
@[simp] theorem state_setHart_self (s : State) (p : Place) (x : Hart) : (s.setHart p x).self = s.self := by unfold State.setHart; split <;> rfl
@[simp] theorem state_setHart_endpoints (s : State) (p : Place) (x : Hart) : (s.setHart p x).endpoints = s.endpoints := by unfold State.setHart; split <;> rfl
@[simp] theorem state_setHart_hashsel (s : State) (p : Place) (x : Hart) : (s.setHart p x).hashsel = s.hashsel := by unfold State.setHart; split <;> rfl
@[simp] theorem state_setHart_rates (s : State) (p : Place) (x : Hart) : (s.setHart p x).rates = s.rates := by unfold State.setHart; split <;> rfl
@[simp] theorem state_setHart_switching (s : State) (p : Place) (x : Hart) : (s.setHart p x).switching = s.switching := by unfold State.setHart; split <;> rfl
@[simp] theorem state_setHart_raslog (s : State) (p : Place) (x : Hart) : (s.setHart p x).raslog = s.raslog := by unfold State.setHart; split <;> rfl
@[simp] theorem state_setHart_raslost (s : State) (p : Place) (x : Hart) : (s.setHart p x).raslost = s.raslost := by unfold State.setHart; split <;> rfl
@[simp] theorem state_setHart_counts (s : State) (p : Place) (x : Hart) : (s.setHart p x).counts = s.counts := by unfold State.setHart; split <;> rfl
@[simp] theorem state_setHart_retired (s : State) (p : Place) (x : Hart) : (s.setHart p x).retired = s.retired := by unfold State.setHart; split <;> rfl
@[simp] theorem state_setHart_links (s : State) (p : Place) (x : Hart) : (s.setHart p x).links = s.links := by unfold State.setHart; split <;> rfl
@[simp] theorem state_setHart_waking (s : State) (p : Place) (x : Hart) : (s.setHart p x).waking = s.waking := by unfold State.setHart; split <;> rfl
@[simp] theorem state_setHart_reqHeld (s : State) (p : Place) (x : Hart) : (s.setHart p x).reqHeld = s.reqHeld := by unfold State.setHart; split <;> rfl
@[simp] theorem state_setHart_slotWrites (s : State) (p : Place) (x : Hart) : (s.setHart p x).slotWrites = s.slotWrites := by unfold State.setHart; split <;> rfl
@[simp] theorem state_setHart_cxlHeld (s : State) (p : Place) (x : Hart) : (s.setHart p x).cxlHeld = s.cxlHeld := by unfold State.setHart; split <;> rfl
@[simp] theorem state_setHart_updHeld (s : State) (p : Place) (x : Hart) : (s.setHart p x).updHeld = s.updHeld := by unfold State.setHart; split <;> rfl
@[simp] theorem state_setHart_lostDies (s : State) (p : Place) (x : Hart) : (s.setHart p x).lostDies = s.lostDies := by unfold State.setHart; split <;> rfl
@[simp] theorem state_setHart_carter (s : State) (p : Place) (x : Hart) : (s.setHart p x).carter = s.carter := by unfold State.setHart; split <;> rfl
@[simp] theorem state_setHart_recovery (s : State) (p : Place) (x : Hart) : (s.setHart p x).recovery = s.recovery := by unfold State.setHart; split <;> rfl
@[simp] theorem state_setHart_leaf (s : State) (p : Place) (x : Hart) : (s.setHart p x).leaf = s.leaf := by unfold State.setHart; split <;> rfl
@[simp] theorem state_setHart_hostOut (s : State) (p : Place) (x : Hart) : (s.setHart p x).hostOut = s.hostOut := by unfold State.setHart; split <;> rfl
@[simp] theorem state_setHart_timeout (s : State) (p : Place) (x : Hart) : (s.setHart p x).timeout = s.timeout := by unfold State.setHart; split <;> rfl
@[simp] theorem state_setHart_heldSaves (s : State) (p : Place) (x : Hart) : (s.setHart p x).heldSaves = s.heldSaves := by unfold State.setHart; split <;> rfl

@[simp] theorem state_switchTo_member (s : State) (p : Place) : (s.switchTo p).member = s.member := by unfold State.switchTo; split <;> rfl
@[simp] theorem state_switchTo_turns (s : State) (p : Place) : (s.switchTo p).turns = s.turns := by unfold State.switchTo; split <;> rfl
@[simp] theorem state_switchTo_free (s : State) (p : Place) : (s.switchTo p).free = s.free := by unfold State.switchTo; split <;> rfl
@[simp] theorem state_switchTo_clock (s : State) (p : Place) : (s.switchTo p).clock = s.clock := by unfold State.switchTo; split <;> rfl
@[simp] theorem state_switchTo_mem (s : State) (p : Place) : (s.switchTo p).mem = s.mem := by unfold State.switchTo; split <;> rfl
@[simp] theorem state_switchTo_poison (s : State) (p : Place) : (s.switchTo p).poison = s.poison := by unfold State.switchTo; split <;> rfl
@[simp] theorem state_switchTo_cores (s : State) (p : Place) : (s.switchTo p).cores = s.cores := by unfold State.switchTo; split <;> rfl
@[simp] theorem state_switchTo_parishes (s : State) (p : Place) : (s.switchTo p).parishes = s.parishes := by unfold State.switchTo; split <;> rfl
@[simp] theorem state_switchTo_crofts (s : State) (p : Place) : (s.switchTo p).crofts = s.crofts := by unfold State.switchTo; split <;> rfl
@[simp] theorem state_switchTo_coh (s : State) (p : Place) : (s.switchTo p).coh = s.coh := by unfold State.switchTo; split <;> rfl
@[simp] theorem state_switchTo_moots (s : State) (p : Place) : (s.switchTo p).moots = s.moots := by unfold State.switchTo; split <;> rfl
@[simp] theorem state_switchTo_copyQ (s : State) (p : Place) : (s.switchTo p).copyQ = s.copyQ := by unfold State.switchTo; split <;> rfl
@[simp] theorem state_switchTo_walkQ (s : State) (p : Place) : (s.switchTo p).walkQ = s.walkQ := by unfold State.switchTo; split <;> rfl
@[simp] theorem state_switchTo_kickQ (s : State) (p : Place) : (s.switchTo p).kickQ = s.kickQ := by unfold State.switchTo; split <;> rfl
@[simp] theorem state_switchTo_lockQ (s : State) (p : Place) : (s.switchTo p).lockQ = s.lockQ := by unfold State.switchTo; split <;> rfl
@[simp] theorem state_switchTo_lockWait (s : State) (p : Place) : (s.switchTo p).lockWait = s.lockWait := by unfold State.switchTo; split <;> rfl
@[simp] theorem state_switchTo_engTlb (s : State) (p : Place) : (s.switchTo p).engTlb = s.engTlb := by unfold State.switchTo; split <;> rfl
@[simp] theorem state_switchTo_keys (s : State) (p : Place) : (s.switchTo p).keys = s.keys := by unfold State.switchTo; split <;> rfl
@[simp] theorem state_switchTo_migs (s : State) (p : Place) : (s.switchTo p).migs = s.migs := by unfold State.switchTo; split <;> rfl
@[simp] theorem state_switchTo_migrating (s : State) (p : Place) : (s.switchTo p).migrating = s.migrating := by unfold State.switchTo; split <;> rfl
@[simp] theorem state_switchTo_window (s : State) (p : Place) : (s.switchTo p).window = s.window := by unfold State.switchTo; split <;> rfl
@[simp] theorem state_switchTo_posts (s : State) (p : Place) : (s.switchTo p).posts = s.posts := by unfold State.switchTo; split <;> rfl
@[simp] theorem state_switchTo_ranges (s : State) (p : Place) : (s.switchTo p).ranges = s.ranges := by unfold State.switchTo; split <;> rfl
@[simp] theorem state_switchTo_funcs (s : State) (p : Place) : (s.switchTo p).funcs = s.funcs := by unfold State.switchTo; split <;> rfl
@[simp] theorem state_switchTo_present (s : State) (p : Place) : (s.switchTo p).present = s.present := by unfold State.switchTo; split <;> rfl
@[simp] theorem state_switchTo_self (s : State) (p : Place) : (s.switchTo p).self = s.self := by unfold State.switchTo; split <;> rfl
@[simp] theorem state_switchTo_endpoints (s : State) (p : Place) : (s.switchTo p).endpoints = s.endpoints := by unfold State.switchTo; split <;> rfl
@[simp] theorem state_switchTo_hashsel (s : State) (p : Place) : (s.switchTo p).hashsel = s.hashsel := by unfold State.switchTo; split <;> rfl
@[simp] theorem state_switchTo_rates (s : State) (p : Place) : (s.switchTo p).rates = s.rates := by unfold State.switchTo; split <;> rfl
@[simp] theorem state_switchTo_switching (s : State) (p : Place) : (s.switchTo p).switching = s.switching := by unfold State.switchTo; split <;> rfl
@[simp] theorem state_switchTo_raslog (s : State) (p : Place) : (s.switchTo p).raslog = s.raslog := by unfold State.switchTo; split <;> rfl
@[simp] theorem state_switchTo_raslost (s : State) (p : Place) : (s.switchTo p).raslost = s.raslost := by unfold State.switchTo; split <;> rfl
@[simp] theorem state_switchTo_counts (s : State) (p : Place) : (s.switchTo p).counts = s.counts := by unfold State.switchTo; split <;> rfl
@[simp] theorem state_switchTo_retired (s : State) (p : Place) : (s.switchTo p).retired = s.retired := by unfold State.switchTo; split <;> rfl
@[simp] theorem state_switchTo_links (s : State) (p : Place) : (s.switchTo p).links = s.links := by unfold State.switchTo; split <;> rfl
@[simp] theorem state_switchTo_waking (s : State) (p : Place) : (s.switchTo p).waking = s.waking := by unfold State.switchTo; split <;> rfl
@[simp] theorem state_switchTo_reqHeld (s : State) (p : Place) : (s.switchTo p).reqHeld = s.reqHeld := by unfold State.switchTo; split <;> rfl
@[simp] theorem state_switchTo_slotWrites (s : State) (p : Place) : (s.switchTo p).slotWrites = s.slotWrites := by unfold State.switchTo; split <;> rfl
@[simp] theorem state_switchTo_cxlHeld (s : State) (p : Place) : (s.switchTo p).cxlHeld = s.cxlHeld := by unfold State.switchTo; split <;> rfl
@[simp] theorem state_switchTo_updHeld (s : State) (p : Place) : (s.switchTo p).updHeld = s.updHeld := by unfold State.switchTo; split <;> rfl
@[simp] theorem state_switchTo_lostDies (s : State) (p : Place) : (s.switchTo p).lostDies = s.lostDies := by unfold State.switchTo; split <;> rfl
@[simp] theorem state_switchTo_carter (s : State) (p : Place) : (s.switchTo p).carter = s.carter := by unfold State.switchTo; split <;> rfl
@[simp] theorem state_switchTo_recovery (s : State) (p : Place) : (s.switchTo p).recovery = s.recovery := by unfold State.switchTo; split <;> rfl
@[simp] theorem state_switchTo_leaf (s : State) (p : Place) : (s.switchTo p).leaf = s.leaf := by unfold State.switchTo; split <;> rfl
@[simp] theorem state_switchTo_hostOut (s : State) (p : Place) : (s.switchTo p).hostOut = s.hostOut := by unfold State.switchTo; split <;> rfl
@[simp] theorem state_switchTo_timeout (s : State) (p : Place) : (s.switchTo p).timeout = s.timeout := by unfold State.switchTo; split <;> rfl
@[simp] theorem state_switchTo_heldSaves (s : State) (p : Place) : (s.switchTo p).heldSaves = s.heldSaves := by unfold State.switchTo; split <;> rfl

@[simp] theorem state_stall_member (s : State) : (s.stall).member = s.member := rfl
@[simp] theorem state_stall_here (s : State) : (s.stall).here = s.here := rfl
@[simp] theorem state_stall_others (s : State) : (s.stall).others = s.others := rfl
@[simp] theorem state_stall_turns (s : State) : (s.stall).turns = s.turns := rfl
@[simp] theorem state_stall_free (s : State) : (s.stall).free = s.free := rfl
@[simp] theorem state_stall_clock (s : State) : (s.stall).clock = s.clock := rfl
@[simp] theorem state_stall_mem (s : State) : (s.stall).mem = s.mem := rfl
@[simp] theorem state_stall_poison (s : State) : (s.stall).poison = s.poison := rfl
@[simp] theorem state_stall_cores (s : State) : (s.stall).cores = s.cores := rfl
@[simp] theorem state_stall_parishes (s : State) : (s.stall).parishes = s.parishes := rfl
@[simp] theorem state_stall_crofts (s : State) : (s.stall).crofts = s.crofts := rfl
@[simp] theorem state_stall_coh (s : State) : (s.stall).coh = s.coh := rfl
@[simp] theorem state_stall_moots (s : State) : (s.stall).moots = s.moots := rfl
@[simp] theorem state_stall_copyQ (s : State) : (s.stall).copyQ = s.copyQ := rfl
@[simp] theorem state_stall_walkQ (s : State) : (s.stall).walkQ = s.walkQ := rfl
@[simp] theorem state_stall_kickQ (s : State) : (s.stall).kickQ = s.kickQ := rfl
@[simp] theorem state_stall_lockQ (s : State) : (s.stall).lockQ = s.lockQ := rfl
@[simp] theorem state_stall_lockWait (s : State) : (s.stall).lockWait = s.lockWait := rfl
@[simp] theorem state_stall_engTlb (s : State) : (s.stall).engTlb = s.engTlb := rfl
@[simp] theorem state_stall_keys (s : State) : (s.stall).keys = s.keys := rfl
@[simp] theorem state_stall_migs (s : State) : (s.stall).migs = s.migs := rfl
@[simp] theorem state_stall_migrating (s : State) : (s.stall).migrating = s.migrating := rfl
@[simp] theorem state_stall_window (s : State) : (s.stall).window = s.window := rfl
@[simp] theorem state_stall_posts (s : State) : (s.stall).posts = s.posts := rfl
@[simp] theorem state_stall_ranges (s : State) : (s.stall).ranges = s.ranges := rfl
@[simp] theorem state_stall_funcs (s : State) : (s.stall).funcs = s.funcs := rfl
@[simp] theorem state_stall_present (s : State) : (s.stall).present = s.present := rfl
@[simp] theorem state_stall_self (s : State) : (s.stall).self = s.self := rfl
@[simp] theorem state_stall_endpoints (s : State) : (s.stall).endpoints = s.endpoints := rfl
@[simp] theorem state_stall_hashsel (s : State) : (s.stall).hashsel = s.hashsel := rfl
@[simp] theorem state_stall_rates (s : State) : (s.stall).rates = s.rates := rfl
@[simp] theorem state_stall_switching (s : State) : (s.stall).switching = s.switching := rfl
@[simp] theorem state_stall_raslog (s : State) : (s.stall).raslog = s.raslog := rfl
@[simp] theorem state_stall_raslost (s : State) : (s.stall).raslost = s.raslost := rfl
@[simp] theorem state_stall_counts (s : State) : (s.stall).counts = s.counts := rfl
@[simp] theorem state_stall_retired (s : State) : (s.stall).retired = s.retired := rfl
@[simp] theorem state_stall_links (s : State) : (s.stall).links = s.links := rfl
@[simp] theorem state_stall_waking (s : State) : (s.stall).waking = s.waking := rfl
@[simp] theorem state_stall_reqHeld (s : State) : (s.stall).reqHeld = s.reqHeld := rfl
@[simp] theorem state_stall_slotWrites (s : State) : (s.stall).slotWrites = s.slotWrites := rfl
@[simp] theorem state_stall_cxlHeld (s : State) : (s.stall).cxlHeld = s.cxlHeld := rfl
@[simp] theorem state_stall_updHeld (s : State) : (s.stall).updHeld = s.updHeld := rfl
@[simp] theorem state_stall_lostDies (s : State) : (s.stall).lostDies = s.lostDies := rfl
@[simp] theorem state_stall_carter (s : State) : (s.stall).carter = s.carter := rfl
@[simp] theorem state_stall_recovery (s : State) : (s.stall).recovery = s.recovery := rfl
@[simp] theorem state_stall_leaf (s : State) : (s.stall).leaf = s.leaf := rfl
@[simp] theorem state_stall_hostOut (s : State) : (s.stall).hostOut = s.hostOut := rfl
@[simp] theorem state_stall_timeout (s : State) : (s.stall).timeout = s.timeout := rfl
@[simp] theorem state_stall_heldSaves (s : State) : (s.stall).heldSaves = s.heldSaves := rfl

@[simp] theorem state_pop_member (s : State) (l : List GReg) : (s.pop l).member = s.member := rfl
@[simp] theorem state_pop_here (s : State) (l : List GReg) : (s.pop l).here = s.here := rfl
@[simp] theorem state_pop_others (s : State) (l : List GReg) : (s.pop l).others = s.others := rfl
@[simp] theorem state_pop_turns (s : State) (l : List GReg) : (s.pop l).turns = s.turns := rfl
@[simp] theorem state_pop_free (s : State) (l : List GReg) : (s.pop l).free = s.free := rfl
@[simp] theorem state_pop_clock (s : State) (l : List GReg) : (s.pop l).clock = s.clock := rfl
@[simp] theorem state_pop_mem (s : State) (l : List GReg) : (s.pop l).mem = s.mem := rfl
@[simp] theorem state_pop_poison (s : State) (l : List GReg) : (s.pop l).poison = s.poison := rfl
@[simp] theorem state_pop_cores (s : State) (l : List GReg) : (s.pop l).cores = s.cores := rfl
@[simp] theorem state_pop_parishes (s : State) (l : List GReg) : (s.pop l).parishes = s.parishes := rfl
@[simp] theorem state_pop_crofts (s : State) (l : List GReg) : (s.pop l).crofts = s.crofts := rfl
@[simp] theorem state_pop_coh (s : State) (l : List GReg) : (s.pop l).coh = s.coh := rfl
@[simp] theorem state_pop_moots (s : State) (l : List GReg) : (s.pop l).moots = s.moots := rfl
@[simp] theorem state_pop_copyQ (s : State) (l : List GReg) : (s.pop l).copyQ = s.copyQ := rfl
@[simp] theorem state_pop_walkQ (s : State) (l : List GReg) : (s.pop l).walkQ = s.walkQ := rfl
@[simp] theorem state_pop_kickQ (s : State) (l : List GReg) : (s.pop l).kickQ = s.kickQ := rfl
@[simp] theorem state_pop_lockQ (s : State) (l : List GReg) : (s.pop l).lockQ = s.lockQ := rfl
@[simp] theorem state_pop_lockWait (s : State) (l : List GReg) : (s.pop l).lockWait = s.lockWait := rfl
@[simp] theorem state_pop_engTlb (s : State) (l : List GReg) : (s.pop l).engTlb = s.engTlb := rfl
@[simp] theorem state_pop_keys (s : State) (l : List GReg) : (s.pop l).keys = s.keys := rfl
@[simp] theorem state_pop_migs (s : State) (l : List GReg) : (s.pop l).migs = s.migs := rfl
@[simp] theorem state_pop_migrating (s : State) (l : List GReg) : (s.pop l).migrating = s.migrating := rfl
@[simp] theorem state_pop_window (s : State) (l : List GReg) : (s.pop l).window = s.window := rfl
@[simp] theorem state_pop_posts (s : State) (l : List GReg) : (s.pop l).posts = s.posts := rfl
@[simp] theorem state_pop_ranges (s : State) (l : List GReg) : (s.pop l).ranges = s.ranges := rfl
@[simp] theorem state_pop_funcs (s : State) (l : List GReg) : (s.pop l).funcs = s.funcs := rfl
@[simp] theorem state_pop_present (s : State) (l : List GReg) : (s.pop l).present = s.present := rfl
@[simp] theorem state_pop_self (s : State) (l : List GReg) : (s.pop l).self = s.self := rfl
@[simp] theorem state_pop_endpoints (s : State) (l : List GReg) : (s.pop l).endpoints = s.endpoints := rfl
@[simp] theorem state_pop_hashsel (s : State) (l : List GReg) : (s.pop l).hashsel = s.hashsel := rfl
@[simp] theorem state_pop_rates (s : State) (l : List GReg) : (s.pop l).rates = s.rates := rfl
@[simp] theorem state_pop_switching (s : State) (l : List GReg) : (s.pop l).switching = s.switching := rfl
@[simp] theorem state_pop_raslog (s : State) (l : List GReg) : (s.pop l).raslog = s.raslog := rfl
@[simp] theorem state_pop_raslost (s : State) (l : List GReg) : (s.pop l).raslost = s.raslost := rfl
@[simp] theorem state_pop_counts (s : State) (l : List GReg) : (s.pop l).counts = s.counts := rfl
@[simp] theorem state_pop_retired (s : State) (l : List GReg) : (s.pop l).retired = s.retired := rfl
@[simp] theorem state_pop_links (s : State) (l : List GReg) : (s.pop l).links = s.links := rfl
@[simp] theorem state_pop_waking (s : State) (l : List GReg) : (s.pop l).waking = s.waking := rfl
@[simp] theorem state_pop_reqHeld (s : State) (l : List GReg) : (s.pop l).reqHeld = s.reqHeld := rfl
@[simp] theorem state_pop_slotWrites (s : State) (l : List GReg) : (s.pop l).slotWrites = s.slotWrites := rfl
@[simp] theorem state_pop_cxlHeld (s : State) (l : List GReg) : (s.pop l).cxlHeld = s.cxlHeld := rfl
@[simp] theorem state_pop_updHeld (s : State) (l : List GReg) : (s.pop l).updHeld = s.updHeld := rfl
@[simp] theorem state_pop_lostDies (s : State) (l : List GReg) : (s.pop l).lostDies = s.lostDies := rfl
@[simp] theorem state_pop_carter (s : State) (l : List GReg) : (s.pop l).carter = s.carter := rfl
@[simp] theorem state_pop_recovery (s : State) (l : List GReg) : (s.pop l).recovery = s.recovery := rfl
@[simp] theorem state_pop_leaf (s : State) (l : List GReg) : (s.pop l).leaf = s.leaf := rfl
@[simp] theorem state_pop_hostOut (s : State) (l : List GReg) : (s.pop l).hostOut = s.hostOut := rfl
@[simp] theorem state_pop_timeout (s : State) (l : List GReg) : (s.pop l).timeout = s.timeout := rfl
@[simp] theorem state_pop_heldSaves (s : State) (l : List GReg) : (s.pop l).heldSaves = s.heldSaves := rfl

@[simp] theorem state_retire_member (s : State) (n : Nat) (k : Mix) : (s.retire n k).member = s.member := rfl
@[simp] theorem state_retire_here (s : State) (n : Nat) (k : Mix) : (s.retire n k).here = s.here := rfl
@[simp] theorem state_retire_others (s : State) (n : Nat) (k : Mix) : (s.retire n k).others = s.others := rfl
@[simp] theorem state_retire_turns (s : State) (n : Nat) (k : Mix) : (s.retire n k).turns = s.turns := rfl
@[simp] theorem state_retire_free (s : State) (n : Nat) (k : Mix) : (s.retire n k).free = s.free := rfl
@[simp] theorem state_retire_clock (s : State) (n : Nat) (k : Mix) : (s.retire n k).clock = s.clock := rfl
@[simp] theorem state_retire_mem (s : State) (n : Nat) (k : Mix) : (s.retire n k).mem = s.mem := rfl
@[simp] theorem state_retire_poison (s : State) (n : Nat) (k : Mix) : (s.retire n k).poison = s.poison := rfl
@[simp] theorem state_retire_cores (s : State) (n : Nat) (k : Mix) : (s.retire n k).cores = s.cores := rfl
@[simp] theorem state_retire_parishes (s : State) (n : Nat) (k : Mix) : (s.retire n k).parishes = s.parishes := rfl
@[simp] theorem state_retire_crofts (s : State) (n : Nat) (k : Mix) : (s.retire n k).crofts = s.crofts := rfl
@[simp] theorem state_retire_coh (s : State) (n : Nat) (k : Mix) : (s.retire n k).coh = s.coh := rfl
@[simp] theorem state_retire_moots (s : State) (n : Nat) (k : Mix) : (s.retire n k).moots = s.moots := rfl
@[simp] theorem state_retire_copyQ (s : State) (n : Nat) (k : Mix) : (s.retire n k).copyQ = s.copyQ := rfl
@[simp] theorem state_retire_walkQ (s : State) (n : Nat) (k : Mix) : (s.retire n k).walkQ = s.walkQ := rfl
@[simp] theorem state_retire_kickQ (s : State) (n : Nat) (k : Mix) : (s.retire n k).kickQ = s.kickQ := rfl
@[simp] theorem state_retire_lockQ (s : State) (n : Nat) (k : Mix) : (s.retire n k).lockQ = s.lockQ := rfl
@[simp] theorem state_retire_lockWait (s : State) (n : Nat) (k : Mix) : (s.retire n k).lockWait = s.lockWait := rfl
@[simp] theorem state_retire_engTlb (s : State) (n : Nat) (k : Mix) : (s.retire n k).engTlb = s.engTlb := rfl
@[simp] theorem state_retire_keys (s : State) (n : Nat) (k : Mix) : (s.retire n k).keys = s.keys := rfl
@[simp] theorem state_retire_migs (s : State) (n : Nat) (k : Mix) : (s.retire n k).migs = s.migs := rfl
@[simp] theorem state_retire_migrating (s : State) (n : Nat) (k : Mix) : (s.retire n k).migrating = s.migrating := rfl
@[simp] theorem state_retire_window (s : State) (n : Nat) (k : Mix) : (s.retire n k).window = s.window := rfl
@[simp] theorem state_retire_posts (s : State) (n : Nat) (k : Mix) : (s.retire n k).posts = s.posts := rfl
@[simp] theorem state_retire_ranges (s : State) (n : Nat) (k : Mix) : (s.retire n k).ranges = s.ranges := rfl
@[simp] theorem state_retire_funcs (s : State) (n : Nat) (k : Mix) : (s.retire n k).funcs = s.funcs := rfl
@[simp] theorem state_retire_present (s : State) (n : Nat) (k : Mix) : (s.retire n k).present = s.present := rfl
@[simp] theorem state_retire_self (s : State) (n : Nat) (k : Mix) : (s.retire n k).self = s.self := rfl
@[simp] theorem state_retire_endpoints (s : State) (n : Nat) (k : Mix) : (s.retire n k).endpoints = s.endpoints := rfl
@[simp] theorem state_retire_hashsel (s : State) (n : Nat) (k : Mix) : (s.retire n k).hashsel = s.hashsel := rfl
@[simp] theorem state_retire_rates (s : State) (n : Nat) (k : Mix) : (s.retire n k).rates = s.rates := rfl
@[simp] theorem state_retire_switching (s : State) (n : Nat) (k : Mix) : (s.retire n k).switching = s.switching := rfl
@[simp] theorem state_retire_raslog (s : State) (n : Nat) (k : Mix) : (s.retire n k).raslog = s.raslog := rfl
@[simp] theorem state_retire_raslost (s : State) (n : Nat) (k : Mix) : (s.retire n k).raslost = s.raslost := rfl
@[simp] theorem state_retire_counts (s : State) (n : Nat) (k : Mix) : (s.retire n k).counts = s.counts := rfl
@[simp] theorem state_retire_retired (s : State) (n : Nat) (k : Mix) : (s.retire n k).retired = s.retired := rfl
@[simp] theorem state_retire_links (s : State) (n : Nat) (k : Mix) : (s.retire n k).links = s.links := rfl
@[simp] theorem state_retire_waking (s : State) (n : Nat) (k : Mix) : (s.retire n k).waking = s.waking := rfl
@[simp] theorem state_retire_reqHeld (s : State) (n : Nat) (k : Mix) : (s.retire n k).reqHeld = s.reqHeld := rfl
@[simp] theorem state_retire_slotWrites (s : State) (n : Nat) (k : Mix) : (s.retire n k).slotWrites = s.slotWrites := rfl
@[simp] theorem state_retire_cxlHeld (s : State) (n : Nat) (k : Mix) : (s.retire n k).cxlHeld = s.cxlHeld := rfl
@[simp] theorem state_retire_updHeld (s : State) (n : Nat) (k : Mix) : (s.retire n k).updHeld = s.updHeld := rfl
@[simp] theorem state_retire_lostDies (s : State) (n : Nat) (k : Mix) : (s.retire n k).lostDies = s.lostDies := rfl
@[simp] theorem state_retire_carter (s : State) (n : Nat) (k : Mix) : (s.retire n k).carter = s.carter := rfl
@[simp] theorem state_retire_recovery (s : State) (n : Nat) (k : Mix) : (s.retire n k).recovery = s.recovery := rfl
@[simp] theorem state_retire_leaf (s : State) (n : Nat) (k : Mix) : (s.retire n k).leaf = s.leaf := rfl
@[simp] theorem state_retire_hostOut (s : State) (n : Nat) (k : Mix) : (s.retire n k).hostOut = s.hostOut := rfl
@[simp] theorem state_retire_timeout (s : State) (n : Nat) (k : Mix) : (s.retire n k).timeout = s.timeout := rfl
@[simp] theorem state_retire_heldSaves (s : State) (n : Nat) (k : Mix) : (s.retire n k).heldSaves = s.heldSaves := rfl

@[simp] theorem state_goto_member (s : State) (w : Word) : (s.goto w).member = s.member := rfl
@[simp] theorem state_goto_here (s : State) (w : Word) : (s.goto w).here = s.here := rfl
@[simp] theorem state_goto_others (s : State) (w : Word) : (s.goto w).others = s.others := rfl
@[simp] theorem state_goto_turns (s : State) (w : Word) : (s.goto w).turns = s.turns := rfl
@[simp] theorem state_goto_free (s : State) (w : Word) : (s.goto w).free = s.free := rfl
@[simp] theorem state_goto_clock (s : State) (w : Word) : (s.goto w).clock = s.clock := rfl
@[simp] theorem state_goto_mem (s : State) (w : Word) : (s.goto w).mem = s.mem := rfl
@[simp] theorem state_goto_poison (s : State) (w : Word) : (s.goto w).poison = s.poison := rfl
@[simp] theorem state_goto_cores (s : State) (w : Word) : (s.goto w).cores = s.cores := rfl
@[simp] theorem state_goto_parishes (s : State) (w : Word) : (s.goto w).parishes = s.parishes := rfl
@[simp] theorem state_goto_crofts (s : State) (w : Word) : (s.goto w).crofts = s.crofts := rfl
@[simp] theorem state_goto_coh (s : State) (w : Word) : (s.goto w).coh = s.coh := rfl
@[simp] theorem state_goto_moots (s : State) (w : Word) : (s.goto w).moots = s.moots := rfl
@[simp] theorem state_goto_copyQ (s : State) (w : Word) : (s.goto w).copyQ = s.copyQ := rfl
@[simp] theorem state_goto_walkQ (s : State) (w : Word) : (s.goto w).walkQ = s.walkQ := rfl
@[simp] theorem state_goto_kickQ (s : State) (w : Word) : (s.goto w).kickQ = s.kickQ := rfl
@[simp] theorem state_goto_lockQ (s : State) (w : Word) : (s.goto w).lockQ = s.lockQ := rfl
@[simp] theorem state_goto_lockWait (s : State) (w : Word) : (s.goto w).lockWait = s.lockWait := rfl
@[simp] theorem state_goto_engTlb (s : State) (w : Word) : (s.goto w).engTlb = s.engTlb := rfl
@[simp] theorem state_goto_keys (s : State) (w : Word) : (s.goto w).keys = s.keys := rfl
@[simp] theorem state_goto_migs (s : State) (w : Word) : (s.goto w).migs = s.migs := rfl
@[simp] theorem state_goto_migrating (s : State) (w : Word) : (s.goto w).migrating = s.migrating := rfl
@[simp] theorem state_goto_window (s : State) (w : Word) : (s.goto w).window = s.window := rfl
@[simp] theorem state_goto_posts (s : State) (w : Word) : (s.goto w).posts = s.posts := rfl
@[simp] theorem state_goto_ranges (s : State) (w : Word) : (s.goto w).ranges = s.ranges := rfl
@[simp] theorem state_goto_funcs (s : State) (w : Word) : (s.goto w).funcs = s.funcs := rfl
@[simp] theorem state_goto_present (s : State) (w : Word) : (s.goto w).present = s.present := rfl
@[simp] theorem state_goto_self (s : State) (w : Word) : (s.goto w).self = s.self := rfl
@[simp] theorem state_goto_endpoints (s : State) (w : Word) : (s.goto w).endpoints = s.endpoints := rfl
@[simp] theorem state_goto_hashsel (s : State) (w : Word) : (s.goto w).hashsel = s.hashsel := rfl
@[simp] theorem state_goto_rates (s : State) (w : Word) : (s.goto w).rates = s.rates := rfl
@[simp] theorem state_goto_switching (s : State) (w : Word) : (s.goto w).switching = s.switching := rfl
@[simp] theorem state_goto_raslog (s : State) (w : Word) : (s.goto w).raslog = s.raslog := rfl
@[simp] theorem state_goto_raslost (s : State) (w : Word) : (s.goto w).raslost = s.raslost := rfl
@[simp] theorem state_goto_counts (s : State) (w : Word) : (s.goto w).counts = s.counts := rfl
@[simp] theorem state_goto_retired (s : State) (w : Word) : (s.goto w).retired = s.retired := rfl
@[simp] theorem state_goto_links (s : State) (w : Word) : (s.goto w).links = s.links := rfl
@[simp] theorem state_goto_waking (s : State) (w : Word) : (s.goto w).waking = s.waking := rfl
@[simp] theorem state_goto_reqHeld (s : State) (w : Word) : (s.goto w).reqHeld = s.reqHeld := rfl
@[simp] theorem state_goto_slotWrites (s : State) (w : Word) : (s.goto w).slotWrites = s.slotWrites := rfl
@[simp] theorem state_goto_cxlHeld (s : State) (w : Word) : (s.goto w).cxlHeld = s.cxlHeld := rfl
@[simp] theorem state_goto_updHeld (s : State) (w : Word) : (s.goto w).updHeld = s.updHeld := rfl
@[simp] theorem state_goto_lostDies (s : State) (w : Word) : (s.goto w).lostDies = s.lostDies := rfl
@[simp] theorem state_goto_carter (s : State) (w : Word) : (s.goto w).carter = s.carter := rfl
@[simp] theorem state_goto_recovery (s : State) (w : Word) : (s.goto w).recovery = s.recovery := rfl
@[simp] theorem state_goto_leaf (s : State) (w : Word) : (s.goto w).leaf = s.leaf := rfl
@[simp] theorem state_goto_hostOut (s : State) (w : Word) : (s.goto w).hostOut = s.hostOut := rfl
@[simp] theorem state_goto_timeout (s : State) (w : Word) : (s.goto w).timeout = s.timeout := rfl
@[simp] theorem state_goto_heldSaves (s : State) (w : Word) : (s.goto w).heldSaves = s.heldSaves := rfl

@[simp] theorem state_fillWord_member (s : State) (n : Nat) (w : Word) : (s.fillWord n w).member = s.member := by
  unfold State.fillWord; split; · rfl
  dsimp only; split <;> rfl
@[simp] theorem state_fillWord_here (s : State) (n : Nat) (w : Word) : (s.fillWord n w).here = s.here := by
  unfold State.fillWord; split; · rfl
  dsimp only; split <;> rfl
@[simp] theorem state_fillWord_others (s : State) (n : Nat) (w : Word) : (s.fillWord n w).others = s.others := by
  unfold State.fillWord; split; · rfl
  dsimp only; split <;> rfl
@[simp] theorem state_fillWord_turns (s : State) (n : Nat) (w : Word) : (s.fillWord n w).turns = s.turns := by
  unfold State.fillWord; split; · rfl
  dsimp only; split <;> rfl
@[simp] theorem state_fillWord_free (s : State) (n : Nat) (w : Word) : (s.fillWord n w).free = s.free := by
  unfold State.fillWord; split; · rfl
  dsimp only; split <;> rfl
@[simp] theorem state_fillWord_clock (s : State) (n : Nat) (w : Word) : (s.fillWord n w).clock = s.clock := by
  unfold State.fillWord; split; · rfl
  dsimp only; split <;> rfl
@[simp] theorem state_fillWord_mem (s : State) (n : Nat) (w : Word) : (s.fillWord n w).mem = s.mem := by
  unfold State.fillWord; split; · rfl
  dsimp only; split <;> rfl
@[simp] theorem state_fillWord_poison (s : State) (n : Nat) (w : Word) : (s.fillWord n w).poison = s.poison := by
  unfold State.fillWord; split; · rfl
  dsimp only; split <;> rfl
@[simp] theorem state_fillWord_parishes (s : State) (n : Nat) (w : Word) : (s.fillWord n w).parishes = s.parishes := by
  unfold State.fillWord; split; · rfl
  dsimp only; split <;> rfl
@[simp] theorem state_fillWord_crofts (s : State) (n : Nat) (w : Word) : (s.fillWord n w).crofts = s.crofts := by
  unfold State.fillWord; split; · rfl
  dsimp only; split <;> rfl
@[simp] theorem state_fillWord_coh (s : State) (n : Nat) (w : Word) : (s.fillWord n w).coh = s.coh := by
  unfold State.fillWord; split; · rfl
  dsimp only; split <;> rfl
@[simp] theorem state_fillWord_moots (s : State) (n : Nat) (w : Word) : (s.fillWord n w).moots = s.moots := by
  unfold State.fillWord; split; · rfl
  dsimp only; split <;> rfl
@[simp] theorem state_fillWord_copyQ (s : State) (n : Nat) (w : Word) : (s.fillWord n w).copyQ = s.copyQ := by
  unfold State.fillWord; split; · rfl
  dsimp only; split <;> rfl
@[simp] theorem state_fillWord_walkQ (s : State) (n : Nat) (w : Word) : (s.fillWord n w).walkQ = s.walkQ := by
  unfold State.fillWord; split; · rfl
  dsimp only; split <;> rfl
@[simp] theorem state_fillWord_kickQ (s : State) (n : Nat) (w : Word) : (s.fillWord n w).kickQ = s.kickQ := by
  unfold State.fillWord; split; · rfl
  dsimp only; split <;> rfl
@[simp] theorem state_fillWord_lockQ (s : State) (n : Nat) (w : Word) : (s.fillWord n w).lockQ = s.lockQ := by
  unfold State.fillWord; split; · rfl
  dsimp only; split <;> rfl
@[simp] theorem state_fillWord_lockWait (s : State) (n : Nat) (w : Word) : (s.fillWord n w).lockWait = s.lockWait := by
  unfold State.fillWord; split; · rfl
  dsimp only; split <;> rfl
@[simp] theorem state_fillWord_engTlb (s : State) (n : Nat) (w : Word) : (s.fillWord n w).engTlb = s.engTlb := by
  unfold State.fillWord; split; · rfl
  dsimp only; split <;> rfl
@[simp] theorem state_fillWord_keys (s : State) (n : Nat) (w : Word) : (s.fillWord n w).keys = s.keys := by
  unfold State.fillWord; split; · rfl
  dsimp only; split <;> rfl
@[simp] theorem state_fillWord_migs (s : State) (n : Nat) (w : Word) : (s.fillWord n w).migs = s.migs := by
  unfold State.fillWord; split; · rfl
  dsimp only; split <;> rfl
@[simp] theorem state_fillWord_migrating (s : State) (n : Nat) (w : Word) : (s.fillWord n w).migrating = s.migrating := by
  unfold State.fillWord; split; · rfl
  dsimp only; split <;> rfl
@[simp] theorem state_fillWord_window (s : State) (n : Nat) (w : Word) : (s.fillWord n w).window = s.window := by
  unfold State.fillWord; split; · rfl
  dsimp only; split <;> rfl
@[simp] theorem state_fillWord_posts (s : State) (n : Nat) (w : Word) : (s.fillWord n w).posts = s.posts := by
  unfold State.fillWord; split; · rfl
  dsimp only; split <;> rfl
@[simp] theorem state_fillWord_ranges (s : State) (n : Nat) (w : Word) : (s.fillWord n w).ranges = s.ranges := by
  unfold State.fillWord; split; · rfl
  dsimp only; split <;> rfl
@[simp] theorem state_fillWord_funcs (s : State) (n : Nat) (w : Word) : (s.fillWord n w).funcs = s.funcs := by
  unfold State.fillWord; split; · rfl
  dsimp only; split <;> rfl
@[simp] theorem state_fillWord_present (s : State) (n : Nat) (w : Word) : (s.fillWord n w).present = s.present := by
  unfold State.fillWord; split; · rfl
  dsimp only; split <;> rfl
@[simp] theorem state_fillWord_self (s : State) (n : Nat) (w : Word) : (s.fillWord n w).self = s.self := by
  unfold State.fillWord; split; · rfl
  dsimp only; split <;> rfl
@[simp] theorem state_fillWord_endpoints (s : State) (n : Nat) (w : Word) : (s.fillWord n w).endpoints = s.endpoints := by
  unfold State.fillWord; split; · rfl
  dsimp only; split <;> rfl
@[simp] theorem state_fillWord_hashsel (s : State) (n : Nat) (w : Word) : (s.fillWord n w).hashsel = s.hashsel := by
  unfold State.fillWord; split; · rfl
  dsimp only; split <;> rfl
@[simp] theorem state_fillWord_rates (s : State) (n : Nat) (w : Word) : (s.fillWord n w).rates = s.rates := by
  unfold State.fillWord; split; · rfl
  dsimp only; split <;> rfl
@[simp] theorem state_fillWord_switching (s : State) (n : Nat) (w : Word) : (s.fillWord n w).switching = s.switching := by
  unfold State.fillWord; split; · rfl
  dsimp only; split <;> rfl
@[simp] theorem state_fillWord_raslog (s : State) (n : Nat) (w : Word) : (s.fillWord n w).raslog = s.raslog := by
  unfold State.fillWord; split; · rfl
  dsimp only; split <;> rfl
@[simp] theorem state_fillWord_raslost (s : State) (n : Nat) (w : Word) : (s.fillWord n w).raslost = s.raslost := by
  unfold State.fillWord; split; · rfl
  dsimp only; split <;> rfl
@[simp] theorem state_fillWord_counts (s : State) (n : Nat) (w : Word) : (s.fillWord n w).counts = s.counts := by
  unfold State.fillWord; split; · rfl
  dsimp only; split <;> rfl
@[simp] theorem state_fillWord_retired (s : State) (n : Nat) (w : Word) : (s.fillWord n w).retired = s.retired := by
  unfold State.fillWord; split; · rfl
  dsimp only; split <;> rfl
@[simp] theorem state_fillWord_links (s : State) (n : Nat) (w : Word) : (s.fillWord n w).links = s.links := by
  unfold State.fillWord; split; · rfl
  dsimp only; split <;> rfl
@[simp] theorem state_fillWord_waking (s : State) (n : Nat) (w : Word) : (s.fillWord n w).waking = s.waking := by
  unfold State.fillWord; split; · rfl
  dsimp only; split <;> rfl
@[simp] theorem state_fillWord_reqHeld (s : State) (n : Nat) (w : Word) : (s.fillWord n w).reqHeld = s.reqHeld := by
  unfold State.fillWord; split; · rfl
  dsimp only; split <;> rfl
@[simp] theorem state_fillWord_slotWrites (s : State) (n : Nat) (w : Word) : (s.fillWord n w).slotWrites = s.slotWrites := by
  unfold State.fillWord; split; · rfl
  dsimp only; split <;> rfl
@[simp] theorem state_fillWord_cxlHeld (s : State) (n : Nat) (w : Word) : (s.fillWord n w).cxlHeld = s.cxlHeld := by
  unfold State.fillWord; split; · rfl
  dsimp only; split <;> rfl
@[simp] theorem state_fillWord_updHeld (s : State) (n : Nat) (w : Word) : (s.fillWord n w).updHeld = s.updHeld := by
  unfold State.fillWord; split; · rfl
  dsimp only; split <;> rfl
@[simp] theorem state_fillWord_lostDies (s : State) (n : Nat) (w : Word) : (s.fillWord n w).lostDies = s.lostDies := by
  unfold State.fillWord; split; · rfl
  dsimp only; split <;> rfl
@[simp] theorem state_fillWord_carter (s : State) (n : Nat) (w : Word) : (s.fillWord n w).carter = s.carter := by
  unfold State.fillWord; split; · rfl
  dsimp only; split <;> rfl
@[simp] theorem state_fillWord_recovery (s : State) (n : Nat) (w : Word) : (s.fillWord n w).recovery = s.recovery := by
  unfold State.fillWord; split; · rfl
  dsimp only; split <;> rfl
@[simp] theorem state_fillWord_leaf (s : State) (n : Nat) (w : Word) : (s.fillWord n w).leaf = s.leaf := by
  unfold State.fillWord; split; · rfl
  dsimp only; split <;> rfl
@[simp] theorem state_fillWord_hostOut (s : State) (n : Nat) (w : Word) : (s.fillWord n w).hostOut = s.hostOut := by
  unfold State.fillWord; split; · rfl
  dsimp only; split <;> rfl
@[simp] theorem state_fillWord_timeout (s : State) (n : Nat) (w : Word) : (s.fillWord n w).timeout = s.timeout := by
  unfold State.fillWord; split; · rfl
  dsimp only; split <;> rfl
@[simp] theorem state_fillWord_heldSaves (s : State) (n : Nat) (w : Word) : (s.fillWord n w).heldSaves = s.heldSaves := by
  unfold State.fillWord; split; · rfl
  dsimp only; split <;> rfl

@[simp] theorem state_takePos_member (s : State) : (s.takePos.2).member = s.member := by unfold State.takePos; split <;> rfl
@[simp] theorem state_takePos_here (s : State) : (s.takePos.2).here = s.here := by unfold State.takePos; split <;> rfl
@[simp] theorem state_takePos_others (s : State) : (s.takePos.2).others = s.others := by unfold State.takePos; split <;> rfl
@[simp] theorem state_takePos_turns (s : State) : (s.takePos.2).turns = s.turns := by unfold State.takePos; split <;> rfl
@[simp] theorem state_takePos_free (s : State) : (s.takePos.2).free = s.free := by unfold State.takePos; split <;> rfl
@[simp] theorem state_takePos_clock (s : State) : (s.takePos.2).clock = s.clock := by unfold State.takePos; split <;> rfl
@[simp] theorem state_takePos_mem (s : State) : (s.takePos.2).mem = s.mem := by unfold State.takePos; split <;> rfl
@[simp] theorem state_takePos_poison (s : State) : (s.takePos.2).poison = s.poison := by unfold State.takePos; split <;> rfl
@[simp] theorem state_takePos_cores (s : State) : (s.takePos.2).cores = s.cores := by unfold State.takePos; split <;> rfl
@[simp] theorem state_takePos_parishes (s : State) : (s.takePos.2).parishes = s.parishes := by unfold State.takePos; split <;> rfl
@[simp] theorem state_takePos_crofts (s : State) : (s.takePos.2).crofts = s.crofts := by unfold State.takePos; split <;> rfl
@[simp] theorem state_takePos_coh (s : State) : (s.takePos.2).coh = s.coh := by unfold State.takePos; split <;> rfl
@[simp] theorem state_takePos_moots (s : State) : (s.takePos.2).moots = s.moots := by unfold State.takePos; split <;> rfl
@[simp] theorem state_takePos_copyQ (s : State) : (s.takePos.2).copyQ = s.copyQ := by unfold State.takePos; split <;> rfl
@[simp] theorem state_takePos_walkQ (s : State) : (s.takePos.2).walkQ = s.walkQ := by unfold State.takePos; split <;> rfl
@[simp] theorem state_takePos_kickQ (s : State) : (s.takePos.2).kickQ = s.kickQ := by unfold State.takePos; split <;> rfl
@[simp] theorem state_takePos_lockQ (s : State) : (s.takePos.2).lockQ = s.lockQ := by unfold State.takePos; split <;> rfl
@[simp] theorem state_takePos_lockWait (s : State) : (s.takePos.2).lockWait = s.lockWait := by unfold State.takePos; split <;> rfl
@[simp] theorem state_takePos_engTlb (s : State) : (s.takePos.2).engTlb = s.engTlb := by unfold State.takePos; split <;> rfl
@[simp] theorem state_takePos_keys (s : State) : (s.takePos.2).keys = s.keys := by unfold State.takePos; split <;> rfl
@[simp] theorem state_takePos_migs (s : State) : (s.takePos.2).migs = s.migs := by unfold State.takePos; split <;> rfl
@[simp] theorem state_takePos_migrating (s : State) : (s.takePos.2).migrating = s.migrating := by unfold State.takePos; split <;> rfl
@[simp] theorem state_takePos_window (s : State) : (s.takePos.2).window = s.window := by unfold State.takePos; split <;> rfl
@[simp] theorem state_takePos_posts (s : State) : (s.takePos.2).posts = s.posts := by unfold State.takePos; split <;> rfl
@[simp] theorem state_takePos_ranges (s : State) : (s.takePos.2).ranges = s.ranges := by unfold State.takePos; split <;> rfl
@[simp] theorem state_takePos_funcs (s : State) : (s.takePos.2).funcs = s.funcs := by unfold State.takePos; split <;> rfl
@[simp] theorem state_takePos_present (s : State) : (s.takePos.2).present = s.present := by unfold State.takePos; split <;> rfl
@[simp] theorem state_takePos_self (s : State) : (s.takePos.2).self = s.self := by unfold State.takePos; split <;> rfl
@[simp] theorem state_takePos_endpoints (s : State) : (s.takePos.2).endpoints = s.endpoints := by unfold State.takePos; split <;> rfl
@[simp] theorem state_takePos_hashsel (s : State) : (s.takePos.2).hashsel = s.hashsel := by unfold State.takePos; split <;> rfl
@[simp] theorem state_takePos_rates (s : State) : (s.takePos.2).rates = s.rates := by unfold State.takePos; split <;> rfl
@[simp] theorem state_takePos_switching (s : State) : (s.takePos.2).switching = s.switching := by unfold State.takePos; split <;> rfl
@[simp] theorem state_takePos_raslog (s : State) : (s.takePos.2).raslog = s.raslog := by unfold State.takePos; split <;> rfl
@[simp] theorem state_takePos_raslost (s : State) : (s.takePos.2).raslost = s.raslost := by unfold State.takePos; split <;> rfl
@[simp] theorem state_takePos_counts (s : State) : (s.takePos.2).counts = s.counts := by unfold State.takePos; split <;> rfl
@[simp] theorem state_takePos_retired (s : State) : (s.takePos.2).retired = s.retired := by unfold State.takePos; split <;> rfl
@[simp] theorem state_takePos_links (s : State) : (s.takePos.2).links = s.links := by unfold State.takePos; split <;> rfl
@[simp] theorem state_takePos_waking (s : State) : (s.takePos.2).waking = s.waking := by unfold State.takePos; split <;> rfl
@[simp] theorem state_takePos_reqHeld (s : State) : (s.takePos.2).reqHeld = s.reqHeld := by unfold State.takePos; split <;> rfl
@[simp] theorem state_takePos_slotWrites (s : State) : (s.takePos.2).slotWrites = s.slotWrites := by unfold State.takePos; split <;> rfl
@[simp] theorem state_takePos_cxlHeld (s : State) : (s.takePos.2).cxlHeld = s.cxlHeld := by unfold State.takePos; split <;> rfl
@[simp] theorem state_takePos_updHeld (s : State) : (s.takePos.2).updHeld = s.updHeld := by unfold State.takePos; split <;> rfl
@[simp] theorem state_takePos_lostDies (s : State) : (s.takePos.2).lostDies = s.lostDies := by unfold State.takePos; split <;> rfl
@[simp] theorem state_takePos_carter (s : State) : (s.takePos.2).carter = s.carter := by unfold State.takePos; split <;> rfl
@[simp] theorem state_takePos_recovery (s : State) : (s.takePos.2).recovery = s.recovery := by unfold State.takePos; split <;> rfl
@[simp] theorem state_takePos_leaf (s : State) : (s.takePos.2).leaf = s.leaf := by unfold State.takePos; split <;> rfl
@[simp] theorem state_takePos_hostOut (s : State) : (s.takePos.2).hostOut = s.hostOut := by unfold State.takePos; split <;> rfl
@[simp] theorem state_takePos_timeout (s : State) : (s.takePos.2).timeout = s.timeout := by unfold State.takePos; split <;> rfl
@[simp] theorem state_takePos_heldSaves (s : State) : (s.takePos.2).heldSaves = s.heldSaves := by unfold State.takePos; split <;> rfl

@[simp] theorem state_push_member (s : State) (w : Word) : (s.push w).member = s.member := by simp [State.push]
@[simp] theorem state_push_here (s : State) (w : Word) : (s.push w).here = s.here := by simp [State.push]
@[simp] theorem state_push_others (s : State) (w : Word) : (s.push w).others = s.others := by simp [State.push]
@[simp] theorem state_push_turns (s : State) (w : Word) : (s.push w).turns = s.turns := by simp [State.push]
@[simp] theorem state_push_free (s : State) (w : Word) : (s.push w).free = s.free := by simp [State.push]
@[simp] theorem state_push_clock (s : State) (w : Word) : (s.push w).clock = s.clock := by simp [State.push]
@[simp] theorem state_push_mem (s : State) (w : Word) : (s.push w).mem = s.mem := by simp [State.push]
@[simp] theorem state_push_poison (s : State) (w : Word) : (s.push w).poison = s.poison := by simp [State.push]
@[simp] theorem state_push_parishes (s : State) (w : Word) : (s.push w).parishes = s.parishes := by simp [State.push]
@[simp] theorem state_push_crofts (s : State) (w : Word) : (s.push w).crofts = s.crofts := by simp [State.push]
@[simp] theorem state_push_coh (s : State) (w : Word) : (s.push w).coh = s.coh := by simp [State.push]
@[simp] theorem state_push_moots (s : State) (w : Word) : (s.push w).moots = s.moots := by simp [State.push]
@[simp] theorem state_push_copyQ (s : State) (w : Word) : (s.push w).copyQ = s.copyQ := by simp [State.push]
@[simp] theorem state_push_walkQ (s : State) (w : Word) : (s.push w).walkQ = s.walkQ := by simp [State.push]
@[simp] theorem state_push_kickQ (s : State) (w : Word) : (s.push w).kickQ = s.kickQ := by simp [State.push]
@[simp] theorem state_push_lockQ (s : State) (w : Word) : (s.push w).lockQ = s.lockQ := by simp [State.push]
@[simp] theorem state_push_lockWait (s : State) (w : Word) : (s.push w).lockWait = s.lockWait := by simp [State.push]
@[simp] theorem state_push_engTlb (s : State) (w : Word) : (s.push w).engTlb = s.engTlb := by simp [State.push]
@[simp] theorem state_push_keys (s : State) (w : Word) : (s.push w).keys = s.keys := by simp [State.push]
@[simp] theorem state_push_migs (s : State) (w : Word) : (s.push w).migs = s.migs := by simp [State.push]
@[simp] theorem state_push_migrating (s : State) (w : Word) : (s.push w).migrating = s.migrating := by simp [State.push]
@[simp] theorem state_push_window (s : State) (w : Word) : (s.push w).window = s.window := by simp [State.push]
@[simp] theorem state_push_posts (s : State) (w : Word) : (s.push w).posts = s.posts := by simp [State.push]
@[simp] theorem state_push_ranges (s : State) (w : Word) : (s.push w).ranges = s.ranges := by simp [State.push]
@[simp] theorem state_push_funcs (s : State) (w : Word) : (s.push w).funcs = s.funcs := by simp [State.push]
@[simp] theorem state_push_present (s : State) (w : Word) : (s.push w).present = s.present := by simp [State.push]
@[simp] theorem state_push_self (s : State) (w : Word) : (s.push w).self = s.self := by simp [State.push]
@[simp] theorem state_push_endpoints (s : State) (w : Word) : (s.push w).endpoints = s.endpoints := by simp [State.push]
@[simp] theorem state_push_hashsel (s : State) (w : Word) : (s.push w).hashsel = s.hashsel := by simp [State.push]
@[simp] theorem state_push_rates (s : State) (w : Word) : (s.push w).rates = s.rates := by simp [State.push]
@[simp] theorem state_push_switching (s : State) (w : Word) : (s.push w).switching = s.switching := by simp [State.push]
@[simp] theorem state_push_raslog (s : State) (w : Word) : (s.push w).raslog = s.raslog := by simp [State.push]
@[simp] theorem state_push_raslost (s : State) (w : Word) : (s.push w).raslost = s.raslost := by simp [State.push]
@[simp] theorem state_push_counts (s : State) (w : Word) : (s.push w).counts = s.counts := by simp [State.push]
@[simp] theorem state_push_retired (s : State) (w : Word) : (s.push w).retired = s.retired := by simp [State.push]
@[simp] theorem state_push_links (s : State) (w : Word) : (s.push w).links = s.links := by simp [State.push]
@[simp] theorem state_push_waking (s : State) (w : Word) : (s.push w).waking = s.waking := by simp [State.push]
@[simp] theorem state_push_reqHeld (s : State) (w : Word) : (s.push w).reqHeld = s.reqHeld := by simp [State.push]
@[simp] theorem state_push_slotWrites (s : State) (w : Word) : (s.push w).slotWrites = s.slotWrites := by simp [State.push]
@[simp] theorem state_push_cxlHeld (s : State) (w : Word) : (s.push w).cxlHeld = s.cxlHeld := by simp [State.push]
@[simp] theorem state_push_updHeld (s : State) (w : Word) : (s.push w).updHeld = s.updHeld := by simp [State.push]
@[simp] theorem state_push_lostDies (s : State) (w : Word) : (s.push w).lostDies = s.lostDies := by simp [State.push]
@[simp] theorem state_push_carter (s : State) (w : Word) : (s.push w).carter = s.carter := by simp [State.push]
@[simp] theorem state_push_recovery (s : State) (w : Word) : (s.push w).recovery = s.recovery := by simp [State.push]
@[simp] theorem state_push_leaf (s : State) (w : Word) : (s.push w).leaf = s.leaf := by simp [State.push]
@[simp] theorem state_push_hostOut (s : State) (w : Word) : (s.push w).hostOut = s.hostOut := by simp [State.push]
@[simp] theorem state_push_timeout (s : State) (w : Word) : (s.push w).timeout = s.timeout := by simp [State.push]
@[simp] theorem state_push_heldSaves (s : State) (w : Word) : (s.push w).heldSaves = s.heldSaves := by simp [State.push]

@[simp] theorem state_setDest_member (s : State) (r : GReg) (w : Word) : (s.setDest r w).member = s.member := by unfold State.setDest; split <;> simp
@[simp] theorem state_setDest_here (s : State) (r : GReg) (w : Word) : (s.setDest r w).here = s.here := by unfold State.setDest; split <;> simp
@[simp] theorem state_setDest_others (s : State) (r : GReg) (w : Word) : (s.setDest r w).others = s.others := by unfold State.setDest; split <;> simp
@[simp] theorem state_setDest_turns (s : State) (r : GReg) (w : Word) : (s.setDest r w).turns = s.turns := by unfold State.setDest; split <;> simp
@[simp] theorem state_setDest_free (s : State) (r : GReg) (w : Word) : (s.setDest r w).free = s.free := by unfold State.setDest; split <;> simp
@[simp] theorem state_setDest_clock (s : State) (r : GReg) (w : Word) : (s.setDest r w).clock = s.clock := by unfold State.setDest; split <;> simp
@[simp] theorem state_setDest_mem (s : State) (r : GReg) (w : Word) : (s.setDest r w).mem = s.mem := by unfold State.setDest; split <;> simp
@[simp] theorem state_setDest_poison (s : State) (r : GReg) (w : Word) : (s.setDest r w).poison = s.poison := by unfold State.setDest; split <;> simp
@[simp] theorem state_setDest_parishes (s : State) (r : GReg) (w : Word) : (s.setDest r w).parishes = s.parishes := by unfold State.setDest; split <;> simp
@[simp] theorem state_setDest_crofts (s : State) (r : GReg) (w : Word) : (s.setDest r w).crofts = s.crofts := by unfold State.setDest; split <;> simp
@[simp] theorem state_setDest_coh (s : State) (r : GReg) (w : Word) : (s.setDest r w).coh = s.coh := by unfold State.setDest; split <;> simp
@[simp] theorem state_setDest_moots (s : State) (r : GReg) (w : Word) : (s.setDest r w).moots = s.moots := by unfold State.setDest; split <;> simp
@[simp] theorem state_setDest_copyQ (s : State) (r : GReg) (w : Word) : (s.setDest r w).copyQ = s.copyQ := by unfold State.setDest; split <;> simp
@[simp] theorem state_setDest_walkQ (s : State) (r : GReg) (w : Word) : (s.setDest r w).walkQ = s.walkQ := by unfold State.setDest; split <;> simp
@[simp] theorem state_setDest_kickQ (s : State) (r : GReg) (w : Word) : (s.setDest r w).kickQ = s.kickQ := by unfold State.setDest; split <;> simp
@[simp] theorem state_setDest_lockQ (s : State) (r : GReg) (w : Word) : (s.setDest r w).lockQ = s.lockQ := by unfold State.setDest; split <;> simp
@[simp] theorem state_setDest_lockWait (s : State) (r : GReg) (w : Word) : (s.setDest r w).lockWait = s.lockWait := by unfold State.setDest; split <;> simp
@[simp] theorem state_setDest_engTlb (s : State) (r : GReg) (w : Word) : (s.setDest r w).engTlb = s.engTlb := by unfold State.setDest; split <;> simp
@[simp] theorem state_setDest_keys (s : State) (r : GReg) (w : Word) : (s.setDest r w).keys = s.keys := by unfold State.setDest; split <;> simp
@[simp] theorem state_setDest_migs (s : State) (r : GReg) (w : Word) : (s.setDest r w).migs = s.migs := by unfold State.setDest; split <;> simp
@[simp] theorem state_setDest_migrating (s : State) (r : GReg) (w : Word) : (s.setDest r w).migrating = s.migrating := by unfold State.setDest; split <;> simp
@[simp] theorem state_setDest_window (s : State) (r : GReg) (w : Word) : (s.setDest r w).window = s.window := by unfold State.setDest; split <;> simp
@[simp] theorem state_setDest_posts (s : State) (r : GReg) (w : Word) : (s.setDest r w).posts = s.posts := by unfold State.setDest; split <;> simp
@[simp] theorem state_setDest_ranges (s : State) (r : GReg) (w : Word) : (s.setDest r w).ranges = s.ranges := by unfold State.setDest; split <;> simp
@[simp] theorem state_setDest_funcs (s : State) (r : GReg) (w : Word) : (s.setDest r w).funcs = s.funcs := by unfold State.setDest; split <;> simp
@[simp] theorem state_setDest_present (s : State) (r : GReg) (w : Word) : (s.setDest r w).present = s.present := by unfold State.setDest; split <;> simp
@[simp] theorem state_setDest_self (s : State) (r : GReg) (w : Word) : (s.setDest r w).self = s.self := by unfold State.setDest; split <;> simp
@[simp] theorem state_setDest_endpoints (s : State) (r : GReg) (w : Word) : (s.setDest r w).endpoints = s.endpoints := by unfold State.setDest; split <;> simp
@[simp] theorem state_setDest_hashsel (s : State) (r : GReg) (w : Word) : (s.setDest r w).hashsel = s.hashsel := by unfold State.setDest; split <;> simp
@[simp] theorem state_setDest_rates (s : State) (r : GReg) (w : Word) : (s.setDest r w).rates = s.rates := by unfold State.setDest; split <;> simp
@[simp] theorem state_setDest_switching (s : State) (r : GReg) (w : Word) : (s.setDest r w).switching = s.switching := by unfold State.setDest; split <;> simp
@[simp] theorem state_setDest_raslog (s : State) (r : GReg) (w : Word) : (s.setDest r w).raslog = s.raslog := by unfold State.setDest; split <;> simp
@[simp] theorem state_setDest_raslost (s : State) (r : GReg) (w : Word) : (s.setDest r w).raslost = s.raslost := by unfold State.setDest; split <;> simp
@[simp] theorem state_setDest_counts (s : State) (r : GReg) (w : Word) : (s.setDest r w).counts = s.counts := by unfold State.setDest; split <;> simp
@[simp] theorem state_setDest_retired (s : State) (r : GReg) (w : Word) : (s.setDest r w).retired = s.retired := by unfold State.setDest; split <;> simp
@[simp] theorem state_setDest_links (s : State) (r : GReg) (w : Word) : (s.setDest r w).links = s.links := by unfold State.setDest; split <;> simp
@[simp] theorem state_setDest_waking (s : State) (r : GReg) (w : Word) : (s.setDest r w).waking = s.waking := by unfold State.setDest; split <;> simp
@[simp] theorem state_setDest_reqHeld (s : State) (r : GReg) (w : Word) : (s.setDest r w).reqHeld = s.reqHeld := by unfold State.setDest; split <;> simp
@[simp] theorem state_setDest_slotWrites (s : State) (r : GReg) (w : Word) : (s.setDest r w).slotWrites = s.slotWrites := by unfold State.setDest; split <;> simp
@[simp] theorem state_setDest_cxlHeld (s : State) (r : GReg) (w : Word) : (s.setDest r w).cxlHeld = s.cxlHeld := by unfold State.setDest; split <;> simp
@[simp] theorem state_setDest_updHeld (s : State) (r : GReg) (w : Word) : (s.setDest r w).updHeld = s.updHeld := by unfold State.setDest; split <;> simp
@[simp] theorem state_setDest_lostDies (s : State) (r : GReg) (w : Word) : (s.setDest r w).lostDies = s.lostDies := by unfold State.setDest; split <;> simp
@[simp] theorem state_setDest_carter (s : State) (r : GReg) (w : Word) : (s.setDest r w).carter = s.carter := by unfold State.setDest; split <;> simp
@[simp] theorem state_setDest_recovery (s : State) (r : GReg) (w : Word) : (s.setDest r w).recovery = s.recovery := by unfold State.setDest; split <;> simp
@[simp] theorem state_setDest_leaf (s : State) (r : GReg) (w : Word) : (s.setDest r w).leaf = s.leaf := by unfold State.setDest; split <;> simp
@[simp] theorem state_setDest_hostOut (s : State) (r : GReg) (w : Word) : (s.setDest r w).hostOut = s.hostOut := by unfold State.setDest; split <;> simp
@[simp] theorem state_setDest_timeout (s : State) (r : GReg) (w : Word) : (s.setDest r w).timeout = s.timeout := by unfold State.setDest; split <;> simp
@[simp] theorem state_setDest_heldSaves (s : State) (r : GReg) (w : Word) : (s.setDest r w).heldSaves = s.heldSaves := by unfold State.setDest; split <;> simp

@[simp] theorem state_finish_member (s : State) (l : List GReg) (r : GReg) (w : Word) (n : Nat) (k : Mix) : (s.finish l r w n k).member = s.member := by simp [State.finish]
@[simp] theorem state_finish_here (s : State) (l : List GReg) (r : GReg) (w : Word) (n : Nat) (k : Mix) : (s.finish l r w n k).here = s.here := by simp [State.finish]
@[simp] theorem state_finish_others (s : State) (l : List GReg) (r : GReg) (w : Word) (n : Nat) (k : Mix) : (s.finish l r w n k).others = s.others := by simp [State.finish]
@[simp] theorem state_finish_turns (s : State) (l : List GReg) (r : GReg) (w : Word) (n : Nat) (k : Mix) : (s.finish l r w n k).turns = s.turns := by simp [State.finish]
@[simp] theorem state_finish_free (s : State) (l : List GReg) (r : GReg) (w : Word) (n : Nat) (k : Mix) : (s.finish l r w n k).free = s.free := by simp [State.finish]
@[simp] theorem state_finish_clock (s : State) (l : List GReg) (r : GReg) (w : Word) (n : Nat) (k : Mix) : (s.finish l r w n k).clock = s.clock := by simp [State.finish]
@[simp] theorem state_finish_mem (s : State) (l : List GReg) (r : GReg) (w : Word) (n : Nat) (k : Mix) : (s.finish l r w n k).mem = s.mem := by simp [State.finish]
@[simp] theorem state_finish_poison (s : State) (l : List GReg) (r : GReg) (w : Word) (n : Nat) (k : Mix) : (s.finish l r w n k).poison = s.poison := by simp [State.finish]
@[simp] theorem state_finish_parishes (s : State) (l : List GReg) (r : GReg) (w : Word) (n : Nat) (k : Mix) : (s.finish l r w n k).parishes = s.parishes := by simp [State.finish]
@[simp] theorem state_finish_crofts (s : State) (l : List GReg) (r : GReg) (w : Word) (n : Nat) (k : Mix) : (s.finish l r w n k).crofts = s.crofts := by simp [State.finish]
@[simp] theorem state_finish_coh (s : State) (l : List GReg) (r : GReg) (w : Word) (n : Nat) (k : Mix) : (s.finish l r w n k).coh = s.coh := by simp [State.finish]
@[simp] theorem state_finish_moots (s : State) (l : List GReg) (r : GReg) (w : Word) (n : Nat) (k : Mix) : (s.finish l r w n k).moots = s.moots := by simp [State.finish]
@[simp] theorem state_finish_copyQ (s : State) (l : List GReg) (r : GReg) (w : Word) (n : Nat) (k : Mix) : (s.finish l r w n k).copyQ = s.copyQ := by simp [State.finish]
@[simp] theorem state_finish_walkQ (s : State) (l : List GReg) (r : GReg) (w : Word) (n : Nat) (k : Mix) : (s.finish l r w n k).walkQ = s.walkQ := by simp [State.finish]
@[simp] theorem state_finish_kickQ (s : State) (l : List GReg) (r : GReg) (w : Word) (n : Nat) (k : Mix) : (s.finish l r w n k).kickQ = s.kickQ := by simp [State.finish]
@[simp] theorem state_finish_lockQ (s : State) (l : List GReg) (r : GReg) (w : Word) (n : Nat) (k : Mix) : (s.finish l r w n k).lockQ = s.lockQ := by simp [State.finish]
@[simp] theorem state_finish_lockWait (s : State) (l : List GReg) (r : GReg) (w : Word) (n : Nat) (k : Mix) : (s.finish l r w n k).lockWait = s.lockWait := by simp [State.finish]
@[simp] theorem state_finish_engTlb (s : State) (l : List GReg) (r : GReg) (w : Word) (n : Nat) (k : Mix) : (s.finish l r w n k).engTlb = s.engTlb := by simp [State.finish]
@[simp] theorem state_finish_keys (s : State) (l : List GReg) (r : GReg) (w : Word) (n : Nat) (k : Mix) : (s.finish l r w n k).keys = s.keys := by simp [State.finish]
@[simp] theorem state_finish_migs (s : State) (l : List GReg) (r : GReg) (w : Word) (n : Nat) (k : Mix) : (s.finish l r w n k).migs = s.migs := by simp [State.finish]
@[simp] theorem state_finish_migrating (s : State) (l : List GReg) (r : GReg) (w : Word) (n : Nat) (k : Mix) : (s.finish l r w n k).migrating = s.migrating := by simp [State.finish]
@[simp] theorem state_finish_window (s : State) (l : List GReg) (r : GReg) (w : Word) (n : Nat) (k : Mix) : (s.finish l r w n k).window = s.window := by simp [State.finish]
@[simp] theorem state_finish_posts (s : State) (l : List GReg) (r : GReg) (w : Word) (n : Nat) (k : Mix) : (s.finish l r w n k).posts = s.posts := by simp [State.finish]
@[simp] theorem state_finish_ranges (s : State) (l : List GReg) (r : GReg) (w : Word) (n : Nat) (k : Mix) : (s.finish l r w n k).ranges = s.ranges := by simp [State.finish]
@[simp] theorem state_finish_funcs (s : State) (l : List GReg) (r : GReg) (w : Word) (n : Nat) (k : Mix) : (s.finish l r w n k).funcs = s.funcs := by simp [State.finish]
@[simp] theorem state_finish_present (s : State) (l : List GReg) (r : GReg) (w : Word) (n : Nat) (k : Mix) : (s.finish l r w n k).present = s.present := by simp [State.finish]
@[simp] theorem state_finish_self (s : State) (l : List GReg) (r : GReg) (w : Word) (n : Nat) (k : Mix) : (s.finish l r w n k).self = s.self := by simp [State.finish]
@[simp] theorem state_finish_endpoints (s : State) (l : List GReg) (r : GReg) (w : Word) (n : Nat) (k : Mix) : (s.finish l r w n k).endpoints = s.endpoints := by simp [State.finish]
@[simp] theorem state_finish_hashsel (s : State) (l : List GReg) (r : GReg) (w : Word) (n : Nat) (k : Mix) : (s.finish l r w n k).hashsel = s.hashsel := by simp [State.finish]
@[simp] theorem state_finish_rates (s : State) (l : List GReg) (r : GReg) (w : Word) (n : Nat) (k : Mix) : (s.finish l r w n k).rates = s.rates := by simp [State.finish]
@[simp] theorem state_finish_switching (s : State) (l : List GReg) (r : GReg) (w : Word) (n : Nat) (k : Mix) : (s.finish l r w n k).switching = s.switching := by simp [State.finish]
@[simp] theorem state_finish_raslog (s : State) (l : List GReg) (r : GReg) (w : Word) (n : Nat) (k : Mix) : (s.finish l r w n k).raslog = s.raslog := by simp [State.finish]
@[simp] theorem state_finish_raslost (s : State) (l : List GReg) (r : GReg) (w : Word) (n : Nat) (k : Mix) : (s.finish l r w n k).raslost = s.raslost := by simp [State.finish]
@[simp] theorem state_finish_counts (s : State) (l : List GReg) (r : GReg) (w : Word) (n : Nat) (k : Mix) : (s.finish l r w n k).counts = s.counts := by simp [State.finish]
@[simp] theorem state_finish_retired (s : State) (l : List GReg) (r : GReg) (w : Word) (n : Nat) (k : Mix) : (s.finish l r w n k).retired = s.retired := by simp [State.finish]
@[simp] theorem state_finish_links (s : State) (l : List GReg) (r : GReg) (w : Word) (n : Nat) (k : Mix) : (s.finish l r w n k).links = s.links := by simp [State.finish]
@[simp] theorem state_finish_waking (s : State) (l : List GReg) (r : GReg) (w : Word) (n : Nat) (k : Mix) : (s.finish l r w n k).waking = s.waking := by simp [State.finish]
@[simp] theorem state_finish_reqHeld (s : State) (l : List GReg) (r : GReg) (w : Word) (n : Nat) (k : Mix) : (s.finish l r w n k).reqHeld = s.reqHeld := by simp [State.finish]
@[simp] theorem state_finish_slotWrites (s : State) (l : List GReg) (r : GReg) (w : Word) (n : Nat) (k : Mix) : (s.finish l r w n k).slotWrites = s.slotWrites := by simp [State.finish]
@[simp] theorem state_finish_cxlHeld (s : State) (l : List GReg) (r : GReg) (w : Word) (n : Nat) (k : Mix) : (s.finish l r w n k).cxlHeld = s.cxlHeld := by simp [State.finish]
@[simp] theorem state_finish_updHeld (s : State) (l : List GReg) (r : GReg) (w : Word) (n : Nat) (k : Mix) : (s.finish l r w n k).updHeld = s.updHeld := by simp [State.finish]
@[simp] theorem state_finish_lostDies (s : State) (l : List GReg) (r : GReg) (w : Word) (n : Nat) (k : Mix) : (s.finish l r w n k).lostDies = s.lostDies := by simp [State.finish]
@[simp] theorem state_finish_carter (s : State) (l : List GReg) (r : GReg) (w : Word) (n : Nat) (k : Mix) : (s.finish l r w n k).carter = s.carter := by simp [State.finish]
@[simp] theorem state_finish_recovery (s : State) (l : List GReg) (r : GReg) (w : Word) (n : Nat) (k : Mix) : (s.finish l r w n k).recovery = s.recovery := by simp [State.finish]
@[simp] theorem state_finish_leaf (s : State) (l : List GReg) (r : GReg) (w : Word) (n : Nat) (k : Mix) : (s.finish l r w n k).leaf = s.leaf := by simp [State.finish]
@[simp] theorem state_finish_hostOut (s : State) (l : List GReg) (r : GReg) (w : Word) (n : Nat) (k : Mix) : (s.finish l r w n k).hostOut = s.hostOut := by simp [State.finish]
@[simp] theorem state_finish_timeout (s : State) (l : List GReg) (r : GReg) (w : Word) (n : Nat) (k : Mix) : (s.finish l r w n k).timeout = s.timeout := by simp [State.finish]
@[simp] theorem state_finish_heldSaves (s : State) (l : List GReg) (r : GReg) (w : Word) (n : Nat) (k : Mix) : (s.finish l r w n k).heldSaves = s.heldSaves := by simp [State.finish]

@[simp] theorem state_finishNone_member (s : State) (l : List GReg) (n : Nat) (k : Mix) : (s.finishNone l n k).member = s.member := by simp [State.finishNone]
@[simp] theorem state_finishNone_here (s : State) (l : List GReg) (n : Nat) (k : Mix) : (s.finishNone l n k).here = s.here := by simp [State.finishNone]
@[simp] theorem state_finishNone_others (s : State) (l : List GReg) (n : Nat) (k : Mix) : (s.finishNone l n k).others = s.others := by simp [State.finishNone]
@[simp] theorem state_finishNone_turns (s : State) (l : List GReg) (n : Nat) (k : Mix) : (s.finishNone l n k).turns = s.turns := by simp [State.finishNone]
@[simp] theorem state_finishNone_free (s : State) (l : List GReg) (n : Nat) (k : Mix) : (s.finishNone l n k).free = s.free := by simp [State.finishNone]
@[simp] theorem state_finishNone_clock (s : State) (l : List GReg) (n : Nat) (k : Mix) : (s.finishNone l n k).clock = s.clock := by simp [State.finishNone]
@[simp] theorem state_finishNone_mem (s : State) (l : List GReg) (n : Nat) (k : Mix) : (s.finishNone l n k).mem = s.mem := by simp [State.finishNone]
@[simp] theorem state_finishNone_poison (s : State) (l : List GReg) (n : Nat) (k : Mix) : (s.finishNone l n k).poison = s.poison := by simp [State.finishNone]
@[simp] theorem state_finishNone_cores (s : State) (l : List GReg) (n : Nat) (k : Mix) : (s.finishNone l n k).cores = s.cores := by simp [State.finishNone]
@[simp] theorem state_finishNone_parishes (s : State) (l : List GReg) (n : Nat) (k : Mix) : (s.finishNone l n k).parishes = s.parishes := by simp [State.finishNone]
@[simp] theorem state_finishNone_crofts (s : State) (l : List GReg) (n : Nat) (k : Mix) : (s.finishNone l n k).crofts = s.crofts := by simp [State.finishNone]
@[simp] theorem state_finishNone_coh (s : State) (l : List GReg) (n : Nat) (k : Mix) : (s.finishNone l n k).coh = s.coh := by simp [State.finishNone]
@[simp] theorem state_finishNone_moots (s : State) (l : List GReg) (n : Nat) (k : Mix) : (s.finishNone l n k).moots = s.moots := by simp [State.finishNone]
@[simp] theorem state_finishNone_copyQ (s : State) (l : List GReg) (n : Nat) (k : Mix) : (s.finishNone l n k).copyQ = s.copyQ := by simp [State.finishNone]
@[simp] theorem state_finishNone_walkQ (s : State) (l : List GReg) (n : Nat) (k : Mix) : (s.finishNone l n k).walkQ = s.walkQ := by simp [State.finishNone]
@[simp] theorem state_finishNone_kickQ (s : State) (l : List GReg) (n : Nat) (k : Mix) : (s.finishNone l n k).kickQ = s.kickQ := by simp [State.finishNone]
@[simp] theorem state_finishNone_lockQ (s : State) (l : List GReg) (n : Nat) (k : Mix) : (s.finishNone l n k).lockQ = s.lockQ := by simp [State.finishNone]
@[simp] theorem state_finishNone_lockWait (s : State) (l : List GReg) (n : Nat) (k : Mix) : (s.finishNone l n k).lockWait = s.lockWait := by simp [State.finishNone]
@[simp] theorem state_finishNone_engTlb (s : State) (l : List GReg) (n : Nat) (k : Mix) : (s.finishNone l n k).engTlb = s.engTlb := by simp [State.finishNone]
@[simp] theorem state_finishNone_keys (s : State) (l : List GReg) (n : Nat) (k : Mix) : (s.finishNone l n k).keys = s.keys := by simp [State.finishNone]
@[simp] theorem state_finishNone_migs (s : State) (l : List GReg) (n : Nat) (k : Mix) : (s.finishNone l n k).migs = s.migs := by simp [State.finishNone]
@[simp] theorem state_finishNone_migrating (s : State) (l : List GReg) (n : Nat) (k : Mix) : (s.finishNone l n k).migrating = s.migrating := by simp [State.finishNone]
@[simp] theorem state_finishNone_window (s : State) (l : List GReg) (n : Nat) (k : Mix) : (s.finishNone l n k).window = s.window := by simp [State.finishNone]
@[simp] theorem state_finishNone_posts (s : State) (l : List GReg) (n : Nat) (k : Mix) : (s.finishNone l n k).posts = s.posts := by simp [State.finishNone]
@[simp] theorem state_finishNone_ranges (s : State) (l : List GReg) (n : Nat) (k : Mix) : (s.finishNone l n k).ranges = s.ranges := by simp [State.finishNone]
@[simp] theorem state_finishNone_funcs (s : State) (l : List GReg) (n : Nat) (k : Mix) : (s.finishNone l n k).funcs = s.funcs := by simp [State.finishNone]
@[simp] theorem state_finishNone_present (s : State) (l : List GReg) (n : Nat) (k : Mix) : (s.finishNone l n k).present = s.present := by simp [State.finishNone]
@[simp] theorem state_finishNone_self (s : State) (l : List GReg) (n : Nat) (k : Mix) : (s.finishNone l n k).self = s.self := by simp [State.finishNone]
@[simp] theorem state_finishNone_endpoints (s : State) (l : List GReg) (n : Nat) (k : Mix) : (s.finishNone l n k).endpoints = s.endpoints := by simp [State.finishNone]
@[simp] theorem state_finishNone_hashsel (s : State) (l : List GReg) (n : Nat) (k : Mix) : (s.finishNone l n k).hashsel = s.hashsel := by simp [State.finishNone]
@[simp] theorem state_finishNone_rates (s : State) (l : List GReg) (n : Nat) (k : Mix) : (s.finishNone l n k).rates = s.rates := by simp [State.finishNone]
@[simp] theorem state_finishNone_switching (s : State) (l : List GReg) (n : Nat) (k : Mix) : (s.finishNone l n k).switching = s.switching := by simp [State.finishNone]
@[simp] theorem state_finishNone_raslog (s : State) (l : List GReg) (n : Nat) (k : Mix) : (s.finishNone l n k).raslog = s.raslog := by simp [State.finishNone]
@[simp] theorem state_finishNone_raslost (s : State) (l : List GReg) (n : Nat) (k : Mix) : (s.finishNone l n k).raslost = s.raslost := by simp [State.finishNone]
@[simp] theorem state_finishNone_counts (s : State) (l : List GReg) (n : Nat) (k : Mix) : (s.finishNone l n k).counts = s.counts := by simp [State.finishNone]
@[simp] theorem state_finishNone_retired (s : State) (l : List GReg) (n : Nat) (k : Mix) : (s.finishNone l n k).retired = s.retired := by simp [State.finishNone]
@[simp] theorem state_finishNone_links (s : State) (l : List GReg) (n : Nat) (k : Mix) : (s.finishNone l n k).links = s.links := by simp [State.finishNone]
@[simp] theorem state_finishNone_waking (s : State) (l : List GReg) (n : Nat) (k : Mix) : (s.finishNone l n k).waking = s.waking := by simp [State.finishNone]
@[simp] theorem state_finishNone_reqHeld (s : State) (l : List GReg) (n : Nat) (k : Mix) : (s.finishNone l n k).reqHeld = s.reqHeld := by simp [State.finishNone]
@[simp] theorem state_finishNone_slotWrites (s : State) (l : List GReg) (n : Nat) (k : Mix) : (s.finishNone l n k).slotWrites = s.slotWrites := by simp [State.finishNone]
@[simp] theorem state_finishNone_cxlHeld (s : State) (l : List GReg) (n : Nat) (k : Mix) : (s.finishNone l n k).cxlHeld = s.cxlHeld := by simp [State.finishNone]
@[simp] theorem state_finishNone_updHeld (s : State) (l : List GReg) (n : Nat) (k : Mix) : (s.finishNone l n k).updHeld = s.updHeld := by simp [State.finishNone]
@[simp] theorem state_finishNone_lostDies (s : State) (l : List GReg) (n : Nat) (k : Mix) : (s.finishNone l n k).lostDies = s.lostDies := by simp [State.finishNone]
@[simp] theorem state_finishNone_carter (s : State) (l : List GReg) (n : Nat) (k : Mix) : (s.finishNone l n k).carter = s.carter := by simp [State.finishNone]
@[simp] theorem state_finishNone_recovery (s : State) (l : List GReg) (n : Nat) (k : Mix) : (s.finishNone l n k).recovery = s.recovery := by simp [State.finishNone]
@[simp] theorem state_finishNone_leaf (s : State) (l : List GReg) (n : Nat) (k : Mix) : (s.finishNone l n k).leaf = s.leaf := by simp [State.finishNone]
@[simp] theorem state_finishNone_hostOut (s : State) (l : List GReg) (n : Nat) (k : Mix) : (s.finishNone l n k).hostOut = s.hostOut := by simp [State.finishNone]
@[simp] theorem state_finishNone_timeout (s : State) (l : List GReg) (n : Nat) (k : Mix) : (s.finishNone l n k).timeout = s.timeout := by simp [State.finishNone]
@[simp] theorem state_finishNone_heldSaves (s : State) (l : List GReg) (n : Nat) (k : Mix) : (s.finishNone l n k).heldSaves = s.heldSaves := by simp [State.finishNone]

@[simp] theorem state_logRas_member (s : State) (a b c : Nat) : (s.logRas a b c).member = s.member := by unfold State.logRas; split <;> rfl
@[simp] theorem state_logRas_hart (s : State) (a b c : Nat) : (s.logRas a b c).hart = s.hart := by unfold State.logRas; split <;> rfl
@[simp] theorem state_logRas_here (s : State) (a b c : Nat) : (s.logRas a b c).here = s.here := by unfold State.logRas; split <;> rfl
@[simp] theorem state_logRas_others (s : State) (a b c : Nat) : (s.logRas a b c).others = s.others := by unfold State.logRas; split <;> rfl
@[simp] theorem state_logRas_turns (s : State) (a b c : Nat) : (s.logRas a b c).turns = s.turns := by unfold State.logRas; split <;> rfl
@[simp] theorem state_logRas_free (s : State) (a b c : Nat) : (s.logRas a b c).free = s.free := by unfold State.logRas; split <;> rfl
@[simp] theorem state_logRas_clock (s : State) (a b c : Nat) : (s.logRas a b c).clock = s.clock := by unfold State.logRas; split <;> rfl
@[simp] theorem state_logRas_mem (s : State) (a b c : Nat) : (s.logRas a b c).mem = s.mem := by unfold State.logRas; split <;> rfl
@[simp] theorem state_logRas_poison (s : State) (a b c : Nat) : (s.logRas a b c).poison = s.poison := by unfold State.logRas; split <;> rfl
@[simp] theorem state_logRas_cores (s : State) (a b c : Nat) : (s.logRas a b c).cores = s.cores := by unfold State.logRas; split <;> rfl
@[simp] theorem state_logRas_parishes (s : State) (a b c : Nat) : (s.logRas a b c).parishes = s.parishes := by unfold State.logRas; split <;> rfl
@[simp] theorem state_logRas_crofts (s : State) (a b c : Nat) : (s.logRas a b c).crofts = s.crofts := by unfold State.logRas; split <;> rfl
@[simp] theorem state_logRas_coh (s : State) (a b c : Nat) : (s.logRas a b c).coh = s.coh := by unfold State.logRas; split <;> rfl
@[simp] theorem state_logRas_moots (s : State) (a b c : Nat) : (s.logRas a b c).moots = s.moots := by unfold State.logRas; split <;> rfl
@[simp] theorem state_logRas_copyQ (s : State) (a b c : Nat) : (s.logRas a b c).copyQ = s.copyQ := by unfold State.logRas; split <;> rfl
@[simp] theorem state_logRas_walkQ (s : State) (a b c : Nat) : (s.logRas a b c).walkQ = s.walkQ := by unfold State.logRas; split <;> rfl
@[simp] theorem state_logRas_kickQ (s : State) (a b c : Nat) : (s.logRas a b c).kickQ = s.kickQ := by unfold State.logRas; split <;> rfl
@[simp] theorem state_logRas_lockQ (s : State) (a b c : Nat) : (s.logRas a b c).lockQ = s.lockQ := by unfold State.logRas; split <;> rfl
@[simp] theorem state_logRas_lockWait (s : State) (a b c : Nat) : (s.logRas a b c).lockWait = s.lockWait := by unfold State.logRas; split <;> rfl
@[simp] theorem state_logRas_engTlb (s : State) (a b c : Nat) : (s.logRas a b c).engTlb = s.engTlb := by unfold State.logRas; split <;> rfl
@[simp] theorem state_logRas_keys (s : State) (a b c : Nat) : (s.logRas a b c).keys = s.keys := by unfold State.logRas; split <;> rfl
@[simp] theorem state_logRas_migs (s : State) (a b c : Nat) : (s.logRas a b c).migs = s.migs := by unfold State.logRas; split <;> rfl
@[simp] theorem state_logRas_migrating (s : State) (a b c : Nat) : (s.logRas a b c).migrating = s.migrating := by unfold State.logRas; split <;> rfl
@[simp] theorem state_logRas_window (s : State) (a b c : Nat) : (s.logRas a b c).window = s.window := by unfold State.logRas; split <;> rfl
@[simp] theorem state_logRas_posts (s : State) (a b c : Nat) : (s.logRas a b c).posts = s.posts := by unfold State.logRas; split <;> rfl
@[simp] theorem state_logRas_ranges (s : State) (a b c : Nat) : (s.logRas a b c).ranges = s.ranges := by unfold State.logRas; split <;> rfl
@[simp] theorem state_logRas_funcs (s : State) (a b c : Nat) : (s.logRas a b c).funcs = s.funcs := by unfold State.logRas; split <;> rfl
@[simp] theorem state_logRas_present (s : State) (a b c : Nat) : (s.logRas a b c).present = s.present := by unfold State.logRas; split <;> rfl
@[simp] theorem state_logRas_self (s : State) (a b c : Nat) : (s.logRas a b c).self = s.self := by unfold State.logRas; split <;> rfl
@[simp] theorem state_logRas_endpoints (s : State) (a b c : Nat) : (s.logRas a b c).endpoints = s.endpoints := by unfold State.logRas; split <;> rfl
@[simp] theorem state_logRas_hashsel (s : State) (a b c : Nat) : (s.logRas a b c).hashsel = s.hashsel := by unfold State.logRas; split <;> rfl
@[simp] theorem state_logRas_rates (s : State) (a b c : Nat) : (s.logRas a b c).rates = s.rates := by unfold State.logRas; split <;> rfl
@[simp] theorem state_logRas_switching (s : State) (a b c : Nat) : (s.logRas a b c).switching = s.switching := by unfold State.logRas; split <;> rfl
@[simp] theorem state_logRas_counts (s : State) (a b c : Nat) : (s.logRas a b c).counts = s.counts := by unfold State.logRas; split <;> rfl
@[simp] theorem state_logRas_retired (s : State) (a b c : Nat) : (s.logRas a b c).retired = s.retired := by unfold State.logRas; split <;> rfl
@[simp] theorem state_logRas_links (s : State) (a b c : Nat) : (s.logRas a b c).links = s.links := by unfold State.logRas; split <;> rfl
@[simp] theorem state_logRas_waking (s : State) (a b c : Nat) : (s.logRas a b c).waking = s.waking := by unfold State.logRas; split <;> rfl
@[simp] theorem state_logRas_reqHeld (s : State) (a b c : Nat) : (s.logRas a b c).reqHeld = s.reqHeld := by unfold State.logRas; split <;> rfl
@[simp] theorem state_logRas_slotWrites (s : State) (a b c : Nat) : (s.logRas a b c).slotWrites = s.slotWrites := by unfold State.logRas; split <;> rfl
@[simp] theorem state_logRas_cxlHeld (s : State) (a b c : Nat) : (s.logRas a b c).cxlHeld = s.cxlHeld := by unfold State.logRas; split <;> rfl
@[simp] theorem state_logRas_updHeld (s : State) (a b c : Nat) : (s.logRas a b c).updHeld = s.updHeld := by unfold State.logRas; split <;> rfl
@[simp] theorem state_logRas_lostDies (s : State) (a b c : Nat) : (s.logRas a b c).lostDies = s.lostDies := by unfold State.logRas; split <;> rfl
@[simp] theorem state_logRas_carter (s : State) (a b c : Nat) : (s.logRas a b c).carter = s.carter := by unfold State.logRas; split <;> rfl
@[simp] theorem state_logRas_recovery (s : State) (a b c : Nat) : (s.logRas a b c).recovery = s.recovery := by unfold State.logRas; split <;> rfl
@[simp] theorem state_logRas_leaf (s : State) (a b c : Nat) : (s.logRas a b c).leaf = s.leaf := by unfold State.logRas; split <;> rfl
@[simp] theorem state_logRas_hostOut (s : State) (a b c : Nat) : (s.logRas a b c).hostOut = s.hostOut := by unfold State.logRas; split <;> rfl
@[simp] theorem state_logRas_timeout (s : State) (a b c : Nat) : (s.logRas a b c).timeout = s.timeout := by unfold State.logRas; split <;> rfl
@[simp] theorem state_logRas_heldSaves (s : State) (a b c : Nat) : (s.logRas a b c).heldSaves = s.heldSaves := by unfold State.logRas; split <;> rfl

@[simp] theorem state_noteLockup_member (s : State) : (s.noteLockup).member = s.member := by unfold State.noteLockup; split <;> simp
@[simp] theorem state_noteLockup_hart (s : State) : (s.noteLockup).hart = s.hart := by unfold State.noteLockup; split <;> simp
@[simp] theorem state_noteLockup_here (s : State) : (s.noteLockup).here = s.here := by unfold State.noteLockup; split <;> simp
@[simp] theorem state_noteLockup_others (s : State) : (s.noteLockup).others = s.others := by unfold State.noteLockup; split <;> simp
@[simp] theorem state_noteLockup_turns (s : State) : (s.noteLockup).turns = s.turns := by unfold State.noteLockup; split <;> simp
@[simp] theorem state_noteLockup_free (s : State) : (s.noteLockup).free = s.free := by unfold State.noteLockup; split <;> simp
@[simp] theorem state_noteLockup_clock (s : State) : (s.noteLockup).clock = s.clock := by unfold State.noteLockup; split <;> simp
@[simp] theorem state_noteLockup_mem (s : State) : (s.noteLockup).mem = s.mem := by unfold State.noteLockup; split <;> simp
@[simp] theorem state_noteLockup_poison (s : State) : (s.noteLockup).poison = s.poison := by unfold State.noteLockup; split <;> simp
@[simp] theorem state_noteLockup_cores (s : State) : (s.noteLockup).cores = s.cores := by unfold State.noteLockup; split <;> simp
@[simp] theorem state_noteLockup_parishes (s : State) : (s.noteLockup).parishes = s.parishes := by unfold State.noteLockup; split <;> simp
@[simp] theorem state_noteLockup_crofts (s : State) : (s.noteLockup).crofts = s.crofts := by unfold State.noteLockup; split <;> simp
@[simp] theorem state_noteLockup_coh (s : State) : (s.noteLockup).coh = s.coh := by unfold State.noteLockup; split <;> simp
@[simp] theorem state_noteLockup_moots (s : State) : (s.noteLockup).moots = s.moots := by unfold State.noteLockup; split <;> simp
@[simp] theorem state_noteLockup_copyQ (s : State) : (s.noteLockup).copyQ = s.copyQ := by unfold State.noteLockup; split <;> simp
@[simp] theorem state_noteLockup_walkQ (s : State) : (s.noteLockup).walkQ = s.walkQ := by unfold State.noteLockup; split <;> simp
@[simp] theorem state_noteLockup_kickQ (s : State) : (s.noteLockup).kickQ = s.kickQ := by unfold State.noteLockup; split <;> simp
@[simp] theorem state_noteLockup_lockQ (s : State) : (s.noteLockup).lockQ = s.lockQ := by unfold State.noteLockup; split <;> simp
@[simp] theorem state_noteLockup_lockWait (s : State) : (s.noteLockup).lockWait = s.lockWait := by unfold State.noteLockup; split <;> simp
@[simp] theorem state_noteLockup_engTlb (s : State) : (s.noteLockup).engTlb = s.engTlb := by unfold State.noteLockup; split <;> simp
@[simp] theorem state_noteLockup_keys (s : State) : (s.noteLockup).keys = s.keys := by unfold State.noteLockup; split <;> simp
@[simp] theorem state_noteLockup_migs (s : State) : (s.noteLockup).migs = s.migs := by unfold State.noteLockup; split <;> simp
@[simp] theorem state_noteLockup_migrating (s : State) : (s.noteLockup).migrating = s.migrating := by unfold State.noteLockup; split <;> simp
@[simp] theorem state_noteLockup_window (s : State) : (s.noteLockup).window = s.window := by unfold State.noteLockup; split <;> simp
@[simp] theorem state_noteLockup_posts (s : State) : (s.noteLockup).posts = s.posts := by unfold State.noteLockup; split <;> simp
@[simp] theorem state_noteLockup_ranges (s : State) : (s.noteLockup).ranges = s.ranges := by unfold State.noteLockup; split <;> simp
@[simp] theorem state_noteLockup_funcs (s : State) : (s.noteLockup).funcs = s.funcs := by unfold State.noteLockup; split <;> simp
@[simp] theorem state_noteLockup_present (s : State) : (s.noteLockup).present = s.present := by unfold State.noteLockup; split <;> simp
@[simp] theorem state_noteLockup_self (s : State) : (s.noteLockup).self = s.self := by unfold State.noteLockup; split <;> simp
@[simp] theorem state_noteLockup_endpoints (s : State) : (s.noteLockup).endpoints = s.endpoints := by unfold State.noteLockup; split <;> simp
@[simp] theorem state_noteLockup_hashsel (s : State) : (s.noteLockup).hashsel = s.hashsel := by unfold State.noteLockup; split <;> simp
@[simp] theorem state_noteLockup_rates (s : State) : (s.noteLockup).rates = s.rates := by unfold State.noteLockup; split <;> simp
@[simp] theorem state_noteLockup_switching (s : State) : (s.noteLockup).switching = s.switching := by unfold State.noteLockup; split <;> simp
@[simp] theorem state_noteLockup_counts (s : State) : (s.noteLockup).counts = s.counts := by unfold State.noteLockup; split <;> simp
@[simp] theorem state_noteLockup_retired (s : State) : (s.noteLockup).retired = s.retired := by unfold State.noteLockup; split <;> simp
@[simp] theorem state_noteLockup_links (s : State) : (s.noteLockup).links = s.links := by unfold State.noteLockup; split <;> simp
@[simp] theorem state_noteLockup_waking (s : State) : (s.noteLockup).waking = s.waking := by unfold State.noteLockup; split <;> simp
@[simp] theorem state_noteLockup_reqHeld (s : State) : (s.noteLockup).reqHeld = s.reqHeld := by unfold State.noteLockup; split <;> simp
@[simp] theorem state_noteLockup_slotWrites (s : State) : (s.noteLockup).slotWrites = s.slotWrites := by unfold State.noteLockup; split <;> simp
@[simp] theorem state_noteLockup_cxlHeld (s : State) : (s.noteLockup).cxlHeld = s.cxlHeld := by unfold State.noteLockup; split <;> simp
@[simp] theorem state_noteLockup_updHeld (s : State) : (s.noteLockup).updHeld = s.updHeld := by unfold State.noteLockup; split <;> simp
@[simp] theorem state_noteLockup_lostDies (s : State) : (s.noteLockup).lostDies = s.lostDies := by unfold State.noteLockup; split <;> simp
@[simp] theorem state_noteLockup_carter (s : State) : (s.noteLockup).carter = s.carter := by unfold State.noteLockup; split <;> simp
@[simp] theorem state_noteLockup_recovery (s : State) : (s.noteLockup).recovery = s.recovery := by unfold State.noteLockup; split <;> simp
@[simp] theorem state_noteLockup_leaf (s : State) : (s.noteLockup).leaf = s.leaf := by unfold State.noteLockup; split <;> simp
@[simp] theorem state_noteLockup_hostOut (s : State) : (s.noteLockup).hostOut = s.hostOut := by unfold State.noteLockup; split <;> simp
@[simp] theorem state_noteLockup_timeout (s : State) : (s.noteLockup).timeout = s.timeout := by unfold State.noteLockup; split <;> simp
@[simp] theorem state_noteLockup_heldSaves (s : State) : (s.noteLockup).heldSaves = s.heldSaves := by unfold State.noteLockup; split <;> simp

@[simp] theorem state_unheld_member (s : State) (p : Place) : (s.unheld p).member = s.member := rfl
@[simp] theorem state_unheld_hart (s : State) (p : Place) : (s.unheld p).hart = s.hart := rfl
@[simp] theorem state_unheld_here (s : State) (p : Place) : (s.unheld p).here = s.here := rfl
@[simp] theorem state_unheld_others (s : State) (p : Place) : (s.unheld p).others = s.others := rfl
@[simp] theorem state_unheld_turns (s : State) (p : Place) : (s.unheld p).turns = s.turns := rfl
@[simp] theorem state_unheld_free (s : State) (p : Place) : (s.unheld p).free = s.free := rfl
@[simp] theorem state_unheld_clock (s : State) (p : Place) : (s.unheld p).clock = s.clock := rfl
@[simp] theorem state_unheld_mem (s : State) (p : Place) : (s.unheld p).mem = s.mem := rfl
@[simp] theorem state_unheld_poison (s : State) (p : Place) : (s.unheld p).poison = s.poison := rfl
@[simp] theorem state_unheld_cores (s : State) (p : Place) : (s.unheld p).cores = s.cores := rfl
@[simp] theorem state_unheld_parishes (s : State) (p : Place) : (s.unheld p).parishes = s.parishes := rfl
@[simp] theorem state_unheld_crofts (s : State) (p : Place) : (s.unheld p).crofts = s.crofts := rfl
@[simp] theorem state_unheld_coh (s : State) (p : Place) : (s.unheld p).coh = s.coh := rfl
@[simp] theorem state_unheld_moots (s : State) (p : Place) : (s.unheld p).moots = s.moots := rfl
@[simp] theorem state_unheld_copyQ (s : State) (p : Place) : (s.unheld p).copyQ = s.copyQ := rfl
@[simp] theorem state_unheld_walkQ (s : State) (p : Place) : (s.unheld p).walkQ = s.walkQ := rfl
@[simp] theorem state_unheld_kickQ (s : State) (p : Place) : (s.unheld p).kickQ = s.kickQ := rfl
@[simp] theorem state_unheld_lockQ (s : State) (p : Place) : (s.unheld p).lockQ = s.lockQ := rfl
@[simp] theorem state_unheld_lockWait (s : State) (p : Place) : (s.unheld p).lockWait = s.lockWait := rfl
@[simp] theorem state_unheld_engTlb (s : State) (p : Place) : (s.unheld p).engTlb = s.engTlb := rfl
@[simp] theorem state_unheld_keys (s : State) (p : Place) : (s.unheld p).keys = s.keys := rfl
@[simp] theorem state_unheld_migs (s : State) (p : Place) : (s.unheld p).migs = s.migs := rfl
@[simp] theorem state_unheld_migrating (s : State) (p : Place) : (s.unheld p).migrating = s.migrating := rfl
@[simp] theorem state_unheld_window (s : State) (p : Place) : (s.unheld p).window = s.window := rfl
@[simp] theorem state_unheld_posts (s : State) (p : Place) : (s.unheld p).posts = s.posts := rfl
@[simp] theorem state_unheld_ranges (s : State) (p : Place) : (s.unheld p).ranges = s.ranges := rfl
@[simp] theorem state_unheld_funcs (s : State) (p : Place) : (s.unheld p).funcs = s.funcs := rfl
@[simp] theorem state_unheld_present (s : State) (p : Place) : (s.unheld p).present = s.present := rfl
@[simp] theorem state_unheld_self (s : State) (p : Place) : (s.unheld p).self = s.self := rfl
@[simp] theorem state_unheld_endpoints (s : State) (p : Place) : (s.unheld p).endpoints = s.endpoints := rfl
@[simp] theorem state_unheld_hashsel (s : State) (p : Place) : (s.unheld p).hashsel = s.hashsel := rfl
@[simp] theorem state_unheld_rates (s : State) (p : Place) : (s.unheld p).rates = s.rates := rfl
@[simp] theorem state_unheld_switching (s : State) (p : Place) : (s.unheld p).switching = s.switching := rfl
@[simp] theorem state_unheld_raslog (s : State) (p : Place) : (s.unheld p).raslog = s.raslog := rfl
@[simp] theorem state_unheld_raslost (s : State) (p : Place) : (s.unheld p).raslost = s.raslost := rfl
@[simp] theorem state_unheld_counts (s : State) (p : Place) : (s.unheld p).counts = s.counts := rfl
@[simp] theorem state_unheld_retired (s : State) (p : Place) : (s.unheld p).retired = s.retired := rfl
@[simp] theorem state_unheld_links (s : State) (p : Place) : (s.unheld p).links = s.links := rfl
@[simp] theorem state_unheld_waking (s : State) (p : Place) : (s.unheld p).waking = s.waking := rfl
@[simp] theorem state_unheld_reqHeld (s : State) (p : Place) : (s.unheld p).reqHeld = s.reqHeld := rfl
@[simp] theorem state_unheld_slotWrites (s : State) (p : Place) : (s.unheld p).slotWrites = s.slotWrites := rfl
@[simp] theorem state_unheld_lostDies (s : State) (p : Place) : (s.unheld p).lostDies = s.lostDies := rfl
@[simp] theorem state_unheld_carter (s : State) (p : Place) : (s.unheld p).carter = s.carter := rfl
@[simp] theorem state_unheld_recovery (s : State) (p : Place) : (s.unheld p).recovery = s.recovery := rfl
@[simp] theorem state_unheld_leaf (s : State) (p : Place) : (s.unheld p).leaf = s.leaf := rfl
@[simp] theorem state_unheld_hostOut (s : State) (p : Place) : (s.unheld p).hostOut = s.hostOut := rfl
@[simp] theorem state_unheld_timeout (s : State) (p : Place) : (s.unheld p).timeout = s.timeout := rfl
@[simp] theorem state_unheld_heldSaves (s : State) (p : Place) : (s.unheld p).heldSaves = s.heldSaves := rfl

@[simp] theorem state_answered_member (s : State) (c : BitVec 8) : (s.answered c).member = s.member := rfl
@[simp] theorem state_answered_hart (s : State) (c : BitVec 8) : (s.answered c).hart = s.hart := rfl
@[simp] theorem state_answered_here (s : State) (c : BitVec 8) : (s.answered c).here = s.here := rfl
@[simp] theorem state_answered_others (s : State) (c : BitVec 8) : (s.answered c).others = s.others := rfl
@[simp] theorem state_answered_turns (s : State) (c : BitVec 8) : (s.answered c).turns = s.turns := rfl
@[simp] theorem state_answered_free (s : State) (c : BitVec 8) : (s.answered c).free = s.free := rfl
@[simp] theorem state_answered_clock (s : State) (c : BitVec 8) : (s.answered c).clock = s.clock := rfl
@[simp] theorem state_answered_mem (s : State) (c : BitVec 8) : (s.answered c).mem = s.mem := rfl
@[simp] theorem state_answered_poison (s : State) (c : BitVec 8) : (s.answered c).poison = s.poison := rfl
@[simp] theorem state_answered_cores (s : State) (c : BitVec 8) : (s.answered c).cores = s.cores := rfl
@[simp] theorem state_answered_parishes (s : State) (c : BitVec 8) : (s.answered c).parishes = s.parishes := rfl
@[simp] theorem state_answered_crofts (s : State) (c : BitVec 8) : (s.answered c).crofts = s.crofts := rfl
@[simp] theorem state_answered_coh (s : State) (c : BitVec 8) : (s.answered c).coh = s.coh := rfl
@[simp] theorem state_answered_moots (s : State) (c : BitVec 8) : (s.answered c).moots = s.moots := rfl
@[simp] theorem state_answered_copyQ (s : State) (c : BitVec 8) : (s.answered c).copyQ = s.copyQ := rfl
@[simp] theorem state_answered_walkQ (s : State) (c : BitVec 8) : (s.answered c).walkQ = s.walkQ := rfl
@[simp] theorem state_answered_kickQ (s : State) (c : BitVec 8) : (s.answered c).kickQ = s.kickQ := rfl
@[simp] theorem state_answered_lockQ (s : State) (c : BitVec 8) : (s.answered c).lockQ = s.lockQ := rfl
@[simp] theorem state_answered_lockWait (s : State) (c : BitVec 8) : (s.answered c).lockWait = s.lockWait := rfl
@[simp] theorem state_answered_engTlb (s : State) (c : BitVec 8) : (s.answered c).engTlb = s.engTlb := rfl
@[simp] theorem state_answered_keys (s : State) (c : BitVec 8) : (s.answered c).keys = s.keys := rfl
@[simp] theorem state_answered_migs (s : State) (c : BitVec 8) : (s.answered c).migs = s.migs := rfl
@[simp] theorem state_answered_migrating (s : State) (c : BitVec 8) : (s.answered c).migrating = s.migrating := rfl
@[simp] theorem state_answered_window (s : State) (c : BitVec 8) : (s.answered c).window = s.window := rfl
@[simp] theorem state_answered_posts (s : State) (c : BitVec 8) : (s.answered c).posts = s.posts := rfl
@[simp] theorem state_answered_ranges (s : State) (c : BitVec 8) : (s.answered c).ranges = s.ranges := rfl
@[simp] theorem state_answered_funcs (s : State) (c : BitVec 8) : (s.answered c).funcs = s.funcs := rfl
@[simp] theorem state_answered_present (s : State) (c : BitVec 8) : (s.answered c).present = s.present := rfl
@[simp] theorem state_answered_self (s : State) (c : BitVec 8) : (s.answered c).self = s.self := rfl
@[simp] theorem state_answered_endpoints (s : State) (c : BitVec 8) : (s.answered c).endpoints = s.endpoints := rfl
@[simp] theorem state_answered_hashsel (s : State) (c : BitVec 8) : (s.answered c).hashsel = s.hashsel := rfl
@[simp] theorem state_answered_rates (s : State) (c : BitVec 8) : (s.answered c).rates = s.rates := rfl
@[simp] theorem state_answered_switching (s : State) (c : BitVec 8) : (s.answered c).switching = s.switching := rfl
@[simp] theorem state_answered_raslog (s : State) (c : BitVec 8) : (s.answered c).raslog = s.raslog := rfl
@[simp] theorem state_answered_raslost (s : State) (c : BitVec 8) : (s.answered c).raslost = s.raslost := rfl
@[simp] theorem state_answered_counts (s : State) (c : BitVec 8) : (s.answered c).counts = s.counts := rfl
@[simp] theorem state_answered_retired (s : State) (c : BitVec 8) : (s.answered c).retired = s.retired := rfl
@[simp] theorem state_answered_links (s : State) (c : BitVec 8) : (s.answered c).links = s.links := rfl
@[simp] theorem state_answered_waking (s : State) (c : BitVec 8) : (s.answered c).waking = s.waking := rfl
@[simp] theorem state_answered_reqHeld (s : State) (c : BitVec 8) : (s.answered c).reqHeld = s.reqHeld := rfl
@[simp] theorem state_answered_slotWrites (s : State) (c : BitVec 8) : (s.answered c).slotWrites = s.slotWrites := rfl
@[simp] theorem state_answered_lostDies (s : State) (c : BitVec 8) : (s.answered c).lostDies = s.lostDies := rfl
@[simp] theorem state_answered_carter (s : State) (c : BitVec 8) : (s.answered c).carter = s.carter := rfl
@[simp] theorem state_answered_recovery (s : State) (c : BitVec 8) : (s.answered c).recovery = s.recovery := rfl
@[simp] theorem state_answered_leaf (s : State) (c : BitVec 8) : (s.answered c).leaf = s.leaf := rfl
@[simp] theorem state_answered_hostOut (s : State) (c : BitVec 8) : (s.answered c).hostOut = s.hostOut := rfl
@[simp] theorem state_answered_heldSaves (s : State) (c : BitVec 8) : (s.answered c).heldSaves = s.heldSaves := rfl

@[simp] theorem state_trap_member (s : State) (c : BitVec 8) (w : Word) (acc : BitVec 2) : (s.trap c w acc).member = s.member := by simp [State.trap]
@[simp] theorem state_trap_here (s : State) (c : BitVec 8) (w : Word) (acc : BitVec 2) : (s.trap c w acc).here = s.here := by simp [State.trap]
@[simp] theorem state_trap_others (s : State) (c : BitVec 8) (w : Word) (acc : BitVec 2) : (s.trap c w acc).others = s.others := by simp [State.trap]
@[simp] theorem state_trap_turns (s : State) (c : BitVec 8) (w : Word) (acc : BitVec 2) : (s.trap c w acc).turns = s.turns := by simp [State.trap]
@[simp] theorem state_trap_free (s : State) (c : BitVec 8) (w : Word) (acc : BitVec 2) : (s.trap c w acc).free = s.free := by simp [State.trap]
@[simp] theorem state_trap_clock (s : State) (c : BitVec 8) (w : Word) (acc : BitVec 2) : (s.trap c w acc).clock = s.clock := by simp [State.trap]
@[simp] theorem state_trap_mem (s : State) (c : BitVec 8) (w : Word) (acc : BitVec 2) : (s.trap c w acc).mem = s.mem := by simp [State.trap]
@[simp] theorem state_trap_poison (s : State) (c : BitVec 8) (w : Word) (acc : BitVec 2) : (s.trap c w acc).poison = s.poison := by simp [State.trap]
@[simp] theorem state_trap_cores (s : State) (c : BitVec 8) (w : Word) (acc : BitVec 2) : (s.trap c w acc).cores = s.cores := by simp [State.trap]
@[simp] theorem state_trap_parishes (s : State) (c : BitVec 8) (w : Word) (acc : BitVec 2) : (s.trap c w acc).parishes = s.parishes := by simp [State.trap]
@[simp] theorem state_trap_crofts (s : State) (c : BitVec 8) (w : Word) (acc : BitVec 2) : (s.trap c w acc).crofts = s.crofts := by simp [State.trap]
@[simp] theorem state_trap_coh (s : State) (c : BitVec 8) (w : Word) (acc : BitVec 2) : (s.trap c w acc).coh = s.coh := by simp [State.trap]
@[simp] theorem state_trap_moots (s : State) (c : BitVec 8) (w : Word) (acc : BitVec 2) : (s.trap c w acc).moots = s.moots := by simp [State.trap]
@[simp] theorem state_trap_copyQ (s : State) (c : BitVec 8) (w : Word) (acc : BitVec 2) : (s.trap c w acc).copyQ = s.copyQ := by simp [State.trap]
@[simp] theorem state_trap_walkQ (s : State) (c : BitVec 8) (w : Word) (acc : BitVec 2) : (s.trap c w acc).walkQ = s.walkQ := by simp [State.trap]
@[simp] theorem state_trap_kickQ (s : State) (c : BitVec 8) (w : Word) (acc : BitVec 2) : (s.trap c w acc).kickQ = s.kickQ := by simp [State.trap]
@[simp] theorem state_trap_lockQ (s : State) (c : BitVec 8) (w : Word) (acc : BitVec 2) : (s.trap c w acc).lockQ = s.lockQ := by simp [State.trap]
@[simp] theorem state_trap_lockWait (s : State) (c : BitVec 8) (w : Word) (acc : BitVec 2) : (s.trap c w acc).lockWait = s.lockWait := by simp [State.trap]
@[simp] theorem state_trap_engTlb (s : State) (c : BitVec 8) (w : Word) (acc : BitVec 2) : (s.trap c w acc).engTlb = s.engTlb := by simp [State.trap]
@[simp] theorem state_trap_keys (s : State) (c : BitVec 8) (w : Word) (acc : BitVec 2) : (s.trap c w acc).keys = s.keys := by simp [State.trap]
@[simp] theorem state_trap_migs (s : State) (c : BitVec 8) (w : Word) (acc : BitVec 2) : (s.trap c w acc).migs = s.migs := by simp [State.trap]
@[simp] theorem state_trap_migrating (s : State) (c : BitVec 8) (w : Word) (acc : BitVec 2) : (s.trap c w acc).migrating = s.migrating := by simp [State.trap]
@[simp] theorem state_trap_window (s : State) (c : BitVec 8) (w : Word) (acc : BitVec 2) : (s.trap c w acc).window = s.window := by simp [State.trap]
@[simp] theorem state_trap_posts (s : State) (c : BitVec 8) (w : Word) (acc : BitVec 2) : (s.trap c w acc).posts = s.posts := by simp [State.trap]
@[simp] theorem state_trap_ranges (s : State) (c : BitVec 8) (w : Word) (acc : BitVec 2) : (s.trap c w acc).ranges = s.ranges := by simp [State.trap]
@[simp] theorem state_trap_funcs (s : State) (c : BitVec 8) (w : Word) (acc : BitVec 2) : (s.trap c w acc).funcs = s.funcs := by simp [State.trap]
@[simp] theorem state_trap_present (s : State) (c : BitVec 8) (w : Word) (acc : BitVec 2) : (s.trap c w acc).present = s.present := by simp [State.trap]
@[simp] theorem state_trap_self (s : State) (c : BitVec 8) (w : Word) (acc : BitVec 2) : (s.trap c w acc).self = s.self := by simp [State.trap]
@[simp] theorem state_trap_endpoints (s : State) (c : BitVec 8) (w : Word) (acc : BitVec 2) : (s.trap c w acc).endpoints = s.endpoints := by simp [State.trap]
@[simp] theorem state_trap_hashsel (s : State) (c : BitVec 8) (w : Word) (acc : BitVec 2) : (s.trap c w acc).hashsel = s.hashsel := by simp [State.trap]
@[simp] theorem state_trap_rates (s : State) (c : BitVec 8) (w : Word) (acc : BitVec 2) : (s.trap c w acc).rates = s.rates := by simp [State.trap]
@[simp] theorem state_trap_switching (s : State) (c : BitVec 8) (w : Word) (acc : BitVec 2) : (s.trap c w acc).switching = s.switching := by simp [State.trap]
@[simp] theorem state_trap_counts (s : State) (c : BitVec 8) (w : Word) (acc : BitVec 2) : (s.trap c w acc).counts = s.counts := by simp [State.trap]
@[simp] theorem state_trap_retired (s : State) (c : BitVec 8) (w : Word) (acc : BitVec 2) : (s.trap c w acc).retired = s.retired := by simp [State.trap]
@[simp] theorem state_trap_links (s : State) (c : BitVec 8) (w : Word) (acc : BitVec 2) : (s.trap c w acc).links = s.links := by simp [State.trap]
@[simp] theorem state_trap_waking (s : State) (c : BitVec 8) (w : Word) (acc : BitVec 2) : (s.trap c w acc).waking = s.waking := by simp [State.trap]
@[simp] theorem state_trap_reqHeld (s : State) (c : BitVec 8) (w : Word) (acc : BitVec 2) : (s.trap c w acc).reqHeld = s.reqHeld := by simp [State.trap]
@[simp] theorem state_trap_slotWrites (s : State) (c : BitVec 8) (w : Word) (acc : BitVec 2) : (s.trap c w acc).slotWrites = s.slotWrites := by simp [State.trap]
@[simp] theorem state_trap_lostDies (s : State) (c : BitVec 8) (w : Word) (acc : BitVec 2) : (s.trap c w acc).lostDies = s.lostDies := by simp [State.trap]
@[simp] theorem state_trap_carter (s : State) (c : BitVec 8) (w : Word) (acc : BitVec 2) : (s.trap c w acc).carter = s.carter := by simp [State.trap]
@[simp] theorem state_trap_recovery (s : State) (c : BitVec 8) (w : Word) (acc : BitVec 2) : (s.trap c w acc).recovery = s.recovery := by simp [State.trap]
@[simp] theorem state_trap_leaf (s : State) (c : BitVec 8) (w : Word) (acc : BitVec 2) : (s.trap c w acc).leaf = s.leaf := by simp [State.trap]
@[simp] theorem state_trap_hostOut (s : State) (c : BitVec 8) (w : Word) (acc : BitVec 2) : (s.trap c w acc).hostOut = s.hostOut := by simp [State.trap]
@[simp] theorem state_trap_heldSaves (s : State) (c : BitVec 8) (w : Word) (acc : BitVec 2) : (s.trap c w acc).heldSaves = s.heldSaves := by simp [State.trap]

@[simp] theorem state_trapVec_member (s : State) (c : BitVec 8) (w : Word) (acc : BitVec 2) : (s.trapVec c w acc).member = s.member := by simp [State.trapVec]
@[simp] theorem state_trapVec_here (s : State) (c : BitVec 8) (w : Word) (acc : BitVec 2) : (s.trapVec c w acc).here = s.here := by simp [State.trapVec]
@[simp] theorem state_trapVec_others (s : State) (c : BitVec 8) (w : Word) (acc : BitVec 2) : (s.trapVec c w acc).others = s.others := by simp [State.trapVec]
@[simp] theorem state_trapVec_turns (s : State) (c : BitVec 8) (w : Word) (acc : BitVec 2) : (s.trapVec c w acc).turns = s.turns := by simp [State.trapVec]
@[simp] theorem state_trapVec_free (s : State) (c : BitVec 8) (w : Word) (acc : BitVec 2) : (s.trapVec c w acc).free = s.free := by simp [State.trapVec]
@[simp] theorem state_trapVec_clock (s : State) (c : BitVec 8) (w : Word) (acc : BitVec 2) : (s.trapVec c w acc).clock = s.clock := by simp [State.trapVec]
@[simp] theorem state_trapVec_mem (s : State) (c : BitVec 8) (w : Word) (acc : BitVec 2) : (s.trapVec c w acc).mem = s.mem := by simp [State.trapVec]
@[simp] theorem state_trapVec_poison (s : State) (c : BitVec 8) (w : Word) (acc : BitVec 2) : (s.trapVec c w acc).poison = s.poison := by simp [State.trapVec]
@[simp] theorem state_trapVec_cores (s : State) (c : BitVec 8) (w : Word) (acc : BitVec 2) : (s.trapVec c w acc).cores = s.cores := by simp [State.trapVec]
@[simp] theorem state_trapVec_parishes (s : State) (c : BitVec 8) (w : Word) (acc : BitVec 2) : (s.trapVec c w acc).parishes = s.parishes := by simp [State.trapVec]
@[simp] theorem state_trapVec_crofts (s : State) (c : BitVec 8) (w : Word) (acc : BitVec 2) : (s.trapVec c w acc).crofts = s.crofts := by simp [State.trapVec]
@[simp] theorem state_trapVec_coh (s : State) (c : BitVec 8) (w : Word) (acc : BitVec 2) : (s.trapVec c w acc).coh = s.coh := by simp [State.trapVec]
@[simp] theorem state_trapVec_moots (s : State) (c : BitVec 8) (w : Word) (acc : BitVec 2) : (s.trapVec c w acc).moots = s.moots := by simp [State.trapVec]
@[simp] theorem state_trapVec_copyQ (s : State) (c : BitVec 8) (w : Word) (acc : BitVec 2) : (s.trapVec c w acc).copyQ = s.copyQ := by simp [State.trapVec]
@[simp] theorem state_trapVec_walkQ (s : State) (c : BitVec 8) (w : Word) (acc : BitVec 2) : (s.trapVec c w acc).walkQ = s.walkQ := by simp [State.trapVec]
@[simp] theorem state_trapVec_kickQ (s : State) (c : BitVec 8) (w : Word) (acc : BitVec 2) : (s.trapVec c w acc).kickQ = s.kickQ := by simp [State.trapVec]
@[simp] theorem state_trapVec_lockQ (s : State) (c : BitVec 8) (w : Word) (acc : BitVec 2) : (s.trapVec c w acc).lockQ = s.lockQ := by simp [State.trapVec]
@[simp] theorem state_trapVec_lockWait (s : State) (c : BitVec 8) (w : Word) (acc : BitVec 2) : (s.trapVec c w acc).lockWait = s.lockWait := by simp [State.trapVec]
@[simp] theorem state_trapVec_engTlb (s : State) (c : BitVec 8) (w : Word) (acc : BitVec 2) : (s.trapVec c w acc).engTlb = s.engTlb := by simp [State.trapVec]
@[simp] theorem state_trapVec_keys (s : State) (c : BitVec 8) (w : Word) (acc : BitVec 2) : (s.trapVec c w acc).keys = s.keys := by simp [State.trapVec]
@[simp] theorem state_trapVec_migs (s : State) (c : BitVec 8) (w : Word) (acc : BitVec 2) : (s.trapVec c w acc).migs = s.migs := by simp [State.trapVec]
@[simp] theorem state_trapVec_migrating (s : State) (c : BitVec 8) (w : Word) (acc : BitVec 2) : (s.trapVec c w acc).migrating = s.migrating := by simp [State.trapVec]
@[simp] theorem state_trapVec_window (s : State) (c : BitVec 8) (w : Word) (acc : BitVec 2) : (s.trapVec c w acc).window = s.window := by simp [State.trapVec]
@[simp] theorem state_trapVec_posts (s : State) (c : BitVec 8) (w : Word) (acc : BitVec 2) : (s.trapVec c w acc).posts = s.posts := by simp [State.trapVec]
@[simp] theorem state_trapVec_ranges (s : State) (c : BitVec 8) (w : Word) (acc : BitVec 2) : (s.trapVec c w acc).ranges = s.ranges := by simp [State.trapVec]
@[simp] theorem state_trapVec_funcs (s : State) (c : BitVec 8) (w : Word) (acc : BitVec 2) : (s.trapVec c w acc).funcs = s.funcs := by simp [State.trapVec]
@[simp] theorem state_trapVec_present (s : State) (c : BitVec 8) (w : Word) (acc : BitVec 2) : (s.trapVec c w acc).present = s.present := by simp [State.trapVec]
@[simp] theorem state_trapVec_self (s : State) (c : BitVec 8) (w : Word) (acc : BitVec 2) : (s.trapVec c w acc).self = s.self := by simp [State.trapVec]
@[simp] theorem state_trapVec_endpoints (s : State) (c : BitVec 8) (w : Word) (acc : BitVec 2) : (s.trapVec c w acc).endpoints = s.endpoints := by simp [State.trapVec]
@[simp] theorem state_trapVec_hashsel (s : State) (c : BitVec 8) (w : Word) (acc : BitVec 2) : (s.trapVec c w acc).hashsel = s.hashsel := by simp [State.trapVec]
@[simp] theorem state_trapVec_rates (s : State) (c : BitVec 8) (w : Word) (acc : BitVec 2) : (s.trapVec c w acc).rates = s.rates := by simp [State.trapVec]
@[simp] theorem state_trapVec_switching (s : State) (c : BitVec 8) (w : Word) (acc : BitVec 2) : (s.trapVec c w acc).switching = s.switching := by simp [State.trapVec]
@[simp] theorem state_trapVec_counts (s : State) (c : BitVec 8) (w : Word) (acc : BitVec 2) : (s.trapVec c w acc).counts = s.counts := by simp [State.trapVec]
@[simp] theorem state_trapVec_retired (s : State) (c : BitVec 8) (w : Word) (acc : BitVec 2) : (s.trapVec c w acc).retired = s.retired := by simp [State.trapVec]
@[simp] theorem state_trapVec_links (s : State) (c : BitVec 8) (w : Word) (acc : BitVec 2) : (s.trapVec c w acc).links = s.links := by simp [State.trapVec]
@[simp] theorem state_trapVec_waking (s : State) (c : BitVec 8) (w : Word) (acc : BitVec 2) : (s.trapVec c w acc).waking = s.waking := by simp [State.trapVec]
@[simp] theorem state_trapVec_reqHeld (s : State) (c : BitVec 8) (w : Word) (acc : BitVec 2) : (s.trapVec c w acc).reqHeld = s.reqHeld := by simp [State.trapVec]
@[simp] theorem state_trapVec_slotWrites (s : State) (c : BitVec 8) (w : Word) (acc : BitVec 2) : (s.trapVec c w acc).slotWrites = s.slotWrites := by simp [State.trapVec]
@[simp] theorem state_trapVec_lostDies (s : State) (c : BitVec 8) (w : Word) (acc : BitVec 2) : (s.trapVec c w acc).lostDies = s.lostDies := by simp [State.trapVec]
@[simp] theorem state_trapVec_carter (s : State) (c : BitVec 8) (w : Word) (acc : BitVec 2) : (s.trapVec c w acc).carter = s.carter := by simp [State.trapVec]
@[simp] theorem state_trapVec_recovery (s : State) (c : BitVec 8) (w : Word) (acc : BitVec 2) : (s.trapVec c w acc).recovery = s.recovery := by simp [State.trapVec]
@[simp] theorem state_trapVec_leaf (s : State) (c : BitVec 8) (w : Word) (acc : BitVec 2) : (s.trapVec c w acc).leaf = s.leaf := by simp [State.trapVec]
@[simp] theorem state_trapVec_hostOut (s : State) (c : BitVec 8) (w : Word) (acc : BitVec 2) : (s.trapVec c w acc).hostOut = s.hostOut := by simp [State.trapVec]
@[simp] theorem state_trapVec_heldSaves (s : State) (c : BitVec 8) (w : Word) (acc : BitVec 2) : (s.trapVec c w acc).heldSaves = s.heldSaves := by simp [State.trapVec]

@[simp] theorem state_moveTo_member (s : State) (p : Place) (c : Bool) : (s.moveTo p c).member = s.member := by unfold State.moveTo; dsimp only; split <;> rfl
@[simp] theorem state_moveTo_turns (s : State) (p : Place) (c : Bool) : (s.moveTo p c).turns = s.turns := by unfold State.moveTo; dsimp only; split <;> rfl
@[simp] theorem state_moveTo_free (s : State) (p : Place) (c : Bool) : (s.moveTo p c).free = s.free := by unfold State.moveTo; dsimp only; split <;> rfl
@[simp] theorem state_moveTo_clock (s : State) (p : Place) (c : Bool) : (s.moveTo p c).clock = s.clock := by unfold State.moveTo; dsimp only; split <;> rfl
@[simp] theorem state_moveTo_mem (s : State) (p : Place) (c : Bool) : (s.moveTo p c).mem = s.mem := by unfold State.moveTo; dsimp only; split <;> rfl
@[simp] theorem state_moveTo_poison (s : State) (p : Place) (c : Bool) : (s.moveTo p c).poison = s.poison := by unfold State.moveTo; dsimp only; split <;> rfl
@[simp] theorem state_moveTo_parishes (s : State) (p : Place) (c : Bool) : (s.moveTo p c).parishes = s.parishes := by unfold State.moveTo; dsimp only; split <;> rfl
@[simp] theorem state_moveTo_crofts (s : State) (p : Place) (c : Bool) : (s.moveTo p c).crofts = s.crofts := by unfold State.moveTo; dsimp only; split <;> rfl
@[simp] theorem state_moveTo_coh (s : State) (p : Place) (c : Bool) : (s.moveTo p c).coh = s.coh := by unfold State.moveTo; dsimp only; split <;> rfl
@[simp] theorem state_moveTo_moots (s : State) (p : Place) (c : Bool) : (s.moveTo p c).moots = s.moots := by unfold State.moveTo; dsimp only; split <;> rfl
@[simp] theorem state_moveTo_copyQ (s : State) (p : Place) (c : Bool) : (s.moveTo p c).copyQ = s.copyQ := by unfold State.moveTo; dsimp only; split <;> rfl
@[simp] theorem state_moveTo_walkQ (s : State) (p : Place) (c : Bool) : (s.moveTo p c).walkQ = s.walkQ := by unfold State.moveTo; dsimp only; split <;> rfl
@[simp] theorem state_moveTo_kickQ (s : State) (p : Place) (c : Bool) : (s.moveTo p c).kickQ = s.kickQ := by unfold State.moveTo; dsimp only; split <;> rfl
@[simp] theorem state_moveTo_lockQ (s : State) (p : Place) (c : Bool) : (s.moveTo p c).lockQ = s.lockQ := by unfold State.moveTo; dsimp only; split <;> rfl
@[simp] theorem state_moveTo_lockWait (s : State) (p : Place) (c : Bool) : (s.moveTo p c).lockWait = s.lockWait := by unfold State.moveTo; dsimp only; split <;> rfl
@[simp] theorem state_moveTo_engTlb (s : State) (p : Place) (c : Bool) : (s.moveTo p c).engTlb = s.engTlb := by unfold State.moveTo; dsimp only; split <;> rfl
@[simp] theorem state_moveTo_keys (s : State) (p : Place) (c : Bool) : (s.moveTo p c).keys = s.keys := by unfold State.moveTo; dsimp only; split <;> rfl
@[simp] theorem state_moveTo_migs (s : State) (p : Place) (c : Bool) : (s.moveTo p c).migs = s.migs := by unfold State.moveTo; dsimp only; split <;> rfl
@[simp] theorem state_moveTo_migrating (s : State) (p : Place) (c : Bool) : (s.moveTo p c).migrating = s.migrating := by unfold State.moveTo; dsimp only; split <;> rfl
@[simp] theorem state_moveTo_window (s : State) (p : Place) (c : Bool) : (s.moveTo p c).window = s.window := by unfold State.moveTo; dsimp only; split <;> rfl
@[simp] theorem state_moveTo_posts (s : State) (p : Place) (c : Bool) : (s.moveTo p c).posts = s.posts := by unfold State.moveTo; dsimp only; split <;> rfl
@[simp] theorem state_moveTo_ranges (s : State) (p : Place) (c : Bool) : (s.moveTo p c).ranges = s.ranges := by unfold State.moveTo; dsimp only; split <;> rfl
@[simp] theorem state_moveTo_funcs (s : State) (p : Place) (c : Bool) : (s.moveTo p c).funcs = s.funcs := by unfold State.moveTo; dsimp only; split <;> rfl
@[simp] theorem state_moveTo_present (s : State) (p : Place) (c : Bool) : (s.moveTo p c).present = s.present := by unfold State.moveTo; dsimp only; split <;> rfl
@[simp] theorem state_moveTo_self (s : State) (p : Place) (c : Bool) : (s.moveTo p c).self = s.self := by unfold State.moveTo; dsimp only; split <;> rfl
@[simp] theorem state_moveTo_endpoints (s : State) (p : Place) (c : Bool) : (s.moveTo p c).endpoints = s.endpoints := by unfold State.moveTo; dsimp only; split <;> rfl
@[simp] theorem state_moveTo_hashsel (s : State) (p : Place) (c : Bool) : (s.moveTo p c).hashsel = s.hashsel := by unfold State.moveTo; dsimp only; split <;> rfl
@[simp] theorem state_moveTo_rates (s : State) (p : Place) (c : Bool) : (s.moveTo p c).rates = s.rates := by unfold State.moveTo; dsimp only; split <;> rfl
@[simp] theorem state_moveTo_switching (s : State) (p : Place) (c : Bool) : (s.moveTo p c).switching = s.switching := by unfold State.moveTo; dsimp only; split <;> rfl
@[simp] theorem state_moveTo_raslog (s : State) (p : Place) (c : Bool) : (s.moveTo p c).raslog = s.raslog := by unfold State.moveTo; dsimp only; split <;> rfl
@[simp] theorem state_moveTo_raslost (s : State) (p : Place) (c : Bool) : (s.moveTo p c).raslost = s.raslost := by unfold State.moveTo; dsimp only; split <;> rfl
@[simp] theorem state_moveTo_counts (s : State) (p : Place) (c : Bool) : (s.moveTo p c).counts = s.counts := by unfold State.moveTo; dsimp only; split <;> rfl
@[simp] theorem state_moveTo_retired (s : State) (p : Place) (c : Bool) : (s.moveTo p c).retired = s.retired := by unfold State.moveTo; dsimp only; split <;> rfl
@[simp] theorem state_moveTo_links (s : State) (p : Place) (c : Bool) : (s.moveTo p c).links = s.links := by unfold State.moveTo; dsimp only; split <;> rfl
@[simp] theorem state_moveTo_waking (s : State) (p : Place) (c : Bool) : (s.moveTo p c).waking = s.waking := by unfold State.moveTo; dsimp only; split <;> rfl
@[simp] theorem state_moveTo_reqHeld (s : State) (p : Place) (c : Bool) : (s.moveTo p c).reqHeld = s.reqHeld := by unfold State.moveTo; dsimp only; split <;> rfl
@[simp] theorem state_moveTo_slotWrites (s : State) (p : Place) (c : Bool) : (s.moveTo p c).slotWrites = s.slotWrites := by unfold State.moveTo; dsimp only; split <;> rfl
@[simp] theorem state_moveTo_lostDies (s : State) (p : Place) (c : Bool) : (s.moveTo p c).lostDies = s.lostDies := by unfold State.moveTo; dsimp only; split <;> rfl
@[simp] theorem state_moveTo_carter (s : State) (p : Place) (c : Bool) : (s.moveTo p c).carter = s.carter := by unfold State.moveTo; dsimp only; split <;> rfl
@[simp] theorem state_moveTo_recovery (s : State) (p : Place) (c : Bool) : (s.moveTo p c).recovery = s.recovery := by unfold State.moveTo; dsimp only; split <;> rfl
@[simp] theorem state_moveTo_leaf (s : State) (p : Place) (c : Bool) : (s.moveTo p c).leaf = s.leaf := by unfold State.moveTo; dsimp only; split <;> rfl
@[simp] theorem state_moveTo_hostOut (s : State) (p : Place) (c : Bool) : (s.moveTo p c).hostOut = s.hostOut := by unfold State.moveTo; dsimp only; split <;> rfl
@[simp] theorem state_moveTo_timeout (s : State) (p : Place) (c : Bool) : (s.moveTo p c).timeout = s.timeout := by unfold State.moveTo; dsimp only; split <;> rfl
@[simp] theorem state_moveTo_heldSaves (s : State) (p : Place) (c : Bool) : (s.moveTo p c).heldSaves = s.heldSaves := by unfold State.moveTo; dsimp only; split <;> rfl

end Sys2Proof.Laws
end

