-- ==== Sys2Proof/Laws/Retire.lean ====
section
/-! SUPPORT. What issuing, popping, pushing and retiring do, once: an instruction that is ready is not blocked, and
`finish` leaves exactly what `Say.Retired` says. -/

namespace Sys2Proof.Say
open Sys2Proof.Machine

theorem Ready.none {s : State} {srcs dst} (h : Ready s srcs dst) : s.blocked srcs dst = none := by
  obtain ⟨h1, h2, h3⟩ := h
  have e1 : (dst :: srcs).any s.hart.owed = false := by
    rw [List.any_eq_false]; intro r hr; simp [h1 r hr]
  unfold State.blocked
  rw [e1]
  simp only [Bool.false_eq_true, if_false]
  rw [if_neg (by omega)]
  split
  · rename_i hd
    obtain ⟨m, ho, ht, hdep⟩ := h3 hd
    simp [State.pushBlocked, ho]; omega
  · rfl

@[simp] theorem pop_lds (h : Hart) (n) : (h.pop n).lds = h.lds := by
  unfold Hart.pop; split <;> rfl
theorem SameRest_of {s t : State} (h : ∃ pc g w wh o ir wc nv nm nf c l,
   t = { s with cores := c, hart := { s.hart.setLds l with pc := pc, g := g, words := w, wordsHere := wh, open' := o, instret := ir, winCount := wc, nv := nv, nm := nm, nf := nf } }) : SameRest s t := by
  obtain ⟨pc, g, w, wh, o, ir, wc, nv, nm, nf, c, l, rfl⟩ := h
  unfold SameRest
  rcases hp : s.hart.status.priv <;> simp [Hart.setLds, Hart.lds, hp]

theorem setLds_eq (h : Hart) (l : BitVec 5) : ∃ a b c, h.setLds l = { h with ldsT := a, ldsS := b, ldsF := c } := by
  unfold Hart.setLds; split
  · exact ⟨l, h.ldsS, h.ldsF, rfl⟩
  · exact ⟨h.ldsT, l, h.ldsF, rfl⟩
  · exact ⟨h.ldsT, h.ldsS, l, rfl⟩

theorem lds_setLds (h : Hart) (l) : (h.setLds l).lds = l := by
  rcases hp : h.status.priv <;> simp [Hart.setLds, Hart.lds, hp]
theorem setLds_lds (h : Hart) : (h.setLds h.lds) = h := by
  rcases hp : h.status.priv <;> simp [Hart.setLds, Hart.lds, hp]

theorem push_eq (s : State) (v : Word) : ∃ o c, s.push v = { s with cores := c, hart := { s.hart with open' := o } } := by
  unfold State.push State.takePos
  split
  · unfold State.fillWord; simp_all
    exact ⟨s.hart.open', s.cores, rfl⟩
  · unfold State.fillWord; simp
    split
    · exact ⟨_, _, rfl⟩
    · exact ⟨_, _, rfl⟩

theorem push_pop (s : State) (v : Word) (l : List GReg) : ((s.pop l).push v).hart.open' = (s.push v).hart.open' ∧ ((s.pop l).push v).cores = (s.push v).cores := by
  unfold State.pop Hart.pop
  split
  · simp
  · unfold State.push State.takePos
    simp only
    split
    · simp_all [State.fillWord]
    · simp only [State.fillWord]
      constructor <;> (split <;> rfl)

theorem retire_of (s s' : State) (pc' : Word) (k : Mix) (o c g w wh l)
   (hs : s' = { s with cores := c, hart := { s.hart.setLds l with g := g, words := w, wordsHere := wh, open' := o } }) :
   let t : State := { s' with hart := ({ s'.hart with pc := pc' } : Hart).count k }
   t.hart.pc = pc' ∧ t.hart.g = g ∧ t.hart.lds = l ∧ t.hart.words = w ∧ t.hart.open' = o ∧ t.cores = c ∧ Counted s.hart t.hart k ∧ SameRest s t := by
  subst hs
  rcases hp : s.hart.status.priv <;> simp [Hart.count, Hart.setLds, Hart.lds, hp, Counted, SameRest]

theorem writeG_g (h : Hart) (r v) : ∃ g', h.writeG r v = { h with g := g' } := by
  unfold Hart.writeG; split
  · exact ⟨h.g, rfl⟩
  · exact ⟨_, rfl⟩

theorem reg_lt (r : GReg) (h : r ≠ 31) : r.toNat < 31 := by
  have : r.toNat ≠ 31 := fun e => h (BitVec.eq_of_toNat_eq e)
  have := r.isLt
  omega

/-- A register reads what was last written to it, g0 reads as zero, and no other register changes (R92). -/
theorem readG_writeG (h : Hart) (d r : GReg) (v : Word) (_hd : d ≠ 31) (hr : r ≠ 31) :
    (h.writeG d v).readG r = if r = d ∧ r ≠ 0 then v else h.readG r := by
  have hl := reg_lt r hr
  by_cases h0 : r = 0
  · subst h0
    rw [if_neg (fun e => e.2 rfl)]
    unfold Hart.readG
    rw [if_pos rfl, if_pos rfl]
  · unfold Hart.readG
    rw [if_neg h0, if_neg h0]
    unfold Hart.writeG
    by_cases hz : d = 0
    · rw [if_pos hz, if_neg (fun e => h0 (e.1.trans hz))]
    · rw [if_neg hz]
      by_cases he : r = d
      · rw [if_pos ⟨he, h0⟩, he]
        simp [Vector.getD, reg_lt d (he ▸ hr)]
      · rw [if_neg (fun e => he e.1)]
        have hn : d.toNat ≠ r.toNat := fun e => he (BitVec.eq_of_toNat_eq e.symm)
        simp [Vector.getD, hl, hn]

theorem retired_finish (s : State) (srcs dst v pc' k) :
   Retired s { (s.pop srcs).setDest dst v with hart := ({ ((s.pop srcs).setDest dst v).hart with pc := pc' } : Hart).count k } srcs dst v pc' k := by
  by_cases hd : dst = 31
  · subst hd
    obtain ⟨o, c, he⟩ := push_eq (s.pop srcs) v
    have hpp := push_pop s v srcs
    have hw : (s.pop srcs).hart = { s.hart with words := s.hart.words.drop (mqCount srcs), wordsHere := (s.pop srcs).hart.wordsHere } := by
      unfold State.pop Hart.pop; simp; split <;> simp_all
    have := retire_of s ((s.pop srcs).setDest 31 v) pc' k o c s.hart.g (s.hart.words.drop (mqCount srcs)) (s.pop srcs).hart.wordsHere s.hart.lds (by
      simp only [State.setDest, if_true, he]
      rw [hw]; simp [setLds_lds, State.pop])
    obtain ⟨h1, h2, h3, h4, h5, h6, h7, h8⟩ := this
    refine ⟨h1, ?_, ?_, h4, ?_, h7, h8⟩
    · intro r hr; simp only [Hart.readG]; rw [h2]
      rw [if_neg (c := r = 31 ∧ r ≠ 0) (by intro h; exact hr h.1)]
    · simpa using h3
    · simp only [if_true]; rw [h5, h6]; rw [he] at hpp; exact ⟨hpp.1, hpp.2⟩
  · have hw : (s.pop srcs).hart = { s.hart with words := s.hart.words.drop (mqCount srcs), wordsHere := (s.pop srcs).hart.wordsHere } := by
      unfold State.pop Hart.pop; simp; split <;> simp_all
    have := retire_of s ((s.pop srcs).setDest dst v) pc' k s.hart.open' s.cores (s.hart.writeG dst v).g (s.hart.words.drop (mqCount srcs)) (s.pop srcs).hart.wordsHere
      (if dst = 0 ∨ dst = 31 then s.hart.lds else dst) (by
      simp only [State.setDest, hd, if_false]
      rw [hw]; 
      have hd' : ¬ dst = 31#5 := hd
      rcases hp : s.hart.status.priv <;> by_cases h0 : dst = 0#5 <;> simp [h0, hd', Hart.noteDest, Hart.writeG, Hart.setLds, Hart.lds, hp, State.pop])
    obtain ⟨h1, h2, h3, h4, h5, h6, h7, h8⟩ := this
    refine ⟨h1, ?_, h3, h4, ?_, h7, h8⟩
    · intro r hr
      rw [← readG_writeG s.hart dst r v hd hr]
      unfold Hart.readG; rw [h2]
    · simp only [hd, if_false]; exact ⟨h5, h6⟩

theorem pop_pc (s : State) (l : List GReg) : (s.pop l).hart.pc = s.hart.pc := by
  unfold State.pop Hart.pop; simp only; split <;> rfl

theorem finish_eq (s : State) (srcs dst v len k) : s.finish srcs dst v len k = { (s.pop srcs).setDest dst v with hart := ({ ((s.pop srcs).setDest dst v).hart with pc := s.hart.pc + BitVec.ofNat 64 len } : Hart).count k } := by
  unfold State.finish State.retire
  have : ((s.pop srcs).setDest dst v).hart.pc = s.hart.pc := by
    unfold State.setDest
    split
    · obtain ⟨o, c, he⟩ := push_eq (s.pop srcs) v
      rw [he]; exact pop_pc s srcs
    · unfold Hart.writeG Hart.noteDest
      simp only
      repeat' split
      all_goals first | exact pop_pc s srcs | (unfold Hart.setLds; split <;> exact pop_pc s srcs)
  rw [this]

theorem gives_finish {s : State} {i srcs dst v k} {len : Nat} (h : exec i s = .next (s.finish srcs dst v len k)) : Gives s i srcs dst v (BitVec.ofNat 64 len) k :=
  ⟨_, h, by rw [finish_eq]; exact retired_finish ..⟩
theorem finishNone_eq (s : State) (srcs len k) : s.finishNone srcs len k = s.finish srcs 0 0 len k := by
  have : (s.pop srcs).setDest 0 0 = s.pop srcs := by
    unfold State.setDest
    rw [if_neg (by decide)]
    unfold Hart.writeG Hart.noteDest
    simp only [true_or, if_true]
  unfold State.finishNone State.finish
  rw [this]
end Sys2Proof.Say
end

