-- ==== Sys2Proof/Laws/Store.lean ====
section
/-! SUPPORT. A store, with its second write to the new page of a migration (R214), keeps the canonical form; what the
caches and homes do changes no memory. -/

namespace Sys2Proof.Laws

open Machine

theorem mirrorBytes_wf {cell : Nat → Nat} {migs : List Migration} {m : List Host.Cell} (pa : Nat) (bs : List Byte)
    (h : Memory.wf m = true) : Memory.wf (mirrorBytes cell migs m pa bs) = true := by
  induction bs generalizing m pa with
  | nil => exact h
  | cons x xs ih =>
    unfold mirrorBytes
    apply ih
    split
    · split
      · exact writeByte_wf _ _ h
      · exact h
    · exact h

theorem storeMem_wf {cell : Nat → Nat} {migs : List Migration} {m : List Host.Cell} (pa : Nat) (bs : List Byte)
    (h : Memory.wf m = true) : Memory.wf (storeMem cell migs m pa bs) = true := by
  unfold storeMem
  split
  · exact writeBytes_wf _ _ h
  · exact mirrorBytes_wf _ _ (writeBytes_wf _ _ h)

theorem unpoison_mem (s : State) (pa n : Nat) : (s.unpoison pa n).mem = s.mem := by
  unfold State.unpoison; split <;> rfl

theorem wellPut_mem (s : State) (line : Nat) (v : BitVec 4) : (s.wellPut line v).mem = s.mem := by
  unfold State.wellPut; split
  · rfl
  · split <;> rfl

theorem noteWellDirty_mem (s : State) (line : Nat) (v : BitVec 4) (old : Kept) :
    (s.noteWellDirty line v old).mem = s.mem := by
  unfold State.noteWellDirty
  split
  · rfl
  · dsimp only; split <;> simp only [wellPut_mem]

theorem recallL1_mem (s : State) (line : Nat) : (s.recallL1 line).mem = s.mem := by
  unfold State.recallL1
  repeat' split
  all_goals rfl

theorem writeBack_mem (s : State) (line : Nat) : (s.writeBack line).mem = s.mem := by
  unfold State.writeBack
  dsimp only
  split
  · simp only [noteWellDirty_mem, recallL1_mem]
  · exact recallL1_mem s line

theorem dropCopies_mem (s : State) (line : Nat) : (s.dropCopies line).mem = s.mem := rfl

theorem wakeLinks_mem (s : State) (src : Nat) (ds : List Nat) : (s.wakeLinks src ds).mem = s.mem := by
  induction ds generalizing s src with
  | nil => rfl
  | cons d t ih =>
    unfold State.wakeLinks
    dsimp only
    rw [ih]
    split <;> rfl

theorem wake_mem (s : State) (a b : Nat) : (s.wake a b).mem = s.mem := wakeLinks_mem s a _

/-- Whatever a request comes to, the bytes of memory stay. -/
def KeepsMem (s : State) (h : Held) : Prop :=
  match h with
  | .ok t => t.mem = s.mem
  | .error t => t.mem = s.mem

theorem homeReaches_mem (s : State) (line : Nat) (ps : List Nat) : KeepsMem s (s.homeReaches line ps) := by
  unfold State.homeReaches
  split
  · exact wake_mem _ _ _
  · rfl

/-- A write or an atomic at the home changes no byte by itself. -/
theorem cohFar_mem (s : State) (line : Nat) (v : BitVec 4) (write : Bool) : KeepsMem s (s.cohFar line v write) := by
  unfold State.cohFar
  split
  · rfl
  · have h := homeReaches_mem s line (s.invited line fun _ => false)
    generalize s.homeReaches line (s.invited line fun _ => false) = r at h
    cases r with
    | error t => exact h
    | ok t =>
      replace h : t.mem = s.mem := h
      show (State.dropCopies _ line).mem = s.mem
      rw [dropCopies_mem]
      split <;> simp only [noteWellDirty_mem, wellPut_mem, writeBack_mem, h]

/-- What follows a request that changes no byte changes none either. -/
theorem bind_mem {s : State} {h : Held} (f : State → Held) (k : KeepsMem s h)
    (hf : ∀ t, t.mem = s.mem → KeepsMem s (f t)) : KeepsMem s (h.bind f) := by
  cases h with
  | error t => exact k
  | ok t => exact hf t k

theorem keeps_of_eq {s t : State} {h : Held} (e : t.mem = s.mem) (k : KeepsMem t h) : KeepsMem s h := by
  cases h <;> exact Eq.trans k e

/-- The second write of a store in migration changes no byte by itself (R214). -/
theorem touchMirror_mem (s : State) (line : Nat) : KeepsMem s (s.touchMirror line) := by
  unfold State.touchMirror
  generalize s.mirrorLines line = ls
  refine (?_ : ∀ h : Held, KeepsMem s h → KeepsMem s (List.foldl _ h ls)) (.ok s) rfl
  induction ls with
  | nil => exact fun _ k => k
  | cons l ls ih =>
    intro h k
    refine ih _ (bind_mem _ k fun t e => ?_)
    split
    · exact (wake_mem _ _ _).trans e
    · exact keeps_of_eq e (cohFar_mem _ _ _ _)

theorem unpoisonMirror_mem (s : State) (pa n : Nat) : (s.unpoisonMirror pa n).mem = s.mem := by
  unfold State.unpoisonMirror
  split
  · rfl
  · generalize linesOf pa n = ls
    refine (?_ : ∀ t : State, t.mem = s.mem → (List.foldl _ t ls).mem = s.mem) s rfl
    induction ls with
    | nil => exact fun _ h => h
    | cons l ls ih =>
      intro t h
      refine ih _ ?_
      dsimp only
      split
      · rw [unpoison_mem, h]
      · exact h

theorem putBytes_wf {s : State} (pa : Nat) (bs : List Byte) (h : Memory.wf s.mem = true) :
    Memory.wf (s.putBytes pa bs).mem = true := by
  unfold State.putBytes
  rw [unpoisonMirror_mem, unpoison_mem]
  exact storeMem_wf pa bs h

end Sys2Proof.Laws
end

