-- ==== Sys2Proof/Tests/Slice0.lean ====
section
/-! SUPPORT. Tests of the model: words that the spec encodes, terms that are not well formed, single steps whose results
the spec's examples and tables give, and for every statement a state that meets its hypotheses. Each comment names the
place in the spec that an expected value comes from; a value without one was worked by hand from the rule named. -/

namespace Sys2Proof.Tests

open Machine Say

set_option Elab.async false

/-! ### Words that the spec encodes -/

/-- The decoder gives this instruction for the word. -/
noncomputable def reads (nbits w : Nat) (i : Instr) : Bool := decodeTableWord nbits w == some i

/-! 02, "Worked encodings". -/
theorem test_decode_addi : reads 32 0xF93F822D (.addi 5 4 0x3FFD) = true := by decide +kernel
theorem test_decode_caddi : reads 16 0x0CDD (.caddi 6 0x1D) = true := by decide +kernel
theorem test_decode_vadd :
    reads 32 0x3A44A01A (.vadd { a := 3, c := 7, b := 9, j := false, drv := 1, form := .vv, m := 2 }) = true := by
  decide +kernel
theorem test_decode_vaddL :
    reads 64 0xA00360053A60E018
      (.vaddL { a := 3, c := 7, b := 9, j := true, form := .vv, m := 0, db := .bc 5, dc := .fly 3 }) = true := by
  decide +kernel
theorem test_decode_jumpr : reads 32 0x00409700 (.jumpr 0 1 0) = true := by decide +kernel
/-- A halfword of zeros is no instruction. -/
theorem test_decode_zero : decode [0, 0] = .error (.illegal 2 0) := by rfl

/-! 03, "Worked examples". -/
theorem test_decode_li : reads 64 0x012345670000C228 (.addiL 5 0 0x01234567) = true := by decide +kernel
theorem test_decode_shli : reads 32 0x01608828 (.shli 5 5 32) = true := by decide +kernel
theorem test_decode_zext : reads 32 0x01A58132 (.zext 6 6 .w) = true := by decide +kernel
theorem test_decode_or : reads 32 0x31438128 (.or 5 5 6) = true := by decide +kernel
theorem test_decode_cadd : reads 16 0x118C (.cadd 12 12) = true := by decide +kernel

/-! 04: R112's example, the trap example and its handler. -/
theorem test_decode_bne : reads 32 0xF83F912A (.bne 5 0 0x3FFA) = true := by decide +kernel
theorem test_decode_syscall : reads 32 0x03009E00 (.syscall 12) = true := by decide +kernel
theorem test_decode_srd : reads 32 0x00049E2A (.srd 5 0x002) = true := by decide +kernel
theorem test_decode_swr : reads 32 0x00059E29 (.swr 5 0x001) = true := by decide +kernel

/-! 05, "Worked encodings". -/
theorem test_decode_load : reads 32 0x01108B2A (.load 5 4 16 .w) = true := by decide +kernel
theorem test_decode_loadAcq : reads 32 0x012A8D2B (.loadAcq 5 4 .device .d) = true := by decide +kernel
theorem test_decode_storeRel : reads 32 0x01FA8D33 (.storeRel 6 7 .device .d) = true := by decide +kernel
theorem test_decode_amoadd :
    reads 64 0x000800013103CE2D
      (.amoadd { a := 5, b := 4, c := 6, dbl := true, far := true, scope := .device, ord := .acq, off := 8 }) = true := by
  decide +kernel
theorem test_decode_waitm : reads 32 0x01D78F45 (.waitm 8 7 0 true .device) = true := by decide +kernel
theorem test_decode_fenceVs : reads 32 0x00088F00 .fenceVs = true := by decide +kernel

/-! 07: the stochastic rounding example and R234's. -/
theorem test_decode_fcvt : reads 32 0x19819D2D (.fcvt 5 6 .fp32 .bf16 false .sr) = true := by decide +kernel
theorem test_decode_fma : reads 32 0x39809C2F (.fma 5 6 7 .d .dyn) = true := by decide +kernel

/-! 08 and 09. -/
theorem test_decode_vsetn :
    reads 32 0x3180B629 (.vsetn { a := 5, b := 6, sew := .e32, grp := .x2, tz := false, mz := true }) = true := by
  decide +kernel
theorem test_decode_vfma :
    reads 32 0x2180AE40 (.vfma { a := 8, c := 4, b := 6, j := false, drv := 0, form := .vv, m := 0 }) = true := by
  decide +kernel
theorem test_decode_vmax :
    reads 32 0x4720A8C0 (.vmax { a := 24, c := 8, b := 28, j := true, drv := 0, form := .vv, m := 0 }) = true := by
  decide +kernel
theorem test_decode_vmv : reads 32 0x203CAF28 (.vmv { a := 5, c := 4, j := true, m := 0, mod := .short 7 }) = true := by
  decide +kernel
theorem test_decode_vld :
    reads 32 0x0143B820 (.vld { a := 4, b := 5, addr := .strided 0, j := false, u := false, tag := .float, m := 0 }) =
      true := by
  decide +kernel
theorem test_decode_vldSweep :
    reads 32 0x0153B820 (.vld { a := 4, b := 5, addr := .sweep, j := false, u := false, tag := .float, m := 0 }) = true := by
  decide +kernel
theorem test_decode_wset : reads 32 0x3150BC10 (.wset 2 5 6 none) = true := by decide +kernel
theorem test_decode_vldW :
    reads 32 0x0083BC20 (.vldW { a := 4, w := 2, j := false, tag := .float, m := 0, off := none }) = true := by
  decide +kernel
theorem test_decode_vred :
    reads 32 0x1001B408 (.vred { a := 1, c := 2, op := .add, j := false, m := 0, dc := none }) = true := by decide +kernel
theorem test_decode_vredO :
    reads 32 0x1002B418 (.vredO { a := 3, c := 2, op := .add, j := false, m := 0, dc := none }) = true := by decide +kernel
theorem test_decode_vcompress :
    reads 32 0x1004B409 (.vcompress { a := 1, c := 2, j := false, m := 1, dc := none }) = true := by decide +kernel
theorem test_decode_mpopc : reads 32 0x0005B528 (.mpopc { a := 5, c := 0, long := false }) = true := by decide +kernel

/-! 10 to 13. -/
theorem test_decode_mattach : reads 32 0x0180BD28 (.mattach 5 6) = true := by decide +kernel
theorem test_decode_mshape : reads 32 0x0142BD00 (.mshape 5) = true := by decide +kernel
theorem test_decode_mtld : reads 32 0x3143BD08 (.mtld 1 5 6) = true := by decide +kernel
theorem test_decode_mring : reads 32 0x0009BD11 (.mring 2 true) = true := by decide +kernel
theorem test_decode_mwait : reads 32 0x0008BD00 .mwait = true := by decide +kernel
theorem test_decode_mma : reads 32 0x2140BE03 (.mma { t := 0, b := .latch true, ka := 0, kb := 1, cb := 3 }) = true := by
  decide +kernel
theorem test_decode_mmas :
    reads 32 0x0053BE00 (.mmas { t := 0, b := .tile 1, ka := 0, kb := 0, cb := 0 } 3) = true := by decide +kernel
theorem test_decode_mext : reads 32 0x302ABE21 (.mext 4 6 true .bf16 1) = true := by decide +kernel
theorem test_decode_mextst : reads 32 0x3172BE10 (.mextst 2 5 6 false .bf16 0) = true := by decide +kernel
theorem test_decode_mootred : reads 32 0x02539941 (.mootredAdd 8 9 .fp64 1) = true := by decide +kernel
theorem test_decode_mootleave : reads 32 0x00029901 (.mootleave 1) = true := by decide +kernel
theorem test_decode_spawn : reads 32 0x52C09829 (.spawn 5 11 10 1) = true := by decide +kernel
theorem test_decode_join : reads 32 0x00019800 .join = true := by decide +kernel
theorem test_decode_taskend : reads 32 0x00029800 .taskend = true := by decide +kernel
theorem test_decode_qwalk : reads 32 0x01829A28 (.qwalk 5 6) = true := by decide +kernel

/-- The words of the statement on hand-made encodings. -/
theorem test_decode_words : Obligations.DecodeWords := by
  refine ⟨?_, ?_, ?_, ?_, ?_, ?_, ?_, ?_, ?_, ?_, ?_, ?_, ?_⟩ <;> rfl

/-! ### Terms that are not well formed -/

/-- A rotation by mq (R57). -/
theorem test_wf_rotg : WellFormed (.vcompress { a := 1, c := 2, j := false, m := 1, dc := some (.rotg 31) }) = false := by
  decide
/-- A broadcast by mq (R57). -/
theorem test_wf_bcg : Drove.wf (.bcg 31) = false := by decide
/-- A butterfly beyond 2^10 (R57). -/
theorem test_wf_fly : Drove.wf (.fly 11) = false := by decide
/-- A reversal beyond 2^11 (R57). -/
theorem test_wf_rev : Drove.wf (.rev 12) = false := by decide
/-- A B descriptor on a form without a vector B (R58). -/
theorem test_wf_vx :
    WellFormed (.vaddL { a := 1, c := 2, b := 3, j := false, form := .vx, m := 0, db := .bc 5, dc := .none }) = false := by
  decide
theorem test_wf_vfma :
    WellFormed (.vfmaL { a := 1, c := 2, b := 3, j := false, form := .vx, m := 0, db := .bc 5, dc := .none }) = false := by
  decide
theorem test_wf_vcmp :
    WellFormed (.vcmpEqL { comb := 0, md := 1, c := 2, b := 3, j := false, form := .vi, m := 0, db := .bc 5, dc := .none })
      = false := by
  decide
/-- VFMS and VFNMA exist as vv alone (R276). -/
theorem test_wf_vfms :
    WellFormed (.vfms { a := 1, c := 2, b := 3, j := false, drv := 0, form := .vx, m := 0 }) = false := by decide
theorem test_wf_vfnmaL :
    WellFormed (.vfnmaL { a := 1, c := 2, b := 3, j := false, form := .vx, m := 0, db := .none, dc := .none }) = false := by
  decide
/-- A unary instruction with an illegal descriptor (R57). -/
theorem test_wf_unary : WellFormed (.vneg { a := 1, c := 2, j := false, m := 0, mod := .long (.rotg 31) }) = false := by
  decide
/-- VSEL and VCOMPRESS name a mask other than 0 (R76). -/
theorem test_wf_vsel : WellFormed (.vsel { a := 1, c := 2, b := 3, j := false, m := 0, mods := none }) = false := by decide
theorem test_wf_vcompress : WellFormed (.vcompress { a := 1, c := 2, j := false, m := 0, dc := none }) = false := by decide
theorem test_wf_vred : WellFormed (.vred { a := 1, c := 2, op := .add, j := false, m := 0, dc := some (.fly 11) }) = false := by
  decide
theorem test_wf_vreshape :
    WellFormed (.vreshape { a := 1, c := 2, b := 3, j := false, m := 0, dc := some (.fly 11) }) = false := by decide
theorem test_wf_vextract : WellFormed (.vextract { a := 1, c := 2, b := 3, dc := some (.fly 11) }) = false := by decide
theorem test_wf_vcvtI4 : WellFormed (.vcvtI4 { a := 1, c := 2, j := false, m := 0, dc := some (.fly 11) }) = false := by decide
/-- bfloat exists at 16 bits alone (R245, R79). -/
theorem test_wf_vcvt :
    WellFormed (.vcvt { a := 1, c := 2, tag := .bfloat, sew := .e32, rm := .rne, j := false, m := 0, dc := none }) = false := by
  decide
/-- A well-formed instruction of each checked kind passes. -/
theorem test_wf_passes :
    WellFormed (.vaddL { a := 3, c := 7, b := 9, j := true, form := .vv, m := 0, db := .bc 5, dc := .fly 10 }) = true ∧
    WellFormed (.vcvt { a := 1, c := 2, tag := .bfloat, sew := .e16, rm := .rne, j := false, m := 0, dc := none }) = true ∧
    WellFormed (.vsel { a := 1, c := 2, b := 3, j := false, m := 1, mods := some (.rev 11, .rotg 30) }) = true := by
  decide

/-! ### States to test on -/

/-- The state holds after the meaning. -/
def leaves (o : Out State) (p : State → Bool) : Bool := match o with | .next t => p t | _ => false

/-- The reset machine with these general registers. -/
def withG (l : List (GReg × Word)) : State :=
  { State.reset with hart := l.foldl (fun h e => h.writeG e.1 e.2) State.reset.hart }

/-- −7, 2, two 16-bit patterns, and the operands of 03's BFX example. -/
def ints : State :=
  withG [(1, 0xFFFFFFFFFFFFFFF9), (2, 2), (3, 0xF0F0), (4, 0x0FF0), (6, 0xABCD00), (7, 0x10B08), (8, 0x1000)]

/-- What `i` leaves in g9. -/
def g9 (i : Instr) (v : Word) : Bool := leaves (exec i ints) fun t => t.hart.readG 9 == v

/-! ### Integers (R102 to R108) -/

theorem test_add : g9 (.add 9 1 2) 0xFFFFFFFFFFFFFFFB = true := by decide +kernel
theorem test_sub : g9 (.sub 9 2 1) 9 = true := by decide +kernel
theorem test_and : g9 (.and 9 3 4) 0x00F0 = true := by decide +kernel
theorem test_or : g9 (.or 9 3 4) 0xFFF0 = true := by decide +kernel
theorem test_xor : g9 (.xor 9 3 4) 0xFF00 = true := by decide +kernel
theorem test_andn : g9 (.andn 9 3 4) 0xF000 = true := by decide +kernel
theorem test_orn : g9 (.orn 9 3 4) 0xFFFFFFFFFFFFF0FF = true := by decide +kernel
theorem test_xnor : g9 (.xnor 9 3 4) 0xFFFFFFFFFFFF00FF = true := by decide +kernel
theorem test_shl : g9 (.shl 9 1 2) 0xFFFFFFFFFFFFFFE4 = true := by decide +kernel
theorem test_shr : g9 (.shr 9 1 2) 0x3FFFFFFFFFFFFFFE = true := by decide +kernel
theorem test_sra : g9 (.sra 9 1 2) 0xFFFFFFFFFFFFFFFE = true := by decide +kernel
theorem test_rol : g9 (.rol 9 1 2) 0xFFFFFFFFFFFFFFE7 = true := by decide +kernel
theorem test_ror : g9 (.ror 9 1 2) 0x7FFFFFFFFFFFFFFE = true := by decide +kernel
theorem test_slt : g9 (.slt 9 1 2) 1 = true := by decide +kernel
theorem test_sltu : g9 (.sltu 9 2 1) 1 = true := by decide +kernel
theorem test_min : g9 (.min 9 1 2) 0xFFFFFFFFFFFFFFF9 = true := by decide +kernel
theorem test_max : g9 (.max 9 1 2) 2 = true := by decide +kernel
theorem test_minu : g9 (.minu 9 1 2) 2 = true := by decide +kernel
theorem test_maxu : g9 (.maxu 9 1 2) 0xFFFFFFFFFFFFFFF9 = true := by decide +kernel
theorem test_mul : g9 (.mul 9 1 2) 0xFFFFFFFFFFFFFFF2 = true := by decide +kernel
theorem test_mulh : g9 (.mulh 9 1 2) 0xFFFFFFFFFFFFFFFF = true := by decide +kernel
theorem test_mulhu : g9 (.mulhu 9 1 2) 1 = true := by decide +kernel
/-! 03: the division examples. -/
theorem test_div : g9 (.div 9 1 2) 0xFFFFFFFFFFFFFFFD = true := by decide +kernel
theorem test_rem : g9 (.rem 9 1 2) 0xFFFFFFFFFFFFFFFF = true := by decide +kernel
theorem test_divu : g9 (.divu 9 1 2) 0x7FFFFFFFFFFFFFFC = true := by decide +kernel
theorem test_remu : g9 (.remu 9 1 2) 1 = true := by decide +kernel
theorem test_div_zero : g9 (.div 9 1 0) 0x8000000000000000 = true := by decide +kernel
theorem test_clz : g9 (.clz 9 4) 52 = true := by decide +kernel
theorem test_ctz : g9 (.ctz 9 4) 4 = true := by decide +kernel
theorem test_popc : g9 (.popc 9 4) 8 = true := by decide +kernel
theorem test_bswap : g9 (.bswap 9 4) 0xF00F000000000000 = true := by decide +kernel
theorem test_sext : g9 (.sext 9 4 .b) 0xFFFFFFFFFFFFFFF0 = true := by decide +kernel
theorem test_zext : g9 (.zext 9 1 .w) 0xFFFFFFF9 = true := by decide +kernel
/-! 03: the BFX example; BFI puts 0xFF9 at bits 19:8 of a register of zeros. -/
theorem test_bfx : g9 (.bfx 9 6 7) 0xFFFFFFFFFFFFFBCD = true := by decide +kernel
theorem test_bfi : g9 (.bfi 9 1 7) 0xFF900 = true := by decide +kernel
theorem test_select : g9 (.select 9 3 4) 0x0FF0 = true := by decide +kernel
theorem test_addsc1 : g9 (.addsc1 9 1 2) 0xFFFFFFFFFFFFFFF4 = true := by decide +kernel
theorem test_addsc2 : g9 (.addsc2 9 1 2) 0xFFFFFFFFFFFFFFE6 = true := by decide +kernel
theorem test_addsc3 : g9 (.addsc3 9 1 2) 0xFFFFFFFFFFFFFFCA = true := by decide +kernel
theorem test_addi : g9 (.addi 9 2 0x3FFD) 0xFFFFFFFFFFFFFFFF = true := by decide +kernel
theorem test_andi : g9 (.andi 9 3 0x3FF0) 0xF0F0 = true := by decide +kernel
theorem test_ori : g9 (.ori 9 3 0x0F) 0xF0FF = true := by decide +kernel
theorem test_xori : g9 (.xori 9 3 0xFF) 0xF00F = true := by decide +kernel
theorem test_slti : g9 (.slti 9 1 0) 1 = true := by decide +kernel
theorem test_sltiu : g9 (.sltiu 9 2 0x3FFF) 1 = true := by decide +kernel
theorem test_addiL : g9 (.addiL 9 2 0x80000000) 0xFFFFFFFF80000002 = true := by decide +kernel
theorem test_andiL : g9 (.andiL 9 1 0xFFFF) 0xFFF9 = true := by decide +kernel
theorem test_oriL : g9 (.oriL 9 2 0xF0000) 0xF0002 = true := by decide +kernel
theorem test_xoriL : g9 (.xoriL 9 3 0xFFFF) 0x0F0F = true := by decide +kernel
theorem test_sltiL : g9 (.sltiL 9 2 0x80000000) 0 = true := by decide +kernel
theorem test_sltiuL : g9 (.sltiuL 9 2 0x80000000) 1 = true := by decide +kernel
theorem test_shli : g9 (.shli 9 2 63) 0 = true := by decide +kernel
theorem test_shri : g9 (.shri 9 1 63) 1 = true := by decide +kernel
theorem test_srai : g9 (.srai 9 1 63) 0xFFFFFFFFFFFFFFFF = true := by decide +kernel
theorem test_rori : g9 (.rori 9 3 8) 0xF0000000000000F0 = true := by decide +kernel
theorem test_ldhi : g9 (.ldhi 9 0x40000) 0xFFFFFFFF80000000 = true := by decide +kernel
theorem test_addpc : g9 (.addpc 9 1) 0x020000102000 = true := by decide +kernel
theorem test_laddpc : g9 (.laddpc 9 0xFFFFFFFC) 0x0200000FFFFC = true := by decide +kernel

/-- `ints` with LDS at g3. -/
def last3 : State := { ints with hart := ints.hart.setLds 3 }

/-- What a compact form leaves in g9, with LDS following it. -/
def c9 (i : Instr) (v : Word) : Bool := leaves (exec i last3) fun t => t.hart.readG 9 == v && t.hart.lds == 9

theorem test_cnop : leaves (exec .cnop last3) (fun t => t.hart.lds == 3 && t.hart.pc == 0x020000100002) = true := by
  decide +kernel
theorem test_cmv : c9 (.cmv 9 4) 0x0FF0 = true := by decide +kernel
theorem test_caddi : c9 (.caddi 9 31) 0xF0EF = true := by decide +kernel
theorem test_cadd : c9 (.cadd 9 4) 0x100E0 = true := by decide +kernel
theorem test_csub : c9 (.csub 9 4) 0xE100 = true := by decide +kernel
theorem test_cand : c9 (.cand 9 4) 0x00F0 = true := by decide +kernel
theorem test_cor : c9 (.cor 9 4) 0xFFF0 = true := by decide +kernel
theorem test_cxor : c9 (.cxor 9 4) 0xFF00 = true := by decide +kernel
theorem test_cshli : c9 (.cshli 9 4) 0xF0F00 = true := by decide +kernel
theorem test_cshri : c9 (.cshri 9 4) 0xF0F = true := by decide +kernel
theorem test_csrai : c9 (.csrai 9 4) 0xF0F = true := by decide +kernel
/-- 03: the carry of the 128-bit sum: `^` names g11 (1), so g12 becomes 2. -/
theorem test_cadd_carry :
    leaves (exec (.cadd 12 12) { withG [(11, 1), (12, 1)] with hart := (withG [(11, 1), (12, 1)]).hart.setLds 11 })
      (fun t => t.hart.readG 12 == 2 && t.hart.lds == 12) = true := by decide +kernel

/-! ### Words of messages (R93, R94) -/

/-- Three arrived words, and an open message with two words to come. -/
def mail : State :=
  { ints with hart := { ints.hart with
      words := [10, 3, 4]
      open' := some { dest := { die := 0, parish := 0, core := 1 }, hart := none, words := [none, none], taken := 0 } } }

theorem test_mq_order : leaves (exec (.sub 9 31 31) mail) (fun t => t.hart.readG 9 == 7 && t.hart.words == [4]) = true := by
  decide +kernel
theorem test_mq_push :
    leaves (exec (.cmv 31 2) mail) (fun t => (t.hart.open'.map fun m => m.words) == some [some 2, none]) = true := by
  decide +kernel

/-! ### Control transfer (R111 to R113) -/

/-- Where the pc goes, from 0x0_0200_0010_0000. -/
def goes (i : Instr) (pc : Word) : Bool := leaves (exec i ints) fun t => t.hart.pc == pc

/-- 04: 0x3FFA is −6, so the branch goes back 12 bytes. -/
theorem test_beq : goes (.beq 2 2 0x3FFA) 0x0200000FFFF4 = true := by decide +kernel
theorem test_bne : goes (.bne 2 2 0x3FFA) 0x020000100004 = true := by decide +kernel
theorem test_blt : goes (.blt 1 2 8) 0x020000100010 = true := by decide +kernel
theorem test_bge : goes (.bge 1 2 8) 0x020000100004 = true := by decide +kernel
theorem test_bltu : goes (.bltu 1 2 8) 0x020000100004 = true := by decide +kernel
theorem test_bgeu : goes (.bgeu 1 2 8) 0x020000100010 = true := by decide +kernel
theorem test_beqL : goes (.beqL 1 2 8) 0x020000100008 = true := by decide +kernel
theorem test_bneL : goes (.bneL 1 2 0xFFFFFFFF) 0x0200000FFFFE = true := by decide +kernel
theorem test_bltL : goes (.bltL 1 2 8) 0x020000100010 = true := by decide +kernel
theorem test_bgeL : goes (.bgeL 1 2 8) 0x020000100008 = true := by decide +kernel
theorem test_bltuL : goes (.bltuL 2 1 8) 0x020000100010 = true := by decide +kernel
theorem test_bgeuL : goes (.bgeuL 2 1 8) 0x020000100008 = true := by decide +kernel
theorem test_cbnz : leaves (exec (.cbnz 0x3FF) last3) (fun t => t.hart.pc == 0x0200000FFFFE) = true := by decide +kernel
theorem test_cbez : leaves (exec (.cbez 0x3FF) last3) (fun t => t.hart.pc == 0x020000100002) = true := by decide +kernel
theorem test_call :
    leaves (exec (.call 9 0x7FFFE) ints) (fun t => t.hart.pc == 0x0200000FFFFC && t.hart.readG 9 == 0x020000100004) = true := by
  decide +kernel
theorem test_lcall :
    leaves (exec (.lcall 9 4) ints) (fun t => t.hart.pc == 0x020000100008 && t.hart.readG 9 == 0x020000100008) = true := by
  decide +kernel
/-- The base is read before the link is written (R113). -/
theorem test_jumpr :
    leaves (exec (.jumpr 8 8 0x3FFF) ints) (fun t => t.hart.pc == 0xFFF && t.hart.readG 8 == 0x020000100004) = true := by
  decide +kernel

/-! ### Scalar memory (R150 to R172) -/

/-- `ints` with these bytes from 0x1000 on. -/
def bytes : State := { ints with mem := writeBytes [] 0x1000 [0x81, 0x82, 0x83, 0xF4, 0x05, 0x06, 0x07, 0x88] }

def l9 (i : Instr) (v : Word) : Bool := leaves (exec i bytes) fun t => t.hart.readG 9 == v && t.mem == bytes.mem

theorem test_load_b : l9 (.load 9 8 1 .b) 0xFFFFFFFFFFFFFF82 = true := by decide +kernel
theorem test_load_wu : l9 (.load 9 8 0 .wu) 0xF4838281 = true := by decide +kernel
theorem test_loadL : l9 (.loadL 9 8 0xFFFFFFFF .h) 0xFFFFFFFFFFFF8100 = true := by decide +kernel
theorem test_loadx : l9 (.loadx 9 8 2 1 .w) 0xFFFFFFFF88070605 = true := by decide +kernel
theorem test_loadAcq : l9 (.loadAcq 9 8 .device .d) 0x88070605F4838281 = true := by decide +kernel
theorem test_cld :
    leaves (exec (.cld 9 0) { bytes with hart := bytes.hart.setLds 8 }) (fun t => t.hart.readG 9 == 0x88070605F4838281) =
      true := by decide +kernel

/-- What stands at 0x1000 after a store. -/
def m8 (i : Instr) (v : Nat) : Bool := leaves (exec i bytes) fun t => readNum t.mem 0x1000 8 == v && t.hart.g == bytes.hart.g

theorem test_store : m8 (.store 3 8 2 .h) 0x88070605F0F08281 = true := by decide +kernel
theorem test_storeL : m8 (.storeL 3 8 0 .b) 0x88070605F48382F0 = true := by decide +kernel
theorem test_storex : m8 (.storex 3 8 2 1 .w) 0x0000F0F0F4838281 = true := by decide +kernel
theorem test_storeRel : m8 (.storeRel 2 8 .hart .d) 2 = true := by decide +kernel
theorem test_cst :
    leaves (exec (.cst 2 0) { bytes with hart := bytes.hart.setLds 8 }) (fun t => readNum t.mem 0x1000 8 == 2) = true := by
  decide +kernel

/-- An atomic on the word at 0x1000, whose value is 0xF4838281, with 2 as its operand. -/
def word (c : GReg) : AmoOps :=
  { a := 9, b := 8, c := c, dbl := false, far := false, scope := .device, ord := .ar, off := 0 }
def atomic (i : Instr) (v : Nat) : Bool :=
  leaves (exec i bytes) fun t => readNum t.mem 0x1000 4 == v && t.hart.readG 9 == 0xFFFFFFFFF4838281 &&
    readNum t.mem 0x1004 4 == 0x88070605

theorem test_amoadd : atomic (.amoadd (word 2)) 0xF4838283 = true := by decide +kernel
theorem test_amoand : atomic (.amoand (word 3)) 0x8080 = true := by decide +kernel
theorem test_amoor : atomic (.amoor (word 3)) 0xF483F2F1 = true := by decide +kernel
theorem test_amoxor : atomic (.amoxor (word 3)) 0xF4837271 = true := by decide +kernel
theorem test_amomin : atomic (.amomin (word 2)) 0xF4838281 = true := by decide +kernel
theorem test_amomax : atomic (.amomax (word 2)) 2 = true := by decide +kernel
theorem test_amominu : atomic (.amominu (word 2)) 2 = true := by decide +kernel
theorem test_amomaxu : atomic (.amomaxu (word 2)) 0xF4838281 = true := by decide +kernel
theorem test_amoswap : atomic (.amoswap (word 2)) 2 = true := by decide +kernel
/-- g9 holds 0, so the compare fails and nothing is written (R157). -/
theorem test_cas : atomic (.cas (word 2)) 0xF4838281 = true := by decide +kernel
/-- 2.0 + 2.0 in fp64; the value read comes back whole. -/
theorem test_amofadd :
    leaves (exec (.amofadd { word 2 with dbl := true })
        { withG [(2, 0x4000000000000000), (8, 0x1000)] with mem := writeNum [] 0x1000 8 0x4000000000000000 })
      (fun t => readNum t.mem 0x1000 8 == 0x4010000000000000 && t.hart.readG 9 == 0x4000000000000000) = true := by
  decide +kernel

/-- The instruction moves the pc on and leaves registers and memory alone. -/
def idle (i : Instr) (s : State) : Bool :=
  leaves (exec i s) fun t => t.hart.pc == s.hart.pc + 4 && t.hart.g == s.hart.g && t.mem == s.mem

theorem test_fenceAcq : idle (.fenceAcq .core) bytes = true := by decide +kernel
theorem test_fenceRel : idle (.fenceRel .die) bytes = true := by decide +kernel
theorem test_fenceFull : idle (.fenceFull .system) bytes = true := by decide +kernel
theorem test_fenceSv : idle .fenceSv bytes = true := by decide +kernel
theorem test_fenceVs : idle .fenceVs bytes = true := by decide +kernel
theorem test_fenceVv : idle .fenceVv bytes = true := by decide +kernel
theorem test_fenceI : idle .fenceI bytes = true := by decide +kernel
theorem test_prefetch : idle (.prefetch 8 true) bytes = true := by decide +kernel
theorem test_clean : idle (.clean 8 .device) bytes = true := by decide +kernel
theorem test_flush : idle (.flush 8 .parish) bytes = true := by decide +kernel
theorem test_inval : idle (.inval 8 .device) bytes = true := by decide +kernel
/-- The value differs from 0: WAITM completes with it (R166). -/
theorem test_waitm : l9 (.waitm 9 8 0 true .device) 0x88070605F4838281 = true := by decide +kernel
/-- It is equal: the hart parks (R166). -/
theorem test_waitm_equal :
    leaves (exec (.waitm 9 8 0 false .device) ints) (fun t => t.hart.wait == .watching 0x1000 true && t.hart.pc == ints.hart.pc) =
      true := by decide +kernel

/-! ### Scalar floating point (R231 to R238) -/

/-- 1.5, 2.25 and 1.0 in fp32. -/
def floats : State := withG [(1, 0x3FC00000), (2, 0x40100000), (9, 0x3F800000)]
def f9 (i : Instr) (v : Word) (fl : BitVec 5) : Bool :=
  leaves (exec i floats) fun t => t.hart.readG 9 == v && t.hart.fflags == fl

theorem test_fadd : f9 (.fadd 9 1 2 .s .rne) 0x40700000 0 = true := by decide +kernel
theorem test_fsub : f9 (.fsub 9 1 2 .s .rne) 0xBF400000 0 = true := by decide +kernel
theorem test_fmul : f9 (.fmul 9 1 2 .s .rne) 0x40580000 0 = true := by decide +kernel
theorem test_fdiv : f9 (.fdiv 9 1 2 .s .rne) 0x3F2AAAAB 1 = true := by decide +kernel
theorem test_fsqrt : f9 (.fsqrt 9 2 .s .rne) 0x3FC00000 0 = true := by decide +kernel
theorem test_fmin : f9 (.fmin 9 2 1 .s) 0x3FC00000 0 = true := by decide +kernel
theorem test_fmax : f9 (.fmax 9 1 2 .s) 0x40100000 0 = true := by decide +kernel
theorem test_fsgn : f9 (.fsgn 9 1 2 .s .neg) 0xBFC00000 0 = true := by decide +kernel
theorem test_fcmp : f9 (.fcmp 9 1 2 .s .lt) 1 0 = true := by decide +kernel
theorem test_frnd : f9 (.frnd 9 1 .s .rne) 0x40000000 1 = true := by decide +kernel
theorem test_fmvx : f9 (.fmvx 9 1 .h) 0 0 = true := by decide +kernel
theorem test_fma : f9 (.fma 9 1 2 .s .rne) 0x408C0000 0 = true := by decide +kernel
theorem test_fms : f9 (.fms 9 1 2 .s .rne) 0x40180000 0 = true := by decide +kernel
theorem test_fnma : f9 (.fnma 9 1 2 .s .rne) 0xC0180000 0 = true := by decide +kernel
theorem test_fnms : f9 (.fnms 9 1 2 .s .rne) 0xC08C0000 0 = true := by decide +kernel
/-- 07: the examples of FCLASS. -/
theorem test_fclass :
    leaves (exec (.fclass 9 1 .s) (withG [(1, 0x80000001)])) (fun t => t.hart.readG 9 == 9) = true ∧
    fpClass (fmtOf .h) 0x7E00 = 4 ∧ fpClass (fmtOf .bf) 0xFF80 = 0xB := by decide +kernel
/-- 07, "Stochastic rounding, step by step": the two conversions. -/
theorem test_fcvt_sr :
    leaves (exec (.fcvt 5 6 .fp32 .bf16 false .sr)
        { withG [(6, 0x3F800100)] with hart := { (withG [(6, 0x3F800100)]).hart with seed := 1 } })
      (fun t => t.hart.readG 5 == 0x3F81 && t.hart.seed == 0x42021 && t.hart.fflags == 1) = true := by decide +kernel
theorem test_fcvt_sr_second :
    leaves (exec (.fcvt 8 6 .fp32 .bf16 false .sr)
        { withG [(6, 0x3F800100)] with hart := { (withG [(6, 0x3F800100)]).hart with seed := 0x42021 } })
      (fun t => t.hart.readG 8 == 0x3F80 && t.hart.seed == 0x4080601 && t.hart.lds == 8) = true := by decide +kernel

/-! ### The machine of spec 01 and the spaces of spec 06 -/

/-- 01: places, routes and the croft store alias in the examples of R19, R26 and R42. -/
theorem test_places :
    Config.packageParish .y4822 4 7 = 81 ∧ (pathOf [] 3 8).length = 3 ∧ (pathOf [] 0 13).length = 2 ∧
    croftAlias { die := 4, parish := 7, core := 22 } = 0x010033D80000 := by decide +kernel

/-- 04: SY.HID and SY.CLASSES of the example of R124 and R125. -/
theorem test_hid :
    hidOf .y4822 { core := { die := 4, parish := 7, core := 22 }, hart := 3 } true = 0xA87B3 ∧
    Config.memberCode .y4822 = 0x4822 ∧
    ({ State.reset with here := { core := { die := 4, parish := 7, core := 22 }, hart := 3 } } : State).regValue 0x00A =
      0x4822353F := by decide +kernel

/-- 06: the walk of VA 0x4020_0C04_8C40, with the tables at 0x10_0000, 0x11_0000, 0x12_0000 and 0x13_0000. -/
def paged (privilege : Priv) : State :=
  { State.reset with
    hart := { State.reset.hart with
      status := Status.start privilege, ptroot := 0x100000
      g := (Vector.replicate 31 (0 : Word)).set 8 0x40200C048C40 }
    mem := writeNum (writeNum (writeNum (writeNum (writeNum [] 0x100008 8 0x110001) 0x110010 8 0x120001) 0x120018 8 0x130001)
      0x130020 8 0x2A170057) 0x2A178C40 8 0x1234 }

theorem test_walk_load :
    leaves (exec (.load 9 8 0 .d) (paged .task)) (fun t => t.hart.readG 9 == 0x1234 && readNum t.mem 0x130020 8 == 0x2A170057) =
      true := by decide +kernel
theorem test_walk_store :
    leaves (exec (.store 0 8 0 .d) (paged .task)) (fun t => readNum t.mem 0x2A178C40 8 == 0 &&
      readNum t.mem 0x130020 8 == 0x2A1700D7) = true := by decide +kernel
/-- The leaf has no X, so a fetch takes cause 0x06; 06, home and owner of the line. -/
theorem test_walk_home : homeOf 0x2A178C40 = 10 ∧ ownerOf 10 = 2 := by decide +kernel
/-- R208: TA is set, so nothing is fetched there at SUPER; and an absent page is cause 0x05. -/
theorem test_absent_page :
    leaves (exec (.load 9 8 0 .d) { paged .task with mem := [] })
      (fun t => t.hart.bankF.cause == 0x105 && t.hart.bankF.val == 0x40200C048C40) = true := by decide +kernel

/-! ### Traps (04) -/

/-- 04: SYSCALL 12 of the control hart at (1, 3, 9, 2), delegated to SUPER. -/
def caller : State :=
  { State.reset with
    here := { core := { die := 1, parish := 3, core := 9 }, hart := 2 }
    hart := { State.reset.hart with status := Status.start .task, pc := 0x401000, tdeleg := 0x8000, tvec := 0x7700, ldsT := 7 } }

theorem test_syscall :
    leaves (exec (.syscall 12) caller) (fun t => t.hart.pc == 0x7700 && t.hart.status.priv == .super && t.hart.status.sbusy &&
      t.hart.bankS == { pc := 0x401000, cause := 0x0F, val := 12 } && t.hart.ldsT == 7) = true := by decide +kernel
theorem test_syscall_firm :
    leaves (exec (.syscall 12) { caller with hart := { caller.hart with tdeleg := 0 } })
      (fun t => t.hart.pc == 0x02000010F000 && t.hart.status.priv == .firm && t.hart.bankF.cause == 0x0F) = true := by
  decide +kernel
/-- A trap to SUPER that finds SBUSY set goes to FIRM with DOUBLE; one that finds FBUSY set locks the hart up (R129). -/
theorem test_double :
    leaves (exec (.brk 5) { caller with hart := { caller.hart with
        status := { (Status.start .super) with sbusy := true }, tdeleg := 0x4000 } })
      (fun t => t.hart.bankF.cause == 0x400000000000000E && t.hart.status.fpp == .super) = true := by decide +kernel
theorem test_lockup :
    leaves (exec (.brk 5) { ints with hart := { ints.hart with status := { ints.hart.status with fbusy := true } } })
      (fun t => t.hart.wait == .lockup && t.hart.bankF == ints.hart.bankF) = true := by decide +kernel
theorem test_brk : leaves (exec (.brk 5) ints) (fun t => t.hart.bankF.cause == 0x0E && t.hart.bankF.val == 5) = true := by
  decide +kernel

/-- In a handler at SUPER that a TASK hart came to; SY.TRAPPC holds 0x40_1004. -/
def handling : State :=
  { caller with hart := { caller.hart with
      status := { (Status.start .super) with sbusy := true, spp := .task, spaie := true }
      bankS := { pc := 0x401004, cause := 0x0F, val := 12 }, pc := 0x7710 } }

theorem test_eret :
    leaves (exec .eret handling) (fun t => t.hart.pc == 0x401004 && t.hart.status.priv == .task && !t.hart.status.sbusy &&
      t.hart.status.saie) = true := by decide +kernel
theorem test_eret_task : leaves (exec .eret caller) (fun t => t.hart.bankF.cause == 3 && t.hart.bankF.val == 0x29E00) = true := by
  decide +kernel

/-- SSWAP in the handler of the example: g30 takes SY.SCRATCH, and the SUPER-level LDS names it. -/
theorem test_sswap :
    leaves (exec (.sswap 30 0x006) { handling with hart := { handling.hart.writeG 30 55 with scratch := 0x9000 } })
      (fun t => t.hart.readG 30 == 0x9000 && t.hart.scratch == 55 && t.hart.ldsS == 30 && t.hart.ldsT == 7) = true := by
  decide +kernel
theorem test_srd : leaves (exec (.srd 5 0x002) handling) (fun t => t.hart.readG 5 == 0x0F) = true := by decide +kernel
theorem test_srd_denied : leaves (exec (.srd 5 0x002) caller) (fun t => t.hart.bankF.cause == 3) = true := by decide +kernel
theorem test_swr :
    leaves (exec (.swr 5 0x001) { handling with hart := handling.hart.writeG 5 0x2000 }) (fun t => t.hart.bankS.pc == 0x2000) =
      true := by decide +kernel
theorem test_swr_unassigned : leaves (exec (.swr 5 0x007) ints) (fun t => t.hart.bankF.cause == 1) = true := by decide +kernel

/-- A debug request waits, and FIRM is busy with nothing. -/
theorem test_async :
    leaves (exec .asyncTrap { caller with hart := { caller.hart with pend1 := true } })
      (fun t => t.hart.bankF.cause == 0x8000000000000001 && !t.hart.pend1 && t.hart.status.priv == .firm) = true := by
  decide +kernel
theorem test_illegal :
    leaves (exec (.illegalInstruction 0x8000) caller) (fun t => t.hart.bankF.cause == 1 && t.hart.bankF.val == 0x8000) = true := by
  decide +kernel
theorem test_fetchFault :
    leaves (exec .fetchFault { caller with hart := { caller.hart with pc := 0x401001 } })
      (fun t => t.hart.bankF.cause == 4 && t.hart.bankF.val == 0x401001) = true := by decide +kernel

theorem test_pause :
    leaves (exec (.pause 2) ints) (fun t => t.hart.wait == .paused 2 && t.hart.pc == 0x020000100004) = true := by decide +kernel
theorem test_halt : leaves (exec .halt ints) (fun t => t.hart.wait == .halted) = true := by decide +kernel
theorem test_halt_task : leaves (exec .halt caller) (fun t => t.hart.bankF.cause == 3) = true := by decide +kernel
theorem test_wfm : leaves (exec .wfm ints) (fun t => t.hart.wait == .parked && t.hart.pc == ints.hart.pc) = true := by decide +kernel
theorem test_yield_firm : idle .yield ints = true := by decide +kernel
/-- The first parish of die 1 runs. -/
def powered (s : State) : State := s.setPower 2 { Power.reset with st := .run }
/-- MIGRATE to a V-core from a control context of a C-core (R133): CCLASS 1 stands in bits 19:18. -/
theorem test_migrate :
    leaves (exec (.migrate 2) (powered (withG [(2, 0x40000)])))
      (fun t => Config.classOf t.member t.here.core == .V && t.hart.pc == 0x020000100004 && !t.hart.compute) = true := by
  decide +kernel

/-- An entry of the page of 0x4020_0C04_0000 in this core's TLB, and one of another address space. -/
def filled : State :=
  let e : TlbEntry := { page := 0x40200C04, span := 16, asid := 0, global := false, pte := 0x2A170057, pteAddr := 0x130020 }
  ({ paged .super with } : State).setCore State.reset.here.core { Core.reset with tlb := [e, { e with asid := 9 }] }

theorem test_tlbinv :
    leaves (exec (.tlbinv 8 0 0) filled) (fun t => ((t.core t.here.core).tlb.map fun e => e.asid) == [9]) = true := by
  decide +kernel
theorem test_tlbinv_all : leaves (exec (.tlbinv 0 0 2) filled) (fun t => (t.core t.here.core).tlb == []) = true := by
  decide +kernel

/-! ### Tasks and messages (12) -/

/-- A TASK hart of a C-core whose task 1 stands in the table of parish 0. -/
def tasked : State :=
  ({ State.reset with hart := { State.reset.hart with
      status := Status.start .task, taskId := 1, pc := 0x1000
      g := ((Vector.replicate 31 (0 : Word)).set 11 0x2000).set 10 77 } } : State).setPdata 0
    { ParishData.reset with tasks := [{ id := 1, join := 0, ended := false, kill := false }] }

/-- 12: SPAWN of a control task at level 1 with its argument; the parent counts it. -/
theorem test_spawn_refused :
    leaves (exec (.spawn 5 11 10 1) { tasked with hart := tasked.hart.writeG 11 0x2001 })
      (fun t => t.hart.readG 5 == 0x8000000000000001) = true := by decide +kernel
theorem test_join : idle .join tasked = true := by decide +kernel
theorem test_join_waits :
    leaves (exec .join (tasked.updTask 1 fun e => { e with join := 1 }))
      (fun t => t.hart.wait == .parked && t.hart.pc == 0x1000) = true := by decide +kernel
theorem test_taskend :
    leaves (exec .taskend tasked) (fun t => t.hart.wait == .vacant && (t.taskEntry 1).isNone) = true := by decide +kernel
theorem test_msgdone : leaves (exec .msgdone tasked) (fun t => t.hart.wait == .vacant) = true := by decide +kernel
theorem test_msgopen :
    leaves (exec (.msgopen 1 2 true) (withG [(1, 8), (2, 2)]))
      (fun t => t.hart.open' == some { dest := { die := 0, parish := 0, core := 1 }, hart := none, words := [none, none], taken := 0 }) =
      true := by decide +kernel
theorem test_msgopen_refused :
    leaves (exec (.msgopen 1 2 true) (withG [(1, 8), (2, 33)])) (fun t => t.hart.bankF.cause == 0x0B) = true := by decide +kernel
theorem test_msgpoll : leaves (exec (.msgpoll 9) mail) (fun t => t.hart.readG 9 == 3) = true := by decide +kernel

/-! ### Moots (11) -/

/-- The moot of 11's example at generation 6, from rank `me` of four; `arrived` are the operands of the others. -/
def four (me : Nat) (arrived : List (Nat × Word)) (left : List Nat) : State :=
  let m (i : Nat) : MootMember :=
    { id := i, left := left.contains i, arr0 := (arrived.map fun e => e.1).contains i, arr1 := false
      in0 := (arrived.find? fun e => e.1 == i).map fun e => e.2, in1 := none }
  let x : Moot := { Moot.fresh 5 2 0 with
    gen := 6, counted := [m 0, m 1, m 2, m 3], op0 := some (.red .add .fp64), nextId := 4 }
  ({ (withG [(9, 0xC340000000000000), (1, 0)]) with moots := [x] } : State).setHandle 1
    (some { table := .device, name := 5, member := me, na := 6, await := none })

/-- 11: the operand of rank 3 arrives last; the sum is exact and NX is raised. -/
theorem test_mootred :
    leaves (exec (.mootredAdd 8 9 .fp64 1)
        (four 3 [(0, 0x4340000000000000), (1, 0x3FF0000000000000), (2, 0x3FF0000000000000)] []))
      (fun t => t.hart.readG 8 == 0x3FF0000000000000 && t.hart.fflags == 1 && t.hart.lds == 8 &&
        (t.moot .device 5).map (fun m => m.gen) == some 7) = true := by decide +kernel
/-- The same with rank 1 gone: no flag, and a counted set of three. -/
theorem test_mootred_left :
    leaves (exec (.mootredAdd 8 9 .fp64 1) (four 3 [(0, 0x4340000000000000), (2, 0x3FF0000000000000)] [1]))
      (fun t => t.hart.readG 8 == 0x3FF0000000000000 && t.hart.fflags == 0 &&
        (t.moot .device 5).map (fun m => m.counted.length) == some 3) = true := by decide +kernel
theorem test_mootarrive :
    leaves (exec (.mootarrive 8 1) (four 3 [] [])) (fun t => t.hart.readG 8 == 6 &&
      (t.hart.handle 1).map (fun h => h.na) == some 7) = true := by decide +kernel
theorem test_mootsync_waits :
    leaves (exec (.mootsync 8 1) (four 3 [] [])) (fun t => t.hart.wait == .parked &&
      (t.hart.handle 1).map (fun h => h.await.isSome) == some true) = true := by decide +kernel
theorem test_mootwait :
    leaves (exec (.mootwait 8 1 1) { four 3 [] [] with hart := (four 3 [] []).hart.writeG 1 5 })
      (fun t => t.hart.readG 8 == 0 && t.hart.pc == 0x020000100004) = true := by decide +kernel
theorem test_mootnew :
    leaves (exec (.mootnew 8 1 2 4) (withG [(1, 99), (2, 2)])) (fun t => t.hart.readG 8 == 0 && (t.moot .device 99).isSome &&
      (t.hart.handle 4).isSome) = true := by decide +kernel
theorem test_mootnew_twice :
    leaves (exec (.mootnew 8 1 2 4) { four 3 [] [] with hart := ((four 3 [] []).hart.writeG 1 5).writeG 2 2 })
      (fun t => t.hart.readG 8 == 3) = true := by decide +kernel
theorem test_mootjoin :
    leaves (exec (.mootjoin 8 1 4) { four 3 [] [] with
        hart := { ((four 3 [] []).hart.writeG 1 5) with handles := Vector.replicate 8 none } })
      (fun t => t.hart.readG 8 == 0 && (t.hart.handle 4).map (fun h => (h.member, h.na)) == some (4, 7)) = true := by
  decide +kernel
theorem test_mootleave : leaves (exec (.mootleave 1) (four 3 [] [])) (fun t => (t.hart.handle 1).isNone) = true := by
  decide +kernel
theorem test_mootfree : leaves (exec (.mootfree 8 1) (four 3 [] [])) (fun t => t.hart.readG 8 == 9) = true := by decide +kernel
theorem test_mootbytes :
    leaves (exec (.mootbytes 2 1) { four 3 [] [] with hart := (four 3 [] []).hart.writeG 2 256 })
      (fun t => (t.moot .device 5).map (fun m => m.pend) == some 256) = true := by decide +kernel
theorem test_mootquery :
    leaves (exec (.mootquery 8 2 1) { four 3 [] [] with hart := (four 3 [] []).hart.writeG 2 1 })
      (fun t => t.hart.readG 8 == 3) = true := by decide +kernel
/-- Four votes: one is zero; two count (R375). -/
def votes : List (Option Word) := [some 1, some 0, none, some 7]
theorem test_votes :
    (mootResult (some .all) votes).1 = 0 ∧ (mootResult (some .any) votes).1 = 1 ∧ (mootResult (some .count) votes).1 = 2 := by
  decide +kernel
theorem test_reductions :
    (mootResult (some (.red .add .uint)) votes).1 = 8 ∧ (mootResult (some (.red .and .uint)) votes).1 = 0 ∧
    (mootResult (some (.red .or .uint)) votes).1 = 7 ∧ (mootResult (some (.red .xor .uint)) votes).1 = 6 ∧
    (mootResult (some (.red .min .sint)) [some 3, some 0xFFFFFFFFFFFFFFFF]).1 = 0xFFFFFFFFFFFFFFFF ∧
    (mootResult (some (.red .max .uint)) [some 3, some 0xFFFFFFFFFFFFFFFF]).1 = 0xFFFFFFFFFFFFFFFF := by decide +kernel
theorem test_mootvoteAll : leaves (exec (.mootvoteAll 8 9 1) (four 3 [] [])) (fun t => t.hart.wait == .parked) = true := by
  decide +kernel
/-- A handle that is free is cause 0x07 (R352). -/
theorem test_moot_free_handle :
    leaves (exec (.mootvoteAny 8 9 2) (four 3 [] [])) (fun t => t.hart.bankF.cause == 7 && t.hart.bankF.val == 2) = true := by
  decide +kernel
theorem test_gbar_alone : idle .gbar ints = true := by decide +kernel

/-! ### Vector instructions (08, 09) -/

/-- A register of elements of `w` bits, from element 0 up. -/
def pack (w : Nat) (l : List Nat) : VWord := BitVec.ofNat 2048 (l.foldr (fun x n => x + n * 2 ^ w) 0)

/-- A compute hart of a V-core at FIRM. -/
def vcore (v : Vec) (g : List (GReg × Word) := []) : State :=
  { withG g with
    here := { core := { die := 1, parish := 0, core := 0 }, hart := 0 }
    hart := { (withG g).hart with compute := true, vec := v } }

/-- A vector file with these registers, VN and form. -/
def file (vn : Nat) (sew : Sew) (regs : List (VReg × Tag × VWord)) (masks : List (Nat × VWord) := []) : Vec :=
  let f : VCfg := { mz := false, tz := false, grp := .x1, sew := sew }
  let v := regs.foldl (fun (v : Vec) e =>
    { v with v := v.v.setIfInBounds e.1.toNat { bits := e.2.2, tag := e.2.1, sew := sew, grp := .x1 } }) Vec.reset
  { v with vn := vn, form := f, m := masks.foldl (fun m e => m.setIfInBounds e.1 e.2) v.m }

/-- A convoy of one instruction, closed. -/
def alone (v : Vec) (w : VWork) (mask : MaskSel := 0) : VMember :=
  { work := w, enc := 0, vn := v.vn, form := v.form, mask := mask, frm := 0, needsV := false, mixV := false, level := .firm
    dgrp := 1, tag := none, drawn := 0 }
def closed (m : VMember) : Convoy := { members := [m], closed := true, held := false, restart := false, raised := 0, done := none }
def queued (v : Vec) (w : VWork) (mask : MaskSel := 0) (g : List (GReg × Word) := []) : State :=
  vcore { v with queue := [closed (alone v w mask)] } g

/-- The first `n` elements of register `r` after the convoy has run. -/
def elements (s : State) (w : Nat) (r n : Nat) (l : List Nat) : Bool :=
  leaves (exec .convoyStart s) fun t => ((List.range n).map fun e => elemOf (t.hart.vec.reg r).bits.toNat w e) == l

/-- 08: VN = 8 at SEW 32, the sources of R260's example. -/
def eight : Vec :=
  file 8 .e32 [(2, .uint, pack 32 [10, 11, 12, 13, 14, 15, 16, 17]), (3, .uint, pack 32 [7, 0, 9, 2, 2, 15, 1, 4]),
    (4, .uint, pack 32 [1, 2, 3, 4, 5, 6, 7, 8])]
def routed (r : Route) (l : List Nat) : Bool := elements (queued eight (.un .mv 1 ⟨2, r⟩)) 32 1 8 l

theorem test_rot : routed (.rot 1) [11, 12, 13, 14, 15, 16, 17, 10] = true := by decide +kernel
theorem test_rot_back : routed (.rot 0xFFFFFFFFFFFFFFFD) [15, 16, 17, 10, 11, 12, 13, 14] = true := by decide +kernel
theorem test_bc : routed (.bc 9) [0, 0, 0, 0, 0, 0, 0, 0] = true := by decide +kernel
theorem test_fly : routed (.fly 1) [12, 13, 10, 11, 16, 17, 14, 15] = true := by decide +kernel
theorem test_rev2 : routed (.rev 2) [13, 12, 11, 10, 17, 16, 15, 14] = true := by decide +kernel
theorem test_rev0 : routed (.rev 0) [17, 16, 15, 14, 13, 12, 11, 10] = true := by decide +kernel
theorem test_ix : routed (.ix 3 false) [17, 10, 0, 12, 12, 0, 11, 14] = true := by decide +kernel
theorem test_ixm : routed (.ix 3 true) [17, 10, 11, 12, 12, 17, 11, 14] = true := by decide +kernel

def bin (op : VBin) (l : List Nat) : Bool := elements (queued eight (.bin op 1 ⟨2, .none⟩ (.vec ⟨4, .none⟩))) 32 1 8 l
theorem test_vadd : bin .add [11, 13, 15, 17, 19, 21, 23, 25] = true := by decide +kernel
theorem test_vsub : bin .sub [9, 9, 9, 9, 9, 9, 9, 9] = true := by decide +kernel
theorem test_vrsub : bin .rsub (List.replicate 8 0xFFFFFFF7) = true := by decide +kernel
theorem test_vmul : bin .mul [10, 22, 36, 52, 70, 90, 112, 136] = true := by decide +kernel
theorem test_vmulh : bin .mulh (List.replicate 8 0) = true := by decide +kernel
theorem test_vdiv : bin .div [10, 5, 4, 3, 2, 2, 2, 2] = true := by decide +kernel
theorem test_vrem : bin .rem [0, 1, 0, 1, 4, 3, 2, 1] = true := by decide +kernel
theorem test_vmin : bin .min [1, 2, 3, 4, 5, 6, 7, 8] = true := by decide +kernel
theorem test_vmax : bin .max [10, 11, 12, 13, 14, 15, 16, 17] = true := by decide +kernel
theorem test_vand : bin .and [0, 2, 0, 4, 4, 6, 0, 0] = true := by decide +kernel
theorem test_vor : bin .or [11, 11, 15, 13, 15, 15, 23, 25] = true := by decide +kernel
theorem test_vxor : bin .xor [11, 9, 15, 9, 11, 9, 23, 25] = true := by decide +kernel
theorem test_vshl : bin .shl [20, 44, 96, 208, 448, 960, 2048, 4352] = true := by decide +kernel
theorem test_vshr : bin .shr [5, 2, 1, 0, 0, 0, 0, 0] = true := by decide +kernel
theorem test_vfma_int :
    elements (queued eight (.fma .fnma 3 ⟨2, .none⟩ (.scalar 1))) 32 3 3 [0xFFFFFFFD, 0xFFFFFFF5, 0xFFFFFFFD] = true := by
  decide +kernel

/-- 08: VFMA v1, v2, v3 ?m1 in bfloat, after VTAG has made v1 bfloat. -/
def halves (t1 : Tag) : Vec :=
  file 4 .e16 [(1, t1, pack 16 (List.replicate 128 0x1234)), (2, .bfloat, pack 16 [0x3F80, 0x4040, 0xC000, 0x7F80]),
    (3, .bfloat, pack 16 (List.replicate 128 0x3F00))] [(1, 0b1011)]
theorem test_vfma :
    leaves (exec .convoyStart (queued (halves .bfloat) (.fma .fma 1 ⟨2, .none⟩ (.vec ⟨3, .none⟩)) 1)) (fun t =>
      ((List.range 6).map fun e => elemOf (t.hart.vec.reg 1).bits.toNat 16 e) == [0x3F00, 0x3FC0, 0x1234, 0x7F80, 0x1234, 0x1234] &&
      (t.hart.vec.queue.map fun c => c.done) == [some 1] && (t.hart.vec.reg 1).tag == .bfloat) = true := by decide +kernel
/-- Before VTAG the tags disagree, and nothing is written (R247). -/
theorem test_vfma_tags :
    leaves (exec .convoyStart (queued (halves .float) (.fma .fma 1 ⟨2, .none⟩ (.vec ⟨3, .none⟩)) 1)) (fun t =>
      t.hart.bankF.cause == 0x809 && t.hart.vec.v == (halves .float).v) = true := by decide +kernel
theorem test_vtag :
    leaves (exec .convoyStart (queued (halves .float) (.vtag 1 .bfloat))) (fun t =>
      (t.hart.vec.reg 1).tag == .bfloat && (t.hart.vec.reg 1).bits == ((halves .float).reg 1).bits) = true := by decide +kernel

def un (op : VUnOp) (l : List Nat) : Bool := elements (queued eight (.un op 1 ⟨2, .none⟩)) 32 1 3 l
theorem test_vneg : un .neg [0xFFFFFFF6, 0xFFFFFFF5, 0xFFFFFFF4] = true := by decide +kernel
theorem test_vnot : un .not [0xFFFFFFF5, 0xFFFFFFF4, 0xFFFFFFF3] = true := by decide +kernel
theorem test_vclz : un .clz [28, 28, 28] = true := by decide +kernel
theorem test_vpopc : un .popc [2, 3, 2] = true := by decide +kernel
/-- |−2| and the square root of 4, as bf16 and fp32. -/
theorem test_vabs : elements (queued (halves .bfloat) (.un .abs 5 ⟨2, .none⟩)) 16 5 3 [0x3F80, 0x4040, 0x4000] = true := by
  decide +kernel
theorem test_vsqrt :
    elements (queued (file 1 .e32 [(2, .float, pack 32 [0x40800000])]) (.un .sqrt 5 ⟨2, .none⟩)) 32 5 1 [0x40000000] = true := by
  decide +kernel
theorem test_vcmp :
    leaves (exec .convoyStart (queued eight (.cmp .lt 0 2 ⟨2, .none⟩ (.imm 13)))) (fun t => t.hart.vec.mask 2 == 0b00000111) =
      true := by decide +kernel
theorem test_vsel :
    elements (queued { eight with m := eight.m.set 1 0b00000101 } (.sel 1 ⟨2, .none⟩ ⟨4, .none⟩) 1) 32 1 3 [10, 2, 12] = true := by
  decide +kernel

/-- 09: the sums of the reduction example. -/
def sums : Vec := file 5 .e32 [(2, .float, pack 32 [0x3F800000, 0x4B800000, 0x3F800000, 0xCB800000, 0x3F800000])]
theorem test_vred :
    leaves (exec .convoyStart (queued sums (.red .add false 1 ⟨2, .none⟩))) (fun t =>
      elemOf (t.hart.vec.reg 1).bits.toNat 32 0 == 0x40000000 && (t.hart.vec.queue.map fun c => c.done) == [some 1]) = true := by
  decide +kernel
theorem test_vredO :
    leaves (exec .convoyStart (queued sums (.red .add true 3 ⟨2, .none⟩))) (fun t =>
      elemOf (t.hart.vec.reg 3).bits.toNat 32 0 == 0x3F800000) = true := by decide +kernel
theorem test_vscan : elements (queued eight (.scan .add 1 ⟨4, .none⟩)) 32 1 5 [1, 3, 6, 10, 15] = true := by decide +kernel
theorem test_vcompress :
    elements (queued { eight with m := eight.m.set 1 0b01010010 } (.compress 1 ⟨2, .none⟩) 1) 32 1 3 [11, 14, 16] = true := by
  decide +kernel
theorem test_vexpand :
    elements (queued { eight with m := eight.m.set 1 0b00001010 } (.expand 1 ⟨2, .none⟩) 1) 32 1 4 [0, 10, 0, 11] = true := by
  decide +kernel
theorem test_viota : elements (queued eight (.iota 1)) 32 1 4 [0, 1, 2, 3] = true := by decide +kernel
theorem test_vextract :
    leaves (exec .convoyStart (queued eight (.extract (.reg 9) ⟨2, .none⟩ 3))) (fun t => t.hart.readG 9 == 13) = true := by
  decide +kernel
theorem test_vinsert : elements (queued eight (.insert 2 99 1)) 32 2 3 [10, 99, 12] = true := by decide +kernel
theorem test_mask :
    leaves (exec .convoyStart (queued { eight with m := (eight.m.set 1 0b1100).set 2 0b1010 } (.mask .andn 3 1 2)))
      (fun t => t.hart.vec.mask 3 == 0b0100) = true := by decide +kernel
theorem test_mpopc :
    leaves (exec .convoyStart (queued { eight with m := eight.m.set 1 0b111100001100 } (.mpopc (.reg 9) 1)))
      (fun t => t.hart.readG 9 == 2) = true := by decide +kernel
theorem test_mfirst :
    leaves (exec .convoyStart (queued { eight with m := eight.m.set 1 0b1100 } (.mfirst (.reg 9) 1)))
      (fun t => t.hart.readG 9 == 2) = true := by decide +kernel
theorem test_mfirst_none :
    leaves (exec .convoyStart (queued eight (.mfirst (.reg 9) 1))) (fun t => t.hart.readG 9 == 0xFFFFFFFFFFFFFFFF) = true := by
  decide +kernel
/-- 2.5 in fp32 to a signed 32-bit integer, to nearest even. -/
theorem test_vcvt :
    elements (queued (file 1 .e32 [(2, .float, pack 32 [0x40200000])]) (.cvt 5 ⟨2, .none⟩ .sint .e32 .rne false)) 32 5 1 [2] =
      true := by decide +kernel

/-- Memory at 0x1000 holds 1, 2, 3, 4 as words. -/
def buffer (s : State) : State := { s with mem := writeBytes [] 0x1000 [1, 0, 0, 0, 2, 0, 0, 0, 3, 0, 0, 0, 4, 0, 0, 0] }
def four32 : Vec := file 4 .e32 [(2, .uint, pack 32 [8, 0, 12, 4])]
theorem test_vld : elements (buffer (queued four32 (.load 1 (.unit 0x1000) .uint false))) 32 1 4 [1, 2, 3, 4] = true := by
  decide +kernel
theorem test_vld_strided :
    elements (buffer (queued four32 (.load 1 (.strided 0x100C 0xFFFFFFFFFFFFFFFC) .uint false))) 32 1 4 [4, 3, 2, 1] = true := by
  decide +kernel
theorem test_vldx : elements (buffer (queued four32 (.load 1 (.indexed 0x1000 2) .uint false))) 32 1 4 [3, 1, 4, 2] = true := by
  decide +kernel
theorem test_vst :
    leaves (exec .convoyStart (queued four32 (.store 2 (.unit 0x1000) false)))
      (fun t => readBytes t.mem 0x1000 16 == [8, 0, 0, 0, 0, 0, 0, 0, 12, 0, 0, 0, 4, 0, 0, 0]) = true := by decide +kernel
/-- 09: the sweep of R295's example: element 16 is the lowest of row 2. -/
theorem test_sweep :
    (VAt.sweep 0x10F800 { len := 8, stride := 4 } { len := 4, stride := 1024 } { len := 0, stride := 0 }).address 32 0 16 =
      some 0x110000 := by decide +kernel

/-- 08: VSETN.G of rank 3 of a gang of 4, and VSETN. -/
theorem test_vsetnG :
    leaves (exec (.vsetnG { a := 9, b := 1, sew := .e32, grp := .x1, tz := false, mz := false })
        { vcore Vec.reset [(1, 200)] with hart := { (vcore Vec.reset [(1, 200)]).hart with
            gang := some { id := 4, rank := 3, size := 4, home := 0, count := 0 } } })
      (fun t => t.hart.readG 9 == 0x000000A000000028 && t.hart.vec.vn == 40) = true := by decide +kernel
theorem test_vsetn :
    leaves (exec (.vsetn { a := 9, b := 1, sew := .e32, grp := .x2, tz := true, mz := false }) (vcore Vec.reset [(1, 200)]))
      (fun t => t.hart.readG 9 == 128 && t.hart.vec.form == { mz := false, tz := true, grp := .x2, sew := .e32 }) = true := by
  decide +kernel
theorem test_vsetd :
    leaves (exec (.vsetd 1 2 1) (vcore Vec.reset [(1, 0x100000004), (2, 1024)]))
      (fun t => t.hart.vec.dim[1] == { len := 4, stride := 1024 }) = true := by decide +kernel
theorem test_wset :
    leaves (exec (.wset 2 1 2 none) (vcore Vec.reset [(1, 0x2000), (2, 4)]))
      (fun t => t.hart.vec.stream 2 == { base := 0x2000, stride := 4, cursor := 0, pages := [] }) = true := by decide +kernel
theorem test_wadv :
    leaves (exec (.wadv 2 1 (some 16)) (vcore { Vec.reset with w := Vector.replicate 8 { base := 0x2000, stride := 4, cursor := 1, pages := [] } }
        [(1, 5)])) (fun t => t.hart.vec.stream 2 == { base := 0x2010, stride := 4, cursor := 6, pages := [] }) = true := by decide +kernel
/-- VADD opens a convoy, and sets LDV (R261, R265). -/
theorem test_dispatch :
    leaves (exec (.vadd { a := 3, c := 1, b := 2, j := false, drv := 0, form := .vv, m := 0 }) (vcore eight))
      (fun t => t.hart.vec.queue.length == 1 && t.hart.vec.ldv == 3 && t.hart.instret == 0) = true := by decide +kernel
/-- CVADD with nothing before it is a structural conflict (R262). -/
theorem test_conflict : leaves (exec (.cvadd 1 2) (vcore eight)) (fun t => t.hart.bankF.cause == 1) = true := by decide +kernel
/-- Not on a core without the class: on a Y-4804, which has no V-core, a modifier of class 3 is cause 0x01 (00). -/
theorem test_no_class :
    leaves (exec (.migrationTrap .V 0xABC) { ints with member := .y4804 })
      (fun t => t.hart.bankF.cause == 1 && t.hart.bankF.val == 0xABC) = true := by decide +kernel
/-- VFSAVE captures its address (R271). -/
theorem test_vfsave :
    leaves (exec (.vfsave 1) (vcore eight [(1, 0x10000)]))
      (fun t => (t.hart.vec.queue.flatMap fun c => c.members.map fun m => m.work) == [.vfsave 0x10000]) = true := by
  decide +kernel
/-- A drained convoy merges its flags and counts its members (R269). -/
theorem test_drain :
    leaves (exec .convoyDrain (vcore { eight with queue := [{ closed (alone eight (.iota 1)) with done := some 1 }] }))
      (fun t => t.hart.vec.queue == [] && t.hart.fflags == 1 && t.hart.instret == 1) = true := by decide +kernel
theorem test_close :
    leaves (exec .convoyClose (vcore { eight with queue := [{ closed (alone eight (.iota 1)) with closed := false }] }))
      (fun t => t.hart.vec.queue.map (fun c => c.closed) == [true]) = true := by decide +kernel

/-! ### Matrix instructions (10) -/

/-- 10: the block sums of the example, in the two rows and a column of zeros. -/
def tileA : MatOperand :=
  { tile := 6 + 0x12 * 2 ^ 128 + 2 * 2 ^ 1024, scale := 0x7F93 + 0x7FFF * 2 ^ 64, scaled := true, code := 4 }
def tileB : MatOperand := { tile := 0x48 + 0x3838 * 2 ^ 256, scale := 0, scaled := false, code := 2 }
theorem test_mma : mmaElement tileA tileB false 0 0 [(0, 0), (1, 1)] 0 0 = (0x4B800001, 1) := by decide +kernel
theorem test_mma_nan : mmaElement tileA tileB false 1 0 [(0, 0), (1, 1)] 0 0 = (0x7FC00000, 0) := by decide +kernel
theorem test_mma_zero : mmaElement tileA tileB false 0 1 [(0, 0), (1, 1)] 0 0 = (0, 0) := by decide +kernel
theorem test_shapeOk : shapeOk 0x20114 = true ∧ shapeOk 0x20115 = false := by decide +kernel

/-- A compute hart of a T-core at FIRM with one queued instruction. -/
def tcore (work : List MWork) (m : Mat := Mat.reset) (g : List (GReg × Word) := []) : State :=
  { withG g with
    here := { core := { die := 2, parish := 0, core := 5 }, hart := 1 }
    hart := { (withG g).hart with
      compute := true
      mat := { m with queue := work.map fun w =>
        { work := w, enc := 0x142BD00, vn := 0, form := VCfg.reset, mask := 0, frm := 0, level := .firm, held := false, older := 0, staged := none } } } }
def runs (s : State) (p : State → Bool) : Bool := match s.startMat with | some t => p t | none => false

/-- 10: MATTACH of 16 rows takes quarter 0, and g7 reads 0x10. -/
theorem test_mattach :
    runs (tcore [.attach (.reg 7) 16]) (fun t => t.hart.readG 7 == 0x10 && t.hart.mat.grantRows == 16 && t.hart.instret == 1) = true := by
  decide +kernel
theorem test_mshape : runs (tcore [.shape 0x20114]) (fun t => t.hart.mat.shape == 0x20114 && t.hart.mat.queue == []) = true := by
  decide +kernel
theorem test_mshape_bad :
    runs (tcore [.shape 0x20115]) (fun t => t.hart.mat.shape == 0x20000 && t.hart.bankF.cause == 0x809 && t.hart.mat.queue.length == 1) =
      true := by decide +kernel
theorem test_mzero_ungranted : runs (tcore [.zero]) (fun t => t.hart.bankF.cause == 0x80A) = true := by decide +kernel
theorem test_mtldk :
    runs { tcore [.ldk 1 0x1000 0] with mem := writeBytes [] 0x1000 [0xAB] }
      (fun t => (t.hart.mat.scaleTile 1).toNat % 2 ^ 16 == 0xAB && (t.hart.mat.scaleTile 1).toNat / 2 ^ 64 % 256 == 0xAB) = true := by
  decide +kernel
theorem test_mma_dispatch :
    leaves (exec (.mma { t := 0, b := .tile 1, ka := 0, kb := 0, cb := 0 }) (tcore []))
      (fun t => t.hart.mat.queue.length == 1 && t.hart.pc == 0x020000100004) = true := by decide +kernel
theorem test_mwait_waits : leaves (exec .mwait (tcore [.zero])) (fun t => t.hart.wait == .parked) = true := by decide +kernel
theorem test_mwait :
    leaves (exec .mwait (tcore [] { Mat.reset with flags := 1 })) (fun t => t.hart.fflags == 1 && t.hart.mat.flags == 0) = true := by
  decide +kernel

/-! ### States that meet the hypotheses of the statements -/

/-- `Ready` for a destination that is not mq, as a test. -/
def free (s : State) (srcs : List GReg) (dst : GReg) : Bool :=
  (dst :: srcs).all (fun r => !s.hart.owed r) && decide (mqCount srcs ≤ s.hart.words.length) && dst != 31

theorem ready_of_free {s : State} {srcs : List GReg} {dst : GReg} (h : free s srcs dst = true) : Ready s srcs dst := by
  simp only [free, Bool.and_eq_true, List.all_eq_true, Bool.not_eq_true', decide_eq_true_eq, bne_iff_ne, ne_eq] at h
  exact ⟨h.1.1, h.1.2, fun e => absurd e h.2⟩

/-- The access is performed. -/
def finished {α : Type} (g : Got α) : Bool := match g with | .done _ _ => true | _ => false

theorem done_of_finished {α : Type} {g : Got α} (h : finished g = true) : ∃ x t, g = .done x t := by
  cases g <;> simp [finished] at h ⊢

/-- The check passes, or fails with this cause. -/
def fails {α : Type} (g : Got α) (c : BitVec 8) : Bool := match g with | .bad b => b.cause == c | _ => false

theorem bad_of_fails {α : Type} {g : Got α} {c : BitVec 8} (h : fails g c = true) : ∃ e, g = .bad e ∧ e.cause = c := by
  cases g <;> simp [fails] at h ⊢; exact h

/-- The access gives `x` and leaves `s`. -/
def answers {α : Type} [DecidableEq α] (g : Got α) (x : α) (s : State) : Bool :=
  match g with | .done y t => decide (y = x) && decide (t = s) | _ => false

theorem done_of_answers {α : Type} [DecidableEq α] {g : Got α} {x : α} {s : State} (h : answers g x s = true) :
    g = .done x s := by
  cases g <;> simp [answers] at h ⊢; exact h

/-- What an access asks of homes and links is granted. -/
def granted' (g : Held) : Bool := match g with | .ok _ => true | .error _ => false

theorem ok_of_granted {g : Held} (h : granted' g = true) : ∃ t, g = .ok t := by
  cases g <;> simp [granted'] at h ⊢

/-! Integers, words of messages and control transfer. -/

theorem witness_IntegerTwoSources : Ready ints [1, 2] 9 ∧ Ready mail [31, 31] 9 :=
  ⟨ready_of_free (by decide +kernel), ready_of_free (by decide +kernel)⟩
theorem witness_IntegerOneSource : Ready ints [1] 9 ∧ Ready ints [2] 0 :=
  ⟨ready_of_free (by decide +kernel), ready_of_free (by decide +kernel)⟩
theorem witness_IntegerThreeSourcesConstantsAndCompactForms :
    Ready ints [1, 2, 9] 9 ∧ Ready ints [] 9 ∧ Ready last3 [last3.hart.lds] 9 ∧ Ready last3 [last3.hart.lds, 4] 9 ∧
    Ready last3 [4] 9 :=
  ⟨ready_of_free (by decide +kernel), ready_of_free (by decide +kernel), ready_of_free (by decide +kernel),
    ready_of_free (by decide +kernel), ready_of_free (by decide +kernel)⟩
/-- With mq as the destination (R94). -/
theorem witness_push : Ready mail [1, 2] 31 :=
  ⟨by decide +kernel, by decide +kernel, fun _ => ⟨_, rfl, by decide +kernel⟩⟩
theorem witness_MessageWords :
    mail.hart.words = 10 :: 3 :: [4] ∧ (∀ r, mail.hart.owed r = false) ∧ ints.hart.words = [] ∧
    ∃ m, mail.hart.open' = some m ∧ m.taken < m.words.length :=
  ⟨rfl, fun _ => rfl, rfl, _, rfl, by decide +kernel⟩
theorem witness_BranchesAndJumps :
    Ready ints [2, 1] 0 ∧ (last3.hart.lds = 3 ∧ Ready last3 [0, 3] 0) ∧ Ready ints [] 9 ∧ Ready ints [8] 9 :=
  ⟨ready_of_free (by decide +kernel), ⟨by decide +kernel, ready_of_free (by decide +kernel)⟩, ready_of_free (by decide +kernel),
    ready_of_free (by decide +kernel)⟩

/-! Scalar memory. -/

/-- A part of memory, as the check of an access at FIRM gives it. -/
def cell (n : Nat) : Piece := { va := 0x1000, n := n, pa := 0x1000, region := .hbm, kind := .cached, leaf := none }
def syncRead : How := { acc := 1, need := .read, style := .sync }
theorem witness_LoadsComplete :
    Ready bytes [8] 9 ∧ Ready bytes [8, 2] 9 ∧
    (∃ bs t, bytes.readAt .load (bytes.hart.src [] 8 + (0x7FF : BitVec 11).signExtend 64) 8 = .done bs t) ∧
    (∃ bs t, bytes.readAt syncRead (bytes.hart.src [] 8) 8 = .done bs t) ∧
    bytes.check bytes.who syncRead (bytes.hart.src [] 8) 8 = .done [cell 8] bytes ∧ bytes.readPending .device [cell 8] = false :=
  ⟨ready_of_free (by decide +kernel), ready_of_free (by decide +kernel), done_of_finished (by decide +kernel),
    done_of_finished (by decide +kernel), done_of_answers (by decide +kernel), by decide +kernel⟩
theorem witness_StoresComplete :
    Ready bytes [8, 3] 0 ∧ Ready bytes [8, 2, 3] 0 ∧ bytes.storesPending .system = false ∧
    (∃ s2, bytes.writeAt .store (bytes.hart.src [] 8 + (0x7FF : BitVec 11).signExtend 64) (leBytes 8 0xF0F0) = .done () s2) :=
  ⟨ready_of_free (by decide +kernel), ready_of_free (by decide +kernel), by decide +kernel, by
    obtain ⟨x, t, h⟩ := done_of_finished
      (g := bytes.writeAt .store (bytes.hart.src [] 8 + (0x7FF : BitVec 11).signExtend 64) (leBytes 8 0xF0F0)) (by decide +kernel)
    exact ⟨t, h⟩⟩
/-- An absent page at SUPER; and at TASK a page that may not be executed, in a parish without a reeve. -/
theorem witness_FailedAccessTraps :
    Ready { paged .super with mem := [] } [8] 9 ∧
    (∃ e, State.check { paged .super with mem := [] } (State.who { paged .super with mem := [] }) .load 0x40200C048C40 8 = .bad e ∧
      e.cause = 0x05) ∧
    (∃ e, (paged .task).check (paged .task).who .fetch 0x40200C048C40 2 = .bad e ∧ e.cause = 0x06) :=
  ⟨ready_of_free (by decide +kernel), bad_of_fails (by decide +kernel), bad_of_fails (by decide +kernel)⟩

/-- A parish with a reeve on core 5; a hart at TASK with an absent page under it. -/
def reeved : State :=
  let s : State := { paged .task with mem := [] }
  s.setPdata s.pp { s.pdata s.pp with reevemap := 0x20, reevevec := 0x401000 }
/-- A fault message at the reeve core, and a reply on its way to a hart that sleeps. -/
def unmapped : State :=
  { State.reset with cores := [({ die := 0, parish := 0, core := 5 }, { Core.reset with
      arrival := [{ dest := { die := 0, parish := 0, core := 5 }, hart := none, words := [0x401000, 0x5000, 0, 8], sender := 8
                    slot := none, reeve := true }] })] }
def sleeper : Place := { core := { die := 0, parish := 0, core := 1 }, hart := 0 }
def replied (v : Word) : State :=
  { State.reset with
    others := [(sleeper, { Hart.reset with wait := .asleep { addr := 0x5000, acc := 1, vec := false, mat := false } })]
    cores := [({ die := 0, parish := 0, core := 5 }, { Core.reset with
      depart := [{ dest := sleeper.core, hart := some 0, words := [0, v], sender := 40, slot := none, reeve := false }] })] }
theorem witness_ReeveFaults :
    (reeved.hart.status.priv = .task ∧ (reeved.pdata reeved.pp).reevemap ≠ 0 ∧ Ready reeved [8] 9 ∧
      ∃ e, reeved.check reeved.who .load 0x40200C048C40 8 = .bad e ∧ e.cause = 0x05) ∧
    ((∃ m, (unmapped.core { die := 0, parish := 0, core := 5 }).arrival = [m] ∧ m.reeve = true) ∧ unmapped.runs 0 = true ∧
      unmapped.tableRoom 0 1 = true ∧ unmapped.isFree { core := { die := 0, parish := 0, core := 5 }, hart := 7 } = true) ∧
    (∀ v, v = (0 : Word) ∨ v = 2 ∨ v = 1 →
      ∃ m, ((replied v).core { die := 0, parish := 0, core := 5 }).depart.filter Msg.passes = [m] ∧ m.hart = some 0 ∧
        (replied v).sendWaits { die := 0, parish := 0, core := 5 } m = false ∧ (replied v).reaches 0 0 = true) ∧
    ((replied 2).hartAt sleeper).wait = .asleep { addr := 0x5000, acc := 1, vec := false, mat := false } := by
  refine ⟨⟨by decide +kernel, by decide +kernel, ready_of_free (by decide +kernel), bad_of_fails (by decide +kernel)⟩,
    ⟨⟨_, rfl, rfl⟩, by decide +kernel⟩, ?_, by decide +kernel⟩
  rintro v (rfl | rfl | rfl) <;> exact ⟨_, rfl, rfl, by decide +kernel⟩
/-- The last bytes of HBM's first page. -/
theorem witness_LoadFrame :
    State.reset.hart.status.priv = .firm ∧ (0xFFF8 : Word).toNat % 65536 + 8 ≤ 65536 ∧ State.reset.lostDies = [] ∧
    State.reset.poison = [] ∧ (∃ bs t, bytes.readAt .load 0x1000 8 = .done bs t) :=
  ⟨rfl, by decide, rfl, rfl, done_of_finished (by decide +kernel)⟩
theorem witness_StoreFrame :
    MemOk bytes ∧ (∃ x t, bytes.check bytes.who .store 0x1000 8 = .done x t) ∧ bytes.migOf 0x1000 = none ∧
    (∃ x t, (paged .task).check (paged .task).who .store 0x40200C048C40 8 = .done x t) :=
  ⟨show Memory.wf bytes.mem = true by decide +kernel, done_of_finished (by decide +kernel), by decide +kernel,
    done_of_finished (by decide +kernel)⟩
def rmw : How := { acc := 3, need := .rmw, style := .atomic }
theorem witness_AtomicsComplete :
    Ready bytes [8, 2] 9 ∧ Ready bytes [8, 2, 9] 9 ∧ bytes.check bytes.who rmw 0x1000 4 = .done [cell 4] bytes ∧
    (∃ t, bytes.touchAtomic (cell 4) false true = .ok t) ∧ (∃ t, bytes.touchAtomic (cell 4) true false = .ok t) :=
  ⟨ready_of_free (by decide +kernel), ready_of_free (by decide +kernel), done_of_answers (by decide +kernel),
    ok_of_granted (by decide +kernel), ok_of_granted (by decide +kernel)⟩
def watch : How := { acc := 3, need := .read, style := .watch }
theorem witness_FencesAndWaitmComplete :
    bytes.hart.liveConvoys = [] ∧ (queued eight (.iota 1)).hart.liveConvoys ≠ [] ∧ Ready bytes [8, 0] 9 ∧
    bytes.check bytes.who watch 0x1000 8 = .done [cell 8] bytes ∧ bytes.readPending .device [cell 8] = false ∧
    (∃ t, bytes.touchReads [cell 8] = .ok t) :=
  ⟨by decide +kernel, by decide +kernel, ready_of_free (by decide +kernel), done_of_answers (by decide +kernel),
    by decide +kernel, ok_of_granted (by decide +kernel)⟩
def tidy : How := { acc := 2, need := .write, style := .maint }
theorem witness_MaintenanceCompletes :
    Ready bytes [8] 0 ∧ (cell 1).region.cacheable = true ∧ (cell 1).kind ≠ .device ∧
    (∃ t, bytes.maintReaches .array 0x20 = .ok t) ∧ bytes.hart.status.priv ≠ .task ∧
    bytes.check bytes.who tidy 0x1000 1 = .done [cell 1] bytes :=
  ⟨ready_of_free (by decide +kernel), rfl, by decide, ok_of_granted (by decide +kernel), by decide +kernel,
    done_of_answers (by decide +kernel)⟩

/-! Scalar floating point. -/

theorem witness_FloatingPointCompletes :
    floats.carriesHere .F = true ∧ Ready floats [1, 2] 9 ∧ Ready floats [1] 9 ∧ Ready floats [1, 2, 9] 9 ∧
    (0 : FFlags) &&& floats.hart.fenable = 0 :=
  ⟨by decide +kernel, ready_of_free (by decide +kernel), ready_of_free (by decide +kernel), ready_of_free (by decide +kernel),
    by decide +kernel⟩
/-- A NaN, the two infinities, zero and −1 in fp32. -/
theorem witness_FloatingPointSpecials :
    (fpValue (fmtOf .s) 0x7FC00000).isNan = true ∧ (fpValue (fmtOf .s) 0x7F800001).isSnan = true ∧
    fpValue (fmtOf .s) 0x7F800000 = .inf false ∧ fpValue (fmtOf .s) 0xFF800000 = .inf true ∧
    (∃ e, fpValue (fmtOf .s) 0 = .fin e ∧ e.isZero = true) ∧
    (∃ e, fpValue (fmtOf .s) 0xBF800000 = .fin e ∧ e.isZero = false ∧ e.neg = true) :=
  ⟨by decide +kernel, by decide +kernel, by decide +kernel, by decide +kernel, ⟨_, rfl, by decide +kernel⟩,
    ⟨_, rfl, by decide +kernel⟩⟩

/-! Traps, privilege and system registers. -/

theorem witness_TrapEntry :
    (caller.hart.status.priv ≠ .firm ∧ caller.hart.tdeleg.getLsbD 0x0F = true ∧ caller.hart.status.sbusy = false) ∧
    (ints.hart.status.priv = .firm ∧ ints.hart.status.fbusy = false) ∧
    (handling.hart.status.priv = .super ∧ handling.hart.status.sbusy = true) := by decide +kernel
/-- The pc stands at the last halfword of HBM, which opens an instruction of two halfwords. -/
def edge : State :=
  { State.reset with mem := writeNum [] 0x7FFFFFFFFE 2 0x8118, hart := { State.reset.hart with pc := 0x7FFFFFFFFE } }
theorem witness_SynchronousTraps :
    (0x401001 : Word).getLsbD 0 = true ∧
    (({ paged .super with hart := { (paged .super).hart with pc := 0x0100000000000000 } } : State).hart.pc.extractLsb' 56 8 ≠ 0) ∧
    ((State.reset.pdata State.reset.pp).reevemap = 0 ∧ State.reset.turns = [] ∧ 0 ∉ State.reset.lostDies ∧
      State.reset.hart.wait = .running ∧ State.reset.recovery = false ∧ State.reset.before.isNone = true) ∧
    ((∃ s1, State.reset.fetchHalves State.reset.hart.pc 1 = .done [0, 0] s1) ∧ lengthOf 0 / 2 - 1 = 0) ∧
    ((∃ b s1, edge.fetchHalves edge.hart.pc 1 = .done b s1) ∧ (∃ e, edge.fetchHalves (edge.hart.pc + 2) 1 = .bad e ∧ e.cause = 0x06) ∧
      lengthOf 0x8118 / 2 - 1 = 1) ∧
    caller.hart.status.fbusy = false ∧ caller.hart.status.sbusy = false :=
  ⟨by decide +kernel, by decide +kernel, ⟨rfl, rfl, by decide, rfl, rfl, by decide +kernel⟩, ⟨⟨_, rfl⟩, by decide +kernel⟩,
    ⟨done_of_finished (by decide +kernel), bad_of_fails (by decide +kernel), by decide +kernel⟩, rfl, rfl⟩
/-- A debug request and a kill notice at TASK, to FIRM and to SUPER. -/
def noticed (deleg : Word) : State := { caller with hart := { caller.hart with pend1 := true, pend2 := true, tdeleg := deleg } }
theorem witness_AsynchronousTraps :
    (noticed 0).hart.pend2 = true ∧ (noticed 0).hart.tdeleg.getLsbD 34 = false ∧ (noticed 0).hart.status.fbusy = false ∧
    (noticed 0x400000000).hart.tdeleg.getLsbD 34 = true ∧ (noticed 0x400000000).hart.status.sbusy = false ∧
    (noticed 0x400000000).hart.status.priv = .task ∧ ints.hart.pend1 = false := by decide +kernel
theorem witness_TrapReturn :
    handling.hart.status.priv = .super ∧ ints.hart.status.priv = .firm ∧ caller.hart.status.priv = .task := by decide +kernel
theorem witness_PrivilegeTraps : caller.hart.status.priv = .task ∧ handling.hart.status.priv = .super := by decide +kernel
theorem witness_SystemRegisterAccess :
    rightsOf 0x005 = some ⟨1, 2⟩ ∧ ints.regReady 0x005 = .ok ints ∧ Ready ints [] 9 ∧ Ready ints [9] 9 ∧ Ready ints [9] 0 ∧
    rightsOf 0x010 ≠ none ∧ homeOf ints.hart.diraddr.toNat ∉ ints.lostDies ∧ ints.windowDenied 0x005 = false ∧ ints.killHeld 0x005 0 = none :=
  ⟨by decide +kernel, by rfl, ready_of_free (by decide +kernel), ready_of_free (by decide +kernel),
    ready_of_free (by decide +kernel), by decide +kernel⟩
theorem witness_SystemRegisterFields :
    ints.hart.status.priv = .firm ∧ (0x1E1E1E : Word).extractLsb' 0 5 ≠ 31 ∧ (0 : Word).extractLsb' 4 2 ≠ 3 ∧
    handling.hart.status.priv = .super := by decide +kernel
/-- A channel that switches, and two pages that migrate, one of them copied whole. -/
def events : State :=
  { ints with
    switching := [(8, 3)]
    migs := [{ old := 0x50000, new := 0x90000, bits := 1 }, { old := 0x60000, new := 0xA0000, bits := BitVec.allOnes 512 }] }
theorem witness_RegisterWriteEvents :
    (∃ r, rightsOf (0x005 : BitVec 12).toNat = some r ∧ r.write < 3 ∧ ownWrite (0x005 : BitVec 12).toNat = false) ∧
    events.switching.contains (8, 3) = true ∧ tasked.isLive 1 = true ∧ tasked.isLive 2 = false ∧
    events.migs.find? (fun m => m.old == 5 * 65536) = some { old := 0x50000, new := 0x90000, bits := 1 } ∧
    events.migs.find? (fun m => m.old == 6 * 65536) = some { old := 0x60000, new := 0xA0000, bits := BitVec.allOnes 512 } :=
  ⟨⟨⟨1, 2⟩, by decide +kernel⟩, by decide +kernel⟩
theorem witness_WaitsAndMoves :
    Ready ints [2] 0 ∧ ints.hart.words = [] ∧ mail.hart.words ≠ [] ∧ tasked.hart.mat.grantRows = 0 ∧
    tasked.queueRoom (tasked.queueParish tasked.pp) = true ∧ (powered (withG [(2, 0x40000)])).canLeave = true ∧
    ((powered (withG [(2, 0x40000)])).finishNone [2] 4).findOfClass .V ≠ none ∧
    ((withG [(2, 0x40000)]).finishNone [2] 4).findOfClass .V = none ∧ Config.hasCore .y4822 .V = true :=
  ⟨ready_of_free (by decide +kernel), rfl, by decide +kernel⟩
theorem witness_TlbInvalidation : filled.hart.status.priv ≠ .task ∧ Ready filled [8, 0] 0 :=
  ⟨by decide +kernel, ready_of_free (by decide +kernel)⟩

/-! Vector and matrix instructions. -/

/-- A V-core takes classes E and V; a T-core E and M. `eight` has room, a join with nothing before it conflicts, and one
that reads what the open convoy writes does not. -/
theorem witness_VectorArithmeticDispatch :
    (vcore eight).carriesHere .E = true ∧ (vcore eight).carriesHere .V = true ∧ (tcore []).carriesHere .E = true ∧
    (vcore eight).hart.vecFull = false ∧ Ready (vcore eight) [1] 0 ∧ Ready (vcore eight) [1, 2] 9 ∧
    (alone eight (.un .mv 1 ⟨2, .none⟩)).conflict [] = true ∧
    (alone eight (.un .mv 1 ⟨2, .none⟩)).conflict [alone eight (.iota 2)] = false :=
  ⟨by decide +kernel, by decide +kernel, by decide +kernel, by decide +kernel, ready_of_free (by decide +kernel),
    ready_of_free (by decide +kernel), by decide +kernel⟩
theorem witness_VectorCompareUnaryDispatch :
    (vcore eight).carriesHere .V = true ∧ (vcore eight).hart.vecFull = false ∧ Ready (vcore eight) [1] 0 :=
  ⟨by decide +kernel, by decide +kernel, ready_of_free (by decide +kernel)⟩
theorem witness_VectorWholeDispatch :
    (tcore []).carriesHere .E = true ∧ (tcore []).hart.vecFull = false ∧ Ready (tcore []) [1, 2] 9 :=
  ⟨by decide +kernel, by decide +kernel, ready_of_free (by decide +kernel)⟩
theorem witness_VectorMemoryDispatch :
    (vcore eight).carriesHere .E = true ∧ (vcore eight).hart.vecFull = false ∧ Ready (vcore eight) [1, 2] 0 :=
  ⟨by decide +kernel, by decide +kernel, ready_of_free (by decide +kernel)⟩
theorem witness_VectorConfiguration :
    (vcore eight).carriesHere .E = true ∧ Ready (vcore eight) [1] 9 ∧ Ready (vcore eight) [1, 2] 0 ∧
    (vcore eight).hart.vecFull = false ∧ (vcore eight).hart.vecBarrier = false :=
  ⟨by decide +kernel, ready_of_free (by decide +kernel), ready_of_free (by decide +kernel), by decide +kernel⟩
/-- A convoy that may start and fails its check, one that is open, and one that has run. -/
theorem witness_ConvoysFormAndRun :
    (alone (halves .float) (.fma .fma 1 ⟨2, .none⟩ (.vec ⟨3, .none⟩))).check (halves .float).shapes = none ∧
    (queued (halves .float) (.iota 1)).hart.vec.queue = [closed (alone (halves .float) (.iota 1))] ∧
    (closed (alone eight (.iota 1))).closed = true ∧ (closed (alone eight (.iota 1))).held = false ∧
    (alone eight (.iota 1)).level = State.reset.hart.status.priv ∧ (1 : FFlags) &&& State.reset.hart.fenable = 0 := by
  decide +kernel
/-- The convoy at the head may start, alone on its turn, and passes its check: `Starts`, as a test. -/
def starts (v : Vec) (w : VWork) (mask : MaskSel := 0) : Bool :=
  let m := alone v w mask
  let s := queued v w mask
  s.hart.vec.queue == [closed m] && s.unitTurn && decide (m.vn ≤ m.form.vlmax) && (m.check s.hart.vec.shapes).isSome
/-- One of each kind on integers, on a floating format, with a mask, and with VN below VLMAX. -/
theorem witness_VectorElementResults :
    let i : Vec := { eight with m := eight.m.set 1 5 }
    let f := halves .bfloat
    let x : VSrc := ⟨2, .none⟩
    let y : VOpnd := .vec ⟨4, .none⟩
    [VBin.add, .sub, .rsub, .mul, .mulh, .div, .rem, .min, .max, .and, .or, .xor, .shl, .shr].all
      (fun op => starts i (.bin op 1 x y) && starts i (.bin op 1 x (.imm 3)) && starts i (.bin op 1 x (.scalar 3)) 1) = true ∧
    [VBin.add, .sub, .rsub, .mul, .div, .min, .max].all (fun op => starts f (.bin op 1 x (.vec ⟨3, .none⟩)) 1) = true ∧
    [VFmaKind.fma, .fms, .fnma].all (fun k => starts f (.fma k 1 x (.vec ⟨3, .none⟩)) 1 && starts i (.fma k 4 x y)) = true ∧
    [VUnOp.mv, .neg, .abs, .not, .clz, .popc].all (fun op => starts i (.un op 1 x) 1) = true ∧
    [VUnOp.mv, .neg, .abs, .sqrt, .rcp, .rsq, .exp2, .log2, .tanh].all (fun op => starts f (.un op 1 x)) = true ∧
    [VRel.eq, .ne, .lt, .le].all (fun r => starts i (.cmp r 0 1 x y) && starts f (.cmp r 3 1 x (.vec ⟨3, .none⟩)) 1) = true ∧
    [RedOp.add, .min, .max, .and, .or, .xor].all
      (fun op => starts i (.red op true 1 x) && starts i (.red op false 1 x) 1 && starts i (.scan op 1 x)) = true ∧
    starts f (.red .add false 1 x) = true ∧
    [VWork.sel 1 x ⟨4, .none⟩, .compress 1 x, .expand 1 x, .iota 1, .reshape 1 x 2, .insert 1 7 2, .extract (.reg 5) x 2,
      .mask .xor 3 1 2, .mmov 3 1, .mpopc (.reg 5) 1, .mfirst (.reg 5) 1, .vtag 1 .sint].all (fun k => starts i k 1 || starts i k) = true ∧
    starts f (.cvt 1 x .float .e32 .rne false) = true ∧
    starts (file 4 .e8 [(2, .uint, pack 8 [0x21, 0x43])]) (.grow .i4 1 x) = true ∧ eight.vn < eight.form.vlmax ∧
    (eight.mask 1).testBit 0 = false ∧ (i.mask 1).testBit 0 = true ∧ (i.mask 1).testBit 1 = false := by decide +kernel
/-- An access at FIRM whose convoy runs at once: the places are in reach, and no die, byte, page or line stands in the way. -/
def accesses (w : VWork) (mask : MaskSel := 0) : Bool :=
  let s := queued (file 8 .e32 [(2, .uint, pack 32 [10, 11, 12, 13, 14, 15, 16, 17]), (5, .uint, pack 32 [8, 0, 4, 64])] [(1, 5)]) w mask
  s.lostDies == [] && s.poison == [] && s.migs == [] && s.coh.l2.all (fun e => e.2.ahead == []) &&
    leaves (exec .convoyStart s) fun t => t.hart.vec.queue.head?.any fun k => k.done.isSome
theorem witness_VectorAccessResults :
    [VAt.unit 0x1000, .strided 0x1000 8, .indexed 0x1000 5, .stream 0 0x1000 4 0, .sweep 0x1000 ⟨2, 4⟩ ⟨2, 64⟩ ⟨1, 0⟩].all
    (fun a => accesses (.load 1 a .uint false) && accesses (.store 2 a true) 1) = true := by decide +kernel
theorem witness_MatrixDispatchAndWait :
    (tcore []).carriesHere .M = true ∧ Ready (tcore []) [1, 2] 9 ∧ (tcore []).hart.liveMats.length < 16 ∧
    (tcore []).hart.vecBarrier = false ∧ (tcore []).hart.liveMats = [] ∧ (tcore [.zero]).hart.liveMats ≠ [] ∧
    (1 : FFlags) &&& 1 ≠ 0 ∧ (tcore []).hart.status.priv = .firm :=
  ⟨by decide +kernel, ready_of_free (by decide +kernel), by decide +kernel, by decide +kernel, by decide +kernel,
    by decide +kernel, by decide, by decide +kernel⟩
/-- A queue whose head is MZERO on a hart that owns a quarter. -/
def granted : State := tcore [.zero] { Mat.reset with grantBase := 16, grantRows := 16 }
theorem witness_MatrixQueueRuns :
    granted.hart.mat.queue.map (fun m => (m.held, m.level)) = [(false, .firm)] ∧ granted.hart.mat.grantRows ≠ 0 ∧
    (tcore [.shape 0x20115]).hart.mat.grantRows = 0 ∧ shapeOk 0x20114 = true ∧ shapeOk 0x20115 = false ∧
    granted.hart.status.fbusy = false := by decide +kernel

/-! Moots, tasks and messages. -/

/-- A parish table that is full, a moot of four thousand members, and one that lies on another die. -/
def crowd (n : Nat) (cosched : Bool) : Moot :=
  { Moot.fresh 5 2 0 with counted := List.replicate n (MootMember.fresh 0), cosched := cosched }
theorem full_crowd (h : ∀ n, (List.replicate n (MootMember.fresh 0)).filter (fun x => !x.left) = List.replicate n (MootMember.fresh 0))
    (n : Nat) : n ≤ (crowd n false).members := by
  simp [crowd, Moot.members, Moot.fresh, h]
theorem witness_MootRecords :
    (four 3 [] []).hart.handle 1 ≠ none ∧ (four 3 [] []).hart.handle 2 = none ∧ Ready (four 3 [] []) [1, 2] 8 ∧
    (∃ m ∈ (four 3 [] []).mootsOf .device, m.name = 5) ∧ (four 3 [] []).sliceFull .device 7 = false ∧
    (({ State.reset with hart := State.reset.hart } : State).setMoots (.parish 0)
      (List.replicate 256 (Moot.fresh 9 0 0))).sliceFull (.parish 0) 7 = true ∧
    (crowd 0 false).members = 0 ∧ (crowd 3 true).members < 4096 ∧ 65535 ≤ (crowd 65535 false).members ∧
    (four 3 [] []).hart.memberOf .device 5 = true ∧ (four 3 [] []).moot .device 6 = none ∧
    (Moot.fresh 5 1 2).scope = 1 ∧ (Moot.fresh 5 1 2).die ≠ State.reset.here.core.die := by
  refine ⟨by decide +kernel, by decide +kernel, ready_of_free (by decide +kernel), ⟨_, List.mem_singleton.2 rfl, rfl⟩,
    by decide +kernel, ?_, by decide +kernel, by decide +kernel, ?_, by decide +kernel⟩
  · decide +kernel
  · have h : ∀ n, (List.replicate n (MootMember.fresh 0)).filter (fun x => !x.left) = List.replicate n (MootMember.fresh 0) := by
      intro n; exact List.filter_eq_self.2 (fun a ha => by rw [(List.mem_replicate.1 ha).2]; rfl)
    exact full_crowd h 65535
/-- Handles that may arrive, that are two ahead, that await, and a moot that is broken. -/
theorem witness_MootArrivals :
    (four 3 [] []).hart.handle 1 = some { table := .device, name := 5, member := 3, na := 6, await := none } ∧
    (four 3 [] []).moot .device 5 ≠ none ∧ Ready (four 3 [] []) [9] 8 ∧ (6 : BitVec 32) ≠ 6 + 2 ∧ (8 : BitVec 32) = 6 + 2 ∧
    (1 ≤ ((6 : BitVec 32) - 5).toNat ∧ ((6 : BitVec 32) - 5).toNat ≤ 2 ^ 31) ∧
    ¬ (1 ≤ ((6 : BitVec 32) - 6).toNat ∧ ((6 : BitVec 32) - 6).toNat ≤ 2 ^ 31) ∧
    (∃ aw : Await, ({ table := .device, name := 5, member := 3, na := 7, await := some aw } : Handle).await = some aw) ∧
    ({ Moot.fresh 5 2 0 with broken := true, breaking := true } : Moot).broken = true :=
  ⟨by decide +kernel, by decide +kernel, ready_of_free (by decide +kernel), by decide, by decide, by decide, by decide,
    ⟨{ gen := 6, op := none, operand := 0 }, rfl⟩, rfl⟩
/-- Ranks 0 and 1 of a gang of two: the last to arrive, and the first. -/
def pair (arrived : BitVec 16) (count : BitVec 32) : State :=
  { (State.reset.setPdata 0 { ParishData.reset with gangs := [{ id := 8, size := 2, gen := 3, live := 3, arr := arrived, parish := 0 }] }) with
    hart := { State.reset.hart with gang := some { id := 8, rank := 1, size := 2, home := 0, count := count } } }
theorem witness_MootQueriesAndGangBarrier :
    Ready (four 3 [] []) [2] 8 ∧ State.reset.hart.gang = none ∧
    ((1 : BitVec 16) ||| (1#16 <<< 1)) &&& 3 = 3 ∧ ¬ (((0 : BitVec 16) ||| (1#16 <<< 1)) &&& 3 = 3) ∧
    ((pair 1 3).hart.gang.bind fun r => (pair 1 3).gangOf r).map (fun g => g.gen) = some 3 :=
  ⟨ready_of_free (by decide +kernel), by decide +kernel, by decide, by decide, by decide +kernel⟩
theorem test_gbar_last :
    leaves (exec .gbar (pair 1 3)) (fun t => t.hart.gang.map (fun r => r.count) == some 4 && t.hart.pc == 0x020000100004) = true := by
  decide +kernel
theorem test_gbar_first :
    leaves (exec .gbar (pair 0 3)) (fun t => t.hart.wait == .parked && t.hart.pc == 0x020000100000) = true := by decide +kernel
/-- Passed while it waited. -/
theorem test_gbar_passed :
    leaves (exec .gbar (pair 0 2)) (fun t => t.hart.gang.map (fun r => r.count) == some 3) = true := by decide +kernel

theorem witness_TasksCompleteAndEnd :
    Ready tasked [11, 10] 5 ∧ (0x2000 : Word).extractLsb' 56 2 = 0 ∧ tasked.tableRoom 0 1 = true ∧
    tasked.queueRoom (tasked.queueParish 0) = true ∧ tasked.joinRoom 1 = true ∧ Config.hasCore .y4840 .T = false ∧
    tasked.tablesHeld (homeOfTask 1) = false ∧ (tasked.taskEntry 1).map (fun e => e.join) = some 0 ∧
    tasked.hart.queuesIdle = true ∧ tasked.endWait = none :=
  ⟨ready_of_free (by decide +kernel), by decide, by decide +kernel⟩

/-- C-cores 0 and 1 of parish 0. -/
def c0 : CoreId := { die := 0, parish := 0, core := 0 }
def c1 : CoreId := { die := 0, parish := 0, core := 1 }
/-- A message of two words from core 0 to core 1, for any context or for hart `k`. -/
def note (k : Option Nat) (w : Word) : Msg :=
  { dest := c1, hart := k, words := [w, 42], sender := 7, slot := none, reeve := false }
/-- It has departed, or it has arrived at a core whose window spans 0x4000 to 0x40FF. -/
def leaving : State := State.reset.setCore c0 { Core.reset with depart := [note none 0x4000] }
def arrived (k : Option Nat) (w : Word) : State :=
  State.reset.setCore c1 { Core.reset with arrival := [note k w], hbase := 0x4000, hlimit := 0x40F8, hen := true, howner := 1#64 <<< 63 }
/-- Hart 0 of core 1 runs. -/
def busyThere (k : Option Nat) : State := (arrived k 0x4000).setHart { core := c1, hart := 0 } Hart.reset

theorem test_departure :
    leaves (exec (.messageDeparture c0) leaving) (fun t => (t.core c1).arrival == [note none 0x4000] && (t.core c0).depart == []) =
      true := by decide +kernel
theorem test_dispatch_handler :
    leaves (exec (.messageDispatch c1) (arrived none 0x4000)) (fun t => (t.core c1).arrival == [] &&
      (t.hartAt { core := c1, hart := 0 }).pc == 0x4000 && (t.hartAt { core := c1, hart := 0 }).readG 4 == 1 &&
      (t.hartAt { core := c1, hart := 0 }).words == [42]) = true := by decide +kernel
theorem test_dispatch_deliver :
    leaves (exec (.messageDispatch c1) (busyThere (some 0))) (fun t =>
      (t.hartAt { core := c1, hart := 0 }).words == [0x4000, 42]) = true := by decide +kernel
theorem test_dispatch_drop :
    leaves (exec (.messageDispatch c1) (arrived none 0)) (fun t => (t.core c1).drops == 1 && (t.core c1).arrival == []) = true := by
  decide +kernel
theorem witness_MessagesMove :
    Ready ints [1, 2] 0 ∧ leaving.sendWaits c1 (note none 0x4000) = false ∧ leaving.runs (leaving.ppOf c1) = true ∧ leaving.reaches 0 0 = true ∧
    leaving.replyTo (note none 0x4000) = none ∧ leaving.arrivalUsed c1 + 2 ≤ 64 ∧
    ((arrived none 0x4000).core c1).checkHandler 0x4000 = .passes ∧
    (arrived none 0x4000).freeContext c1 false = some { core := c1, hart := 0 } ∧ (arrived none 0x4000).tableRoom 0 1 = true ∧
    (busyThere (some 0)).isFree { core := c1, hart := 0 } = false ∧ ((arrived none 0).core c1).hstray.extractLsb' 3 61 = 0 :=
  ⟨ready_of_free (by decide +kernel), by decide +kernel⟩
/-- Two words in slot 3, and the core they are for (R411). -/
theorem test_post :
    leaves (exec (.post 3 0x102) { State.reset with window := [(96, 11), (97, 12)] }) (fun t =>
      (t.core { die := 0, parish := 31, core := 3 }).depart.map (fun m => (m.words, m.dest)) == [([11, 12], c1)]) = true := by
  decide +kernel
theorem test_bar0_write :
    leaves (exec (.hostBar0Write 8 [1, 0, 0, 0, 0, 0, 0, 0]) State.reset) (fun t => t.windowWord 1 == 1) = true := by decide +kernel
theorem test_bar0_narrow :
    leaves (exec (.hostBar0Write 8 [1, 0, 0, 0]) State.reset) (fun t => t.hostOut == [.unsupported]) = true := by decide +kernel

/-! The coherence protocol, for line 5 and the parishes of the G-die. -/

def withCoh (c : Coh) : State := { State.reset with coh := c }
def shared (ps : List Nat) : Dir := { Dir.reset with st := .S, ptrs := ps }
def owned (p : Nat) : Dir := { Dir.reset with st := .O, ptrs := [p] }
/-- Both parishes share the line; parish 1 owns it; parish 0 asks while parish 1 is asked to give it up. -/
def bothShare : State := withCoh { Coh.reset with dir := [(5, shared [0, 1])], l2 := [((0, 5), L2.reset), ((1, 5), L2.reset)] }
def oneOwns : State := withCoh { Coh.reset with dir := [(5, owned 1)], l2 := [((1, 5), { L2.reset with owned := true })] }
def asking (req : Req) (flight : List CohMsg) : State :=
  withCoh { Coh.reset with
    dir := [(5, { shared [0, 1] with busy := true, ackcnt := 1 })], l2 := [((0, 5), L2.reset), ((1, 5), L2.reset)]
    active := [{ line := 5, pp := 0, req := req }], inflight := flight }

theorem test_gets : leaves (exec (.gets 0 5) State.reset) (fun t => t.coh.dirOf 5 == owned 0 &&
    t.coh.inflight == [.data 0 5 true false]) = true := by decide +kernel
theorem test_gets_owned :
    leaves (exec (.gets 0 5) oneOwns) (fun t => (t.coh.dirOf 5).busy && t.coh.inflight == [.fwd 1 5]) = true := by decide +kernel
theorem test_getx_owned : leaves (exec (.getx 0 5) oneOwns) (fun t => t.coh.inflight == [.fwd 1 5]) = true := by decide +kernel
theorem test_upg :
    leaves (exec (.upg 0 5) bothShare) (fun t => (t.coh.dirOf 5).ackcnt == 1 && t.coh.inflight == [.inv 1 5]) = true := by
  decide +kernel
theorem test_puts : leaves (exec (.puts 1 5) bothShare) (fun t => t.coh.dirOf 5 == shared [0] &&
    t.coh.inflight == [.putAck 1 5]) = true := by decide +kernel
theorem test_putx : leaves (exec (.putx 1 5) oneOwns) (fun t => t.coh.dirOf 5 == Dir.reset) = true := by decide +kernel
theorem test_putAck :
    leaves (exec (.putAck 1 5) (withCoh { Coh.reset with evict := [((1, 5), false)], inflight := [.putAck 1 5] }))
      (fun t => t.coh == Coh.reset) = true := by decide +kernel
theorem test_inv :
    leaves (exec (.inv 1 5) (asking .upg [.inv 1 5])) (fun t => (t.coh.l2Of 1 5).isNone && t.coh.inflight == [.invAck 1 5]) = true := by
  decide +kernel
theorem test_invAck :
    leaves (exec (.invAck 1 5) (asking .upg [.invAck 1 5])) (fun t => t.coh.dirOf 5 == owned 0 &&
      t.coh.inflight == [.complete 0 5 true] && t.coh.active == []) = true := by decide +kernel
theorem test_fwd :
    leaves (exec (.fwd 5) (asking .gets [.fwd 1 5])) (fun t => t.coh.inflight == [.fwdData 1 5]) = true := by decide +kernel
theorem test_fwdData :
    leaves (exec (.fwdData 5) (asking .gets [.fwdData 1 5])) (fun t => t.coh.dirOf 5 == shared [1, 0] &&
      t.coh.inflight == [.data 0 5 false false]) = true := by decide +kernel
theorem test_dataReply :
    leaves (exec (.dataReply 0 5) (withCoh { Coh.reset with inflight := [.data 0 5 true false] }))
      (fun t => t.coh.l2Of 0 5 == some { L2.reset with owned := true, valid := 0b1111 }) = true := by decide +kernel
theorem test_complete :
    leaves (exec (.complete 0 5) (withCoh { Coh.reset with
        l2 := [((0, 5), { L2.reset with owned := true, pendingOwn := true, valid := 0b1111 })], inflight := [.complete 0 5 true] }))
      (fun t => t.coh.l2Of 0 5 == some { L2.reset with owned := true, valid := 0b1111 }) = true := by decide +kernel
theorem witness_CoherenceRequests :
    State.reset.mayAsk 0 5 = true ∧ oneOwns.mayAsk 0 5 = true ∧ bothShare.mayAsk 0 5 = true ∧
    (State.reset.coh.dirOf 5).st = .I ∧ oneOwns.lineOwner 5 = some 1 ∧ (bothShare.coh.l2Of 0 5).map (fun x => x.owned) = some false ∧
    (bothShare.coh.dirOf 5).busy = false ∧ bothShare.snooped 5 = false := by decide +kernel
theorem witness_CoherenceMessages :
    bothShare.mayEvict 1 5 false = true ∧ oneOwns.mayEvict 1 5 true = true ∧
    (asking .upg [.inv 1 5]).nextMsg true 1 5 = some (.inv 1 5) ∧ (asking .upg [.inv 1 5]).wired 1 5 = true ∧
    (asking .upg [.invAck 1 5]).nextMsg false 1 5 = some (.invAck 1 5) ∧ (asking .upg [.invAck 1 5]).wired 1 5 = true ∧
    (asking .upg [.invAck 1 5]).activeTx 5 = some { line := 5, pp := 0, req := .upg } ∧
    (withCoh { Coh.reset with snoop := [10] }).coh.snoop.contains (640 / 64) = true := by decide +kernel
theorem witness_data :
    (withCoh { Coh.reset with inflight := [.data 0 5 true false] }).nextMsg true 0 5 = some (.data 0 5 true false) ∧
    (withCoh { Coh.reset with inflight := [.data 0 5 true false] }).wired 0 5 = true ∧
    (State.reset.coh.l2.filter fun e => e.1.1 == 0).length < l2Lines (State.reset.parishClass 0) := by decide +kernel
/-- A host snoop of a shared extent changes nothing here, and its answer frees the granule (R449). -/
theorem test_bisnpResponse :
    leaves (exec (.bisnpResponse 640) (withCoh { Coh.reset with snoop := [10] })) (fun t => t.coh.snoop == []) = true := by
  decide +kernel
def extent : State :=
  { State.reset with ranges := [(0, { RangeEntry.reset with valid := true, shared := true, base := 0x1000000000000, size := 0x10000 })] }
theorem test_bisnp : leaves (exec (.bisnp { addr := cxlBase, data := none }) extent) (fun t => t.mem == extent.mem) = true := by decide +kernel
/-- Another agent's write of the half is what a reader finds (R453). -/
theorem test_bisnp_write :
    leaves (exec (.bisnp { addr := cxlBase, data := some (List.replicate 64 9) }) extent) (fun t => t.memNum cxlBase 2 == 0x909) = true := by
  decide +kernel

theorem witness_shared :
    extent.region cxlBase = .cxl 0 ∧ (extent.rangeEntry 0).shared = true ∧ extent.lineBusy (lineOf cxlBase) = false ∧
    Memory.wf extent.mem = true := by decide +kernel
theorem witness_HomeOperations :
    Memory.wf bytes.mem = true ∧ bytes.homeUp 0x20 = true ∧ homeOpFits 0x1000 (.amo 0 true 1 0) = true ∧
    (bytes.coh.dirOf 0x20).st = .I ∧ bytes.lineOwner 0x20 = none ∧ bytes.wired 0 0x20 = true ∧ bytes.runs 0 = true ∧
    bytes.requesting 0 0x20 = false := by decide +kernel
theorem test_farAtomic :
    leaves (exec (.farAtomic 0x1000 (.amo 0 true 1 0)) bytes) (fun t => readNum t.mem 0x1000 8 == 0x88070605F4838282) = true := by
  decide +kernel
theorem test_scaleUp :
    leaves (exec (.scaleUpRequest 0x1000 (.store [9, 9])) bytes) (fun t => readNum t.mem 0x1000 4 == 0xF4830909) = true := by
  decide +kernel
theorem test_sectoredStore :
    leaves (exec (.sectoredStore 0 0x1000 [9]) bytes) (fun t => readNum t.mem 0x1000 2 == 0x8209 && t.coh.dirOf 0x20 == shared [0]) =
      true := by decide +kernel
theorem test_homeWrite : leaves (exec (.homeWrite 0x1004 [9]) bytes) (fun t => readNum t.mem 0x1004 1 == 9) = true := by
  decide +kernel
theorem test_homeRead : leaves (exec (.homeRead 0x1000 8) bytes) (fun t => t.mem == bytes.mem) = true := by decide +kernel
/-- A store to a copied line of a page under migration reaches both pages (R214). -/
theorem test_mirror :
    leaves (exec (.store 2 8 0 .b) { withG [(2, 7), (8, 0x50000)] with migs := events.migs })
      (fun t => readNum t.mem 0x50000 1 == 7 && readNum t.mem 0x90000 1 == 7) = true := by decide +kernel

/-! The Stewards, the Carter and the links. -/

/-- A record of one control task that has not run, of the level given, and one that ran and was pre-empted at 0x2000. -/
def waiting (level : Nat) : TaskRec :=
  { desc := 0x2000, arg := 77, id := 9, parent := 1, ctx := { asid := 3, ptroot := 0x100000, ccid := 0, frm := 2 }, prio := level
    level := level, kill := false, cosched := false, mixctl := mixctlReset, resume := none, left := none, since := 0, slot := none }
def stopped (g : Option GangRef) : TaskRec :=
  { waiting 1 with resume := some { caller.hart with gang := g }, left := some c1, cosched := g.isSome }
/-- The parish holds these records and nothing else has changed. -/
def readies (rs : List TaskRec) : State := State.reset.setPdata 0 { ParishData.reset with queue := rs }
def team : GangRef := { id := 8, rank := 0, size := 2, home := 0, count := 0 }
/-- One of a group that waits, with a context kept for it, and a pinned member alone. -/
def reserving : State :=
  State.reset.setParish 0 { Parish.reset with
    data := { ParishData.reset with queue := [stopped (some team)] }
    pw := { Power.reset with st := .run }
    reserved := some (.gang 8, [{ id := 9, place := { core := c1, hart := 0 }, compute := false }]) }
def pinned : State :=
  { State.reset with hart := { State.reset.hart with gang := some team, wait := .preempted } }
/-- Every context of these parishes of die 0 holds a hart of priority 0. -/
def takenIn (ps : List Nat) : State :=
  let h : Hart := { Hart.reset with status := Status.start .task, prio := 0, wait := .running }
  { readies [waiting 2] with
    hart := { h with pc := 0x3000 }
    others := (((ps.flatMap (coresIn .y4822 0)).flatMap fun c => [0, 1, 2, 3].map fun k => ({ core := c, hart := k } : Place)).filter
      fun p => p != State.reset.here).map fun p => (p, { h with placedAt := 5 }) }
def taken : State := takenIn [0]

theorem test_placement :
    leaves (exec (.placement 0) (readies [waiting 1])) (fun t =>
      let h := t.hartAt { core := { die := 0, parish := 0, core := 0 }, hart := 1 }
      h.pc == 0x2000 && h.readG 4 == 77 && h.taskId == 9 && h.wait == .running && (t.pdata 0).queue == []) = true := by
  decide +kernel
/-- Parish 0 has no context for its record, and lends it to parish 1. -/
theorem test_lend :
    leaves (exec (.lendRequest 1) taken) (fun t => (t.pdata 0).queue == []) = true := by decide +kernel
/-- Neither of the two parishes that run has a context left. -/
def crowded : State := takenIn [0, 1]
theorem test_overflow :
    leaves (exec (.overflowReturn 0) (State.reset.setPdata 0 { ParishData.reset with overflow := [waiting 1] })) (fun t =>
      (t.pdata 0).queue.length == 1 && (t.pdata 0).overflow == []) = true := by decide +kernel
def lifted : State :=
  State.reset.setPdata 0 { ParishData.reset with queue := [waiting 1], lift := (Vector.replicate 3 0).set 1 0x100000 }
/-- The image of a record in an overflow area (R383). -/
theorem test_record_bytes :
    (waiting 1).bytes 0 = [0, 0x20, 0, 0, 0, 0, 0, 0, 77, 0, 0, 0, 0, 0, 0, 0, 9, 0, 0, 0, 1, 0, 0, 0, 3, 0, 0, 2, 5, 0, 0, 0,
      0, 0, 0x10, 0, 0, 0, 0, 0, 0x80, 0x40, 0x40, 0, 0, 0, 0, 0x40, 0, 0, 0, 0, 0, 0, 0, 0, 0, 0, 0, 0, 0, 0, 0, 0] ∧
    ({ ParishData.reset with stwovf := 0x100002 } : ParishData).slotAddr 65 = 0x101040 := by decide +kernel
theorem test_lift :
    leaves (exec (.levelLift 0 1) lifted) (fun t => (t.pdata 0).queue.map (fun r => r.level) == [2]) = true := by decide +kernel
theorem test_release :
    leaves (exec (.reservationRelease 0) reserving) (fun t => (t.parish 0).reserved == none) = true := by decide +kernel
theorem test_groupStart :
    leaves (exec (.groupStart (.gang 8)) reserving) (fun t => (t.hartAt { core := c1, hart := 0 }).wait == .running) = true := by
  decide +kernel
theorem test_preemption :
    leaves (exec (.preemption 0) crowded) (fun t => t.hart.wait == .vacant && (t.pdata 0).queue.length == 2) = true := by
  decide +kernel
theorem witness_StewardPlacement :
    (readies [waiting 1]).runs 0 = true ∧ ((readies [waiting 1]).pdata 0).ready = [waiting 1] ∧
    (readies [waiting 1]).groupsOfRecord (waiting 1) = [] ∧
    (readies [waiting 1]).placesFor (waiting 1) 0 = some [{ core := { die := 0, parish := 0, core := 0 }, hart := 1 }] ∧
    taken.hasFree 1 = true ∧ taken.tryPlace 1 = none ∧ (taken.lenders 1).head? = some 0 ∧ taken.runs 1 = true ∧
    taken.placesFor (waiting 2) 0 = none ∧ (taken.placesFor (waiting 2) 1).isSome = true ∧
    (waiting 1).desc.extractLsb' 60 4 = 0 ∧ (stopped none).resume = some caller.hart ∧ (stopped none).left = some c1 ∧
    (lifted.pdata 0).queue.find? (fun r => r.level == 1) = some (waiting 1) ∧
    reserving.groupRecords (reserving.clique (.gang 8)) = [(0, stopped (some team))] ∧
    reserving.groupHarts (reserving.clique (.gang 8)) = [] ∧ (stopped (some team)).id = 9 ∧
    pinned.groupRecords (pinned.clique (.gang 8)) = [] ∧ State.reset.here ∈ pinned.places ∧
    GroupKey.gang 8 ∈ pinned.groupsOf pinned.hart ∧ pinned.hart.evict = false ∧
    crowded.placeable (waiting 2) 0 = false ∧ crowded.victim 0 (waiting 2) = some State.reset.here ∧
    crowded.groupsOf crowded.hart = [] ∧ crowded.hart.midConvoy = false := by decide +kernel
/-- An urgent record, and a hart in a convoy that it stops (R137). -/
def pressed : State :=
  let s : State := { crowded with hart := { crowded.hart with vec := { Vec.reset with queue := [closed (alone eight (.iota 1))] } } }
  s.setPdata 0 { ParishData.reset with queue := [waiting 3] }
theorem witness_urgent :
    (pressed.pdata 0).ready = [waiting 3] ∧ pressed.placeable (waiting 3) 0 = false ∧
    pressed.victim 0 (waiting 3) = some State.reset.here ∧ pressed.groupsOf pressed.hart = [] ∧
    pressed.hart.midConvoy = true := by decide +kernel

/-- The same hart on a C-core. -/
def onC : State := { caller with here := State.reset.here }
/-- Four windows that asked for a V-core, and the counts of a heavy vector window. -/
def windowed : State :=
  { onC with hart := { onC.hart with mixctl := 0x4000000000404040, winCount := 65536, nv := 0x5000, windows := [.V, .V, .V] } }
def movable : State := powered { onC with hart := { onC.hart with moveTo := some .V } }
def framed : State :=
  { State.reset with carter := [{ hart := onC.hart, needs := [], compute := false, origin := c1, exact := none, cls := none }] }
theorem test_window : leaves (exec .window windowed) (fun t => t.hart.moveTo == some .V && t.hart.nv == 0) = true := by
  decide +kernel
theorem test_mixMigration :
    leaves (exec .mixMigration movable) (fun t => Config.classOf t.member t.here.core == .V && t.hart.pc == onC.hart.pc) = true := by
  decide +kernel
theorem test_migrationTrap :
    leaves (exec (.migrationTrap .V 0) (powered onC)) (fun t => Config.classOf t.member t.here.core == .V && t.hart.compute) =
      true := by decide +kernel
theorem test_migrationHeld :
    leaves (exec (.migrationTrap .V 5) { onC with hart := { onC.hart with mixctl := 0x8000000000000000 } }) (fun t =>
      t.hart.bankF.cause == 2 && t.hart.bankF.val == 5) = true := by decide +kernel
theorem test_carter :
    leaves (exec .carterQueuePlacement framed) (fun t =>
      t.carter == [] && (t.hartAt { core := c1, hart := 0 }).pc == onC.hart.pc) = true := by decide +kernel
theorem witness_MigrationMoves :
    65536 ≤ windowed.hart.winCount ∧ movable.hart.moveTo = some .V ∧ movable.hart.yields = true ∧ movable.hart.mat.grantRows = 0 ∧
    CoreClass.V ≠ movable.cclass ∧ movable.canLeave = true ∧ movable.findOfClass .V ≠ none ∧
    (({ onC with hart := { onC.hart with moveTo := some .V } } : State).findOfClass .V) = none ∧
    onC.carriesHere .V = false ∧ Config.memberHas onC.member .V = true ∧ Config.memberHas .y4840 .M = false ∧
    onC.hart.mixctl.getLsbD 63 = false ∧ onC.hart.queuesEmpty = true ∧ onC.unsent = false ∧
    granted.hart.mat.grantRows ≠ 0 ∧ onC.someCoreTakes (.V :: onC.hart.needs) true = true ∧
    onC.someCoreTakes [.V, .M] true = false ∧
    (({ onC with hart := Hart.vacant } : State).findContext onC.here.core [.V] true) = none ∧
    (({ powered onC with hart := Hart.vacant } : State).findContext onC.here.core [.V] true) ≠ none ∧
    framed.frameContext { hart := onC.hart, needs := [], compute := false, origin := c1, exact := none, cls := none } =
      some { core := c1, hart := 0 } := by decide +kernel

/-- The current hart waits. -/
def sleeping (w : Wait) : State := { ints with hart := { ints.hart with wait := w } }
theorem test_wake : leaves (exec (.wakeNotice ints.here) (sleeping (.watching 8 true))) (fun t => t == ints) = true := by
  decide +kernel
theorem test_poll : leaves (exec (.watchPoll ints.here) (sleeping (.watching 8 false))) (fun t => t == ints) = true := by
  decide +kernel
theorem test_pauseEnd : leaves (exec (.pauseExpiry ints.here) (sleeping (.paused 2))) (fun t => t == ints) = true := by
  decide +kernel

theorem test_linkActive :
    leaves (exec (.linkActive (.green 1)) { ints with links := [(.green 1, .doze)], waking := [(.green 1, 1)] }) (fun t => t.linkState (.green 1) == .active) =
      true := by decide +kernel
theorem test_linkDoze :
    leaves (exec (.linkDoze (.green 1)) ints) (fun t => t.linkState (.green 1) == .sleep) = true := by decide +kernel
theorem test_retrain : leaves (exec (.linkRetrain (.well 9) true) ints) (fun t => t.links == [] && t.raslog.length == 1) = true := by
  decide +kernel
/-- A link between two compute dies is lost, and neither die is (log 26). -/
theorem test_retrain_lost :
    leaves (exec (.linkRetrain (.compute 1 2) false) ints) (fun t => t.linkState (.compute 1 2) == .lost && t.lostDies == []) =
      true := by decide +kernel
/-- A compute die takes its two W-dies with it (R465). -/
theorem test_dieLost :
    leaves (exec (.dieLost 2) { ints with waking := [(.green 2, 2)] }) (fun t => [2, 10, 11].all t.lostDies.contains && t.lostDies.length == 3) = true := by
  decide +kernel
theorem test_timeout : leaves (exec (.peerTimeout (.hart ints.here)) ints) (fun t => t.timeout == some (.hart ints.here)) = true := by
  decide +kernel
/-- The latch of croft 0 has a tile that leaves for croft 1. -/
def ring0 : CroftId := { die := 3, parish := 0, croft := 0 }
def latched : State :=
  ints.setCroft ring0 { Croft.reset with
    n0 := { full := true, tile := 77, scale := 0, visits := 3, readers := [], released := [] }, out0 := [none] }
theorem test_latch :
    leaves (exec (.latchForward ring0 false) latched) (fun t => (t.croft ring0).n0 == Latch.reset &&
      (t.croft { ring0 with croft := 1 }).n0.tile == 77 && (t.croft { ring0 with croft := 1 }).n0.visits == 2) = true := by
  decide +kernel
theorem witness_WaitsLinksAndLosses :
    ((sleeping (.watching 8 true)).hartAt ints.here).wait = .watching 8 true ∧
    ((sleeping (.watching 8 false)).hartAt ints.here).wait = .watching 8 false ∧
    ((sleeping (.paused 2)).hartAt ints.here).wait = .paused 2 ∧ ints.here ∈ ints.places ∧
    linkExists (.well 8) = true ∧ linkExists (.well 15) = true ∧ linkExists (.green 4) = true ∧ linkExists (.compute 1 2) = true ∧
    ints.linkState (.green 4) ≠ .lost ∧ dieBehind (.green 4) = some 4 ∧ dieBehind (.compute 1 2) = none ∧
    (4 ∉ ints.lostDies ∧ 15 ∉ ints.lostDies) ∧     ((latched.croft ring0).out false).head? = some none ∧
    ((latched.croft { ring0 with croft := 1 }).latch false).full = false := by decide +kernel

/-! The engines. -/

/-- A COPY record of two rows of three 4-byte elements (13's example), reported to the mailbox at 0x3000, and a CHASE
record of one walk of two steps, both at 0x10000. -/
def putAll (l : List (Nat × Nat × Nat)) : List Host.Cell := l.foldl (fun m e => writeNum m e.1 e.2.1 e.2.2) []
def copyRecord : List Host.Cell :=
  putAll [(0x10001, 1, 2), (0x10002, 1, 2), (0x10003, 1, 1), (0x10008, 8, 0x1000), (0x10010, 8, 0x2000), (0x10018, 8, 0x3000),
    (0x10030, 4, 3), (0x10034, 4, 2), (0x10058, 8, 4), (0x10060, 8, 64), (0x100A8, 8, 8), (0x100B0, 8, 4),
    (0x1000, 4, 1), (0x1004, 4, 2), (0x1008, 4, 3), (0x1040, 4, 4), (0x1044, 4, 5), (0x1048, 4, 6)]
def chaseRecord : List Host.Cell :=
  putAll [(0x10002, 2, 2), (0x10004, 4, 1), (0x10008, 8, 0x1000), (0x10010, 8, 8), (0x10020, 8, 0x2000),
    (0x1000, 8, 0x4000), (0x4008, 8, 0x5000), (0x5008, 8, 0x6000)]
/-- 13's example: two walks of three steps over six wallets, from 0 and from 4. -/
def uwalkRecord : List Host.Cell :=
  putAll [(0x10000, 1, 1), (0x10001, 1, 1), (0x10002, 2, 3), (0x10004, 4, 2), (0x10008, 8, 0x1000), (0x10010, 8, 0x4000), (0x10018, 8, 0x5000),
    (0x10020, 8, 0x2000), (0x10028, 4, 1), (0x1002C, 4, 6), (0x10030, 8, 0x3000), (0x1004, 4, 4),
    (0x4008, 8, 2), (0x4010, 8, 3), (0x4018, 8, 5), (0x4020, 8, 8), (0x4028, 8, 8), (0x4030, 8, 9),
    (0x5000, 4, 1), (0x5004, 4, 2), (0x5008, 4, 3), (0x5010, 4, 4), (0x5018, 4, 4), (0x501C, 4, 5), (0x5020, 4, 1)]
/-- An ALLREDUCE of one integer by rank 0 of two. -/
def collRecord (op : Nat) : List Host.Cell :=
  putAll [(0x10000, 1, op), (0x10004, 2, 2), (0x10008, 8, 0x1000), (0x10010, 8, 0x2000), (0x10030, 8, 16), (0x10038, 8, 0x4000),
    (0x1000, 8, 40), (0x1008, 8, 1)]
/-- What rank 1 says of the same collective, with its contribution. -/
def peer (op nrank : Nat) : RankSays :=
  { op, type := 0, rop := 0, nrank, len := 16, data := leBytes 8 2 ++ leBytes 8 5 }
def asked : EngReq := { rec' := 0x10000, level := .firm, ctx := { asid := 0, ptroot := 0, ccid := 0, frm := 0 }, since := 0, bytes := [] }
def kicked (e : EngineId) (m : List Host.Cell) : State := { ints with mem := m, kickQ := [(e, [asked])] }
def copyHart : EngineId := { die := 0, parish := 0, core := 0 }
def walkHart : EngineId := { die := 8, parish := 1, core := 3 }
def lockHart : EngineId := { die := 0, parish := 2, core := 1 }
def netHart : EngineId := { die := 0, parish := 3, core := 7 }

/-- A copy of six elements of 4 bytes, 24 in all, that moot 5 of the device counts, of which 10 are expected. -/
def expecting : State :=
  { kicked copyHart (writeNum (writeNum (writeNum copyRecord 0x10003 1 2) 0x10020 8 5) 0x10028 2 0xFFFF) with
    moots := [{ Moot.fresh 5 2 0 with pend := 10 }] }
/-- One element is performed, and its 4 bytes are subtracted. -/
theorem test_pend :
    leaves (exec (.pendDecrement .device 5 4) expecting) (fun t => (t.moots.map fun m => m.pend) == [6] &&
      (t.migrating.map fun x => x.2.landed) == [4] && t.kicks copyHart == [] &&
      ((List.range 2).map fun i => readNum t.mem (0x2000 + 4 * i) 4) == [1, 0]) = true := by decide +kernel
theorem test_pend_err :
    leaves (exec (.pendDecrement .device 5 12) expecting) (fun t => t.moots.all fun m => m.pend == 0 && m.err) = true := by
  decide +kernel
/-- After that piece the row of the request performs the other five elements, and the request ends. -/
theorem test_pend_then :
    leaves (exec (.pendDecrement .device 5 4) expecting) (fun t =>
      leaves (exec (.copyRecord copyHart) t) (fun u => u.migrating == [] &&
        ((List.range 6).map fun i => readNum u.mem (0x2000 + 4 * i) 4) == [1, 4, 2, 5, 3, 6])) = true := by decide +kernel
/-- A MIGRATE at work that moot 5 counts, of which line 0 has been copied. -/
def migrationAtWork : EngReq :=
  { asked with bytes := readBytes (putAll [(0x10000, 1, 1), (0x10001, 1, 3), (0x10002, 1, 1), (0x10003, 1, 2), (0x10008, 8, 0x50000),
      (0x10010, 8, 0x90000), (0x10020, 8, 5), (0x10028, 2, 0xFFFF), (0x10030, 4, 8192), (0x10058, 8, 8), (0x100A8, 8, 8)]) 0x10000 256 }
def lineCopied : State :=
  { ints with migs := [{ old := 0x50000, new := 0x90000, bits := 1 }], migrating := [(copyHart, migrationAtWork)]
              moots := [{ Moot.fresh 5 2 0 with pend := 65536 }] }
/-- Of a MIGRATE the bytes of the lines already copied may be subtracted, and no more (R423). -/
theorem test_pend_migrate :
    leaves (exec (.pendDecrement .device 5 128) lineCopied) (fun t => (t.moots.map fun m => m.pend) == [65408] &&
      (t.migrating.map fun x => x.2.landed) == [128]) = true := by decide +kernel
theorem test_pend_not_copied :
    (match exec (.pendDecrement .device 5 129) lineCopied with | .refused r => r == .notEnabled "PEND_DECREMENT" | _ => false) = true := by
  decide +kernel
theorem witness_PendDecrement :
    lineCopied.owes .device 5 128 (copyHart, migrationAtWork) = true ∧
    lineCopied.noticeHeld (copyNotice migrationAtWork.bytes) = none ∧
    lineCopied.reaches copyHart.die (mootHome 5) = true ∧ lineCopied.busyEngines.all (fun e => (lineCopied.copyOf e).isNone) = true ∧
    expecting.migrating = [] ∧ (expecting.copyOf copyHart).isSome = true ∧
    (expecting.busyEngines.find? fun x => (expecting.copyPiece .device 5 4 x).isSome) = some copyHart ∧
    (match expecting.copyOf copyHart with
      | some (q, s1) => (expecting.noticeHeld (copyNotice q.bytes)).isNone &&
        (match s1.copyFrom (q.who copyHart) (Machine.copyRec q.bytes) 1 0 with | .ok (x, _) => x.status == .ok | _ => false)
      | none => false) = true ∧
    expecting.moot .device 5 ≠ none ∧ ({ expecting with moots := [] } : State).moot .device 5 = none := by decide +kernel

theorem test_copy :
    leaves (exec (.copyRecord copyHart) (kicked copyHart copyRecord)) (fun t =>
      ((List.range 6).map fun i => readNum t.mem (0x2000 + 4 * i) 4) == [1, 4, 2, 5, 3, 6] &&
      readNum t.mem 0x3000 8 == 0x0100000000000006 && readNum t.mem 0x3008 8 == 0) = true := by decide +kernel
theorem test_chase :
    leaves (exec (.chase walkHart) (kicked walkHart chaseRecord)) (fun t =>
      ((List.range 3).map fun i => readNum t.mem (0x2000 + 8 * i) 8) == [0x4000, 0x5000, 0x6000]) = true := by decide +kernel
theorem test_uwalk :
    leaves (exec (.uwalk walkHart) (kicked walkHart uwalkRecord)) (fun t =>
      ((List.range 8).map fun i => readNum t.mem (0x2000 + 4 * i) 4) ==
        [0, 1, 3, 4, 4, 0xFFFFFFFF, 0xFFFFFFFF, 0xFFFFFFFF] &&
      readNum t.mem 0x3000 8 == 0x0100000000000002) = true := by decide +kernel
theorem test_allreduce :
    leaves (exec (.allreduce netHart [peer 0 2]) (kicked netHart (collRecord 0))) (fun t =>
      readNum t.mem 0x2000 8 == 42 && readNum t.mem 0x2008 8 == 6) = true := by decide +kernel
theorem test_allgather :
    leaves (exec (.allgather netHart [peer 1 2]) (kicked netHart (collRecord 1))) (fun t =>
      ((List.range 4).map fun i => readNum t.mem (0x2000 + 8 * i) 8) == [40, 1, 2, 5]) = true := by decide +kernel
theorem test_reducescatter :
    leaves (exec (.reducescatter netHart [peer 2 2]) (kicked netHart (collRecord 2))) (fun t =>
      readNum t.mem 0x2000 8 == 42 && readNum t.mem 0x2008 8 == 0) = true := by decide +kernel
theorem test_broadcast :
    leaves (exec (.broadcast netHart [peer 3 2]) (kicked netHart (collRecord 3))) (fun t =>
      readNum t.mem 0x2000 8 == 40) = true := by decide +kernel
/-- A rank that says another number of ranks makes the record ill-formed (R457): BADREC. -/
theorem test_collMismatch :
    leaves (exec (.allreduce netHart [peer 0 3]) { ints with mem := writeNum (writeNum (collRecord 0) 0x10003 1 1) 0x10018 8 0x3000, kickQ := [(netHart, [asked])] })
      (fun t => t.kicks netHart == [] && readNum t.mem 0x2000 8 == 0) = true := by decide +kernel
theorem test_collTimeout :
    leaves (exec (.collectiveTimeout netHart) (kicked netHart (collRecord 0))) (fun t => t.kicks netHart == []) = true := by
  decide +kernel
/-- A SEAL record for a slot that holds no key passes on to the Lockhouse, and ends with NOKEY (6). -/
def sealRecord : List Host.Cell :=
  putAll [(0x10000, 1, 2), (0x10002, 1, 1), (0x10003, 1, 1), (0x10008, 8, 0x1000), (0x10010, 8, 0x20000), (0x10018, 8, 0x3000), (0x10030, 4, 16),
    (0x10058, 8, 1), (0x100A8, 8, 1)]
def lockAsked (m : List Host.Cell) : State := { ints with mem := m, lockQ := [{ asked with level := .super }] }
theorem test_passOn :
    leaves (exec (.copyRecord copyHart) (kicked copyHart sealRecord)) (fun t => t.lockQ.length == 1 && t.kicks copyHart == []) =
      true := by decide +kernel
theorem test_seal_nokey :
    leaves (exec (.sealRecord lockHart) (lockAsked sealRecord)) (fun t => t.lockQ == [] && readNum t.mem 0x10068 8 == 0) = true := by
  decide +kernel
def openRecord : List Host.Cell := writeNum sealRecord 0x10000 1 3
theorem test_open_nokey :
    leaves (exec (.openRecord lockHart) (lockAsked openRecord)) (fun t => t.lockQ == []) = true := by decide +kernel
/-- FIRM may not SEAL: PRIV (8). -/
theorem test_seal_firm :
    leaves (exec (.sealRecord lockHart) { ints with mem := sealRecord, lockQ := [asked] }) (fun t =>
      readNum t.mem 0x3000 8 == 0x0800000000000000) = true := by decide +kernel
theorem test_admit :
    leaves (exec .lockhouseAdmit { ints with lockWait := [(copyHart, asked)] }) (fun t => t.lockQ.length == 1 && t.lockWait == []) =
      true := by decide +kernel
def migrateRecord : List Host.Cell :=
  putAll [(0x10000, 1, 1), (0x10001, 1, 3), (0x10002, 1, 1), (0x10008, 8, 0x50000), (0x10010, 8, 0x1000000000000), (0x10030, 4, 8192),
    (0x10058, 8, 8), (0x100A8, 8, 8)]
/-- TASK may not migrate a page. -/
theorem test_migrate_task :
    leaves (exec (.migrateRecord copyHart) { ints with mem := migrateRecord, copyQ := [(0, [{ asked with level := .task }])] })
      (fun t => t.copyQueue 0 == [] && t.migs == []) = true := by decide +kernel
theorem test_xcopy :
    leaves (exec (.xcopy 9 8) ints) (fun t => t.hart.readG 9 == 0 && ((t.copyQueue 0).map fun r => r.rec') == [0x1000]) = true := by
  decide +kernel
theorem test_qwalk :
    leaves (exec (.qwalk 9 8) ints) (fun t => t.hart.readG 9 == 0 && (t.walkQueue (homeOf 0x1000)).length == 1) = true := by
  decide +kernel
/-- The kick register of engine hart (0, 0, 0) (R418). -/
theorem test_kick :
    leaves (exec (.kick 1 8) (withG [(1, 0x20000020000), (8, 0x1000)])) (fun t => ((t.kicks copyHart).map fun r => r.rec') == [0x1000]) =
      true := by decide +kernel

/-- The address of a record one past a multiple, a full queue, a lost W-die, and a full kick queue. -/
def crammed : State :=
  { ints with copyQ := [(0, List.replicate 256 asked)], walkQ := [(homeOf 0x1000, List.replicate 64 asked)]
              kickQ := [(copyHart, List.replicate 16 asked)] }
theorem witness_EngineSubmission :
    Ready ints [8] 9 ∧ Ready ints [1, 8] 0 ∧ fails (ints.checkRecord .copy 0x1001) 4 = true ∧ answers (ints.checkRecord .copy 0x1000) 0x1000 ints = true ∧
    (ints.copyQueue 0).length < 256 ∧ 256 ≤ (crammed.copyQueue 0).length ∧ fails (ints.checkRecord .walk 0x1040) 4 = true ∧
    answers (ints.checkRecord .walk 0x1080) 0x1080 ints = true ∧ (ints.walkQueue (homeOf 0x1000)).length < 64 ∧
    64 ≤ (crammed.walkQueue (homeOf 0x1000)).length ∧
    homeOf 0x1000 ∈ ({ ints with lostDies := [homeOf 0x1000] } : State).lostDies ∧
    (match ints.check ints.who { acc := 2, need := .write, style := .kick } 0x20000020000 8 with
      | .done ps _ => kickedBy ps == some copyHart
      | _ => false) = true ∧
    (match ints.check ints.who { acc := 2, need := .write, style := .kick } 0x20000022118 8 with
      | .done ps _ => kickedBy ps == some walkHart
      | _ => false) = true ∧
    copyHart.die ∉ ints.lostDies ∧ (ints.kicks copyHart).length < 16 ∧ 16 ≤ (crammed.kicks copyHart).length :=
  ⟨ready_of_free (by decide +kernel), ready_of_free (by decide +kernel), by decide +kernel⟩

/-- `Serves`, with what the record holds, as a test. -/
def serves (s : State) (e : EngineId) (size : Nat) (n : List Byte → Notice) (f : List Byte → Bool) : Bool :=
  s.engineFree e && (match s.nextReq e with
    | some (r, _) => (match s.readRecord (r.who e) r size with | .ok bs => (s.noticeHeld (n bs)).isNone && f bs | _ => false)
    | none => false)
theorem witness_EngineRequestsRun :
    serves (kicked copyHart copyRecord) copyHart 256 copyNotice (fun bs => (Machine.copyRec bs).mode == 0 && (Machine.copyRec bs).plain bs) = true ∧
    serves (kicked copyHart sealRecord) copyHart 256 copyNotice (fun bs => (Machine.copyRec bs).mode == 2 && (Machine.copyRec bs).sealed bs) = true ∧
    (kicked copyHart sealRecord).lockQ.length < 64 ∧ (kicked copyHart sealRecord).lockWait = [] ∧
    serves (kicked copyHart migrateRecord) copyHart 256 copyNotice (fun bs => (Machine.copyRec bs).mode == 1 && (Machine.copyRec bs).migrates bs) =
      true ∧
    asked.level ≠ .task ∧ (kicked copyHart migrateRecord).migs = [] ∧
    serves (lockAsked sealRecord) lockHart 256 copyNotice (fun bs => (Machine.copyRec bs).mode == 2) = true ∧
    serves (lockAsked openRecord) lockHart 256 copyNotice (fun bs => (Machine.copyRec bs).mode == 3) = true ∧
    serves (kicked walkHart chaseRecord) walkHart 128 walkNotice (fun bs => (walkRec bs).mode == 0 && (walkRec bs).ok bs) = true ∧
    serves (kicked walkHart uwalkRecord) walkHart 128 walkNotice (fun bs => (walkRec bs).mode == 1 && (walkRec bs).ok bs) = true ∧
    (List.range 4).all (fun op => serves (kicked netHart (collRecord op)) netHart 256 collNotice
      (fun bs => (collRec bs).op == op && (collRec bs).ok bs && (collRec bs).done == 0)) = true ∧ asked.ctx.ccid = 0 := by decide +kernel
/-- 13's example of a record of two dimensions. -/
def twoRows : CopyRec :=
  { mode := 0, esize := 2, ndim := 2, done := 0, src := 0x1000, dst := 0x2000, mbox := 0, lens := [3, 2], sstr := [4, 64], dstr := [8, 4] }
theorem test_elements :
    (List.range 6).map (fun x => (twoRows.at x).1) = [0x1000, 0x1004, 0x1008, 0x1040, 0x1044, 0x1048] ∧
    (List.range 6).map (fun x => (twoRows.at x).2) = [0x2000, 0x2008, 0x2010, 0x2004, 0x200C, 0x2014] := by decide +kernel
theorem witness_ReductionsAndElementAddresses :
    (collRec (readBytes (collRecord 0) 0x10000 256)).op = 0 ∧ (collRec (readBytes (collRecord 0) 0x10000 256)).type ≤ 1 ∧
    (collRec (readBytes (collRecord 1) 0x10000 256)).op = 1 ∧ (collRec (readBytes (collRecord 3) 0x10000 256)).op = 3 := by
  decide +kernel

/-! The host, errors and power. -/

/-- Function 1 reaches 1 MiB; function 2 runs for context 5. A page of context 5 is mapped from the current hart's root. -/
def hosted : State :=
  { bytes with
    hart := { bytes.hart with ptroot := 0x100000 }
    mem := (paged .task).mem
    funcs := [(1, { Func.reset with bar2 := 0x100000 }), (2, { Func.reset with bar2 := 2 ^ 39, state := .run, ide := true, ccid := 5 })] }
def confidential : State :=
  { hosted with mem := writeNum hosted.mem 0x130020 8 (0x2A170057 + 5 * 2 ^ 52) }
theorem test_hostWrite :
    leaves (exec (.hostWrite (.bar2 1) 0x1000 [7, 8]) hosted) (fun t => readNum t.mem 0x1000 2 == 0x807 && t.hostOut == []) = true := by
  decide +kernel
theorem test_hostRead_outside :
    leaves (exec (.hostRead (.bar2 1) 0xFFFFF 2) hosted) (fun t => t.hostOut == [.unsupported]) = true := by decide +kernel
theorem test_hostRead :
    leaves (exec (.hostRead (.bar2 2) 0x2A178C40 2) confidential) (fun t => t.hostOut == [.data [0x34, 0x12]]) = true := by decide +kernel
/-- A function of another context does not read it. -/
theorem test_hostRead_context :
    leaves (exec (.hostRead (.bar2 3) 0x2A178C40 2) { confidential with funcs := [(3, { Func.reset with bar2 := 2 ^ 39 })] })
      (fun t => t.hostOut == [.abort]) = true := by decide +kernel
/-- The host's own cache keeps the line that a read as CXL.mem brought (R449), and a window word is read whole (R489). -/
theorem test_hostRead_mem :
    leaves (exec (.hostRead (.mem true) 0x1000 64) bytes) (fun t => t.coh.snoop.contains 64) = true ∧
    leaves (exec (.hostRead .bar0 0 4) ints) (fun t => t.hostOut == [.unsupported]) = true ∧
    leaves (exec (.hostRead .bar0 0x1000 8) ints) (fun t => t.hostOut.length == 1) = true := by decide +kernel
theorem test_hostConfig :
    leaves (exec (.hostConfigWrite 1 0x2000) hosted) (fun t => (t.func 1).bar2 == 0x2000) = true := by decide +kernel
theorem test_tdisp : leaves (exec (.tdispMessage 1 .locked) hosted) (fun t => (t.func 1).state == .locked) = true := by
  decide +kernel
theorem test_ide : leaves (exec (.ideKm 1 true) hosted) (fun t => (t.func 1).ide) = true := by decide +kernel
theorem test_extentRemove :
    leaves (exec (.extentRemove 0) extent) (fun t => (t.rangeEntry 0).valid && (t.rangeEntry 0).remove) = true := by decide +kernel
def removing : State := extent.setRange 0 { extent.rangeEntry 0 with remove := true }
theorem test_extentRemoved :
    leaves (exec (.extentRemoved 0) removing) (fun t => !(t.rangeEntry 0).valid && !(t.rangeEntry 0).remove) = true := by decide +kernel
theorem test_spdmDebug : leaves (exec (.spdmDebugRequest ints.here) ints) (fun t => t.hart.pend1) = true := by decide +kernel
theorem test_spdmError :
    leaves (exec .spdmMeasurement { ints with leaf := 2 ^ 20 }) (fun t => t.hostOut == [.spdmError]) = true := by decide +kernel
theorem witness_HostPortRequests :
    hosted.hostAccepts 1 0x1000 2 = true ∧ (∀ l ∈ linesOf 0x1000 2, hosted.homeUp l = true ∧ hosted.lineBusy l = false ∧ hosted.reaches 0 (lineHome l) = true ∧
      ∀ p, p < Config.parishCount hosted.member → hosted.reaches (lineHome l) (hosted.dieOf p) = true) ∧ 0x1000 + 2 ≤ (hosted.func 1).bar2 ∧
    ¬ 0xFFFFF + 2 ≤ (hosted.func 1).bar2 ∧ confidential.hostAccepts 1 0x2A178C40 2 = false ∧
    confidential.hostAccepts 2 0x2A178C40 2 = true ∧ (∀ y ∈ sectorsOf 0x1000 2, y ∉ hosted.poison) ∧
    (∃ y ∈ sectorsOf 0x1000 2, y ∈ ({ hosted with poison := [0x80] } : State).poison) ∧ (hosted.func 1).state = .unlocked ∧
    (hosted.func 2).state = .run ∧ hosted.keyedBeside 1 < 8 ∧ (extent.rangeEntry 0).valid = true ∧
    (removing.rangeEntry 0).remove = true ∧ ints.leaf < 2 ^ 20 ∧ ints.here ∈ ints.places := by decide +kernel

/-- Seven errors of one channel; a full log. -/
def worn : State := { ints with counts := [((.hbm, 3), 7), ((.link, 3), 7)] }
def logged : State := { ints with raslog := List.replicate 64 1 }
theorem test_corrected :
    leaves (exec (.correctedError .hbm 3 0x42) ints) (fun t => t.raslog == [0x8000000000000042] &&
      alGet 0 (RasUnit.hbm, 3) t.counts == 1) = true := by decide +kernel
theorem test_corrected_eighth :
    leaves (exec (.correctedError .link 3 0x42) worn) (fun t => t.retired == [(.link, 3)]) = true := by decide +kernel
theorem test_uncorrectable :
    leaves (exec (.uncorrectableError .l2 0x1000) logged) (fun t => t.poison.contains 0x80 && t.raslost && t.raslog.length == 64) =
      true := by decide +kernel
/-- The Carter frame of task 9, which its next start finds broken. -/
def spilled : State := readies [stopped none]
theorem test_parity_frame :
    spilled.framed 9 = true ∧ leaves (exec (.parityError (.frame 9)) spilled) (fun t => (t.pdata 0).queue.all fun r => r.kill) = true := by
  decide +kernel
theorem test_rasWindow : leaves (exec (.rasWindow .hbm 3) worn) (fun t => alGet 0 (RasUnit.hbm, 3) t.counts == 0) = true := by
  decide +kernel
theorem test_parity : leaves (exec (.parityError (.hart ints.here)) ints) (fun t => t.hart.pend2) = true := by decide +kernel
theorem witness_ErrorReports :
    ints.raslog.length < 64 ∧ 64 ≤ logged.raslog.length ∧ (RasUnit.hbm, 3) ∉ ints.retired ∧
    alGet 0 (RasUnit.hbm, 3) ints.counts < 7 ∧ 7 ≤ alGet 0 (RasUnit.hbm, 3) worn.counts ∧ ints.here ∈ ints.places ∧
    (RasUnit.hbm, 3) ∈ ({ ints with retired := [(.hbm, 3)] } : State).retired := by decide +kernel

/-- The first parish of die 1 in this power state. -/
def inState (p : Power) : State := ints.setPower 2 p
def on (st : PwState) : Power := { Power.reset with st := st, clken := true, enRet := true, enMain := true, okRet := true, okMain := true }
def goesTo (i : Instr) (p : Power) (st : PwState) : Bool := leaves (exec i (inState p)) fun t => (t.power 2).st == st && !t.hart.seqerr
theorem test_power :
    goesTo (.quiesceRequest 2) (on .run) .drain = true ∧ goesTo (.quiesceCancel 2) (on .drain) .run = true ∧
    goesTo (.drained 2) (on .drain) .quiesce = true ∧ goesTo (.save 2) (on .quiesce) .saving = true ∧
    goesTo (.saveEnd 2) { on .saving with modeOff := false } .saved = true ∧ (inState (on .saving)).linesIn 2 = [] ∧
    goesTo (.clkenWrite 2 0) (on .saved) .stopped = true ∧
    goesTo (.railenWrite 2 2) { on .stopped with modeOff := false, clken := false } .stopped = true ∧
    goesTo (.railSettled 2) { on .stopped with modeOff := false, enMain := false } .ret = true ∧
    goesTo (.railSettled 2) { on .ret with okMain := false } .powered = true ∧
    goesTo (.restore 2) (on .powered) .restoring = true ∧ goesTo (.restoreEnd 2) (on .restoring) .quiesce = true := by
  decide +kernel
/-- The clock may not stop in RUN, nor the rails. -/
theorem test_seqerr :
    leaves (exec (.clkenWrite 2 0) (inState (on .run))) (fun t => t.hart.seqerr && (t.power 2).clken) = true ∧
    leaves (exec (.railenWrite 2 0) (inState (on .run))) (fun t => t.hart.seqerr && (t.power 2).enMain) = true ∧
    leaves (exec (.wakeRequest 2) ints) (fun t => (t.power 2).wake) = true := by decide +kernel
theorem test_coldReset :
    leaves (exec .coldReset worn) (fun t => t.counts == [] && t.hart == State.reset.hart && t.here == State.reset.here) = true := by
  decide +kernel
theorem witness_PowerTransitions :
    ints.hasPower 2 = true ∧ ints.hasPower 0 = false ∧ (inState (on .drain)).isDrained 2 = true ∧
    2 ^ 39 < (0x8000000000 : Word).toNat + 524288 ∧ (0x1000 : Word).toNat + 524288 ≤ 2 ^ 39 ∧
    ((inState (on .saved)).power 2).clken = true ∧ ((inState (on .stopped)).power 2).st = .stopped ∧
    ints.restoreFails 2 = false ∧ (ints.parishes.all fun e => e.2.data.stwovf == 0) = true ∧ (Power.reset.okRet = Power.reset.enRet) ∧ ¬ (Power.reset.okRet = (on .off).enRet) ∧ Power.reset.fresh = true := by decide +kernel

/-! Encodings, the step, and what every step keeps. -/

theorem witness_DecodeEncode : WellFormed (.add 3 1 2) = true ∧ ∃ e, encode (.add 3 1 2) = some e := ⟨by decide, _, rfl⟩
theorem witness_EncodeDecode : decode [0x18, 0x81, 0x40, 0x10] = .ok (.add 3 1 2, []) := rfl
/-- ADD g3, g1, g2 stands at the pc. -/
noncomputable def placed : State := (withG [(1, 5), (2, 6)]).withFetchWord 32 0x10408118
theorem test_step : leaves (step placed) (fun t => t.hart.readG 3 == 11 && t.hart.pc == 0x020000100004) = true := by decide +kernel
/-- An odd pc, a halfword of zeros, and a second halfword that does not exist (R111, R147). -/
def traps (s : State) (pc : Word) (code : Nat) (value : Word) : Bool :=
  leaves (step s) fun t => t.hart.bankF == { pc, cause := BitVec.ofNat 64 code, val := value } && t.hart.pc == t.hart.ftvec
theorem test_step_traps :
    traps { State.reset with hart := { State.reset.hart with pc := 0x1001 } } 0x1001 4 0x1001 = true ∧
    traps State.reset 0x020000100000 1 0 = true ∧ traps edge 0x7FFFFFFFFE 6 0x8000000000 = true := by decide +kernel
theorem witness_StepRunsDecoded :
    placed.turns = [] ∧ 0 ∉ placed.lostDies ∧ placed.hart.wait = .running ∧ placed.before.isNone = true ∧
    placed.hart.pc.getLsbD 0 = false ∧
    (match placed.fetchHalves placed.hart.pc 1 with
      | .done b0 s1 => b0 == [0x18, 0x81] &&
        (match s1.fetchHalves (placed.hart.pc + 2) (lengthOf 0x8118 / 2 - 1) with
          | .done b1 _ => b1 == [0x40, 0x10]
          | _ => false)
      | _ => false) = true ∧
    placed.hart.winCount < 65536 ∧ placed.hart.fpTraps = [] ∧ encode (.rasWindow .hbm 3) = none ∧ encode .coldReset = none ∧
    placed.here ∈ placed.places := by decide +kernel
/-- A reset that the schedule names runs even when die 0 is lost, and another event does not. -/
theorem test_step_event :
    leaves (step { worn with turns := [.event (.rasWindow .hbm 3)] }) (fun t => t.turns == [] && alGet 0 (RasUnit.hbm, 3) t.counts == 0) =
      true := by decide +kernel
theorem test_step_lost : leaves (step { ints with lostDies := [0] }) (fun _ => true) = false ∧
    leaves (step { ints with lostDies := [0], turns := [.event .coldReset] }) (fun t => t.lostDies == []) = true := by decide +kernel
theorem witness_StepKeepsMemoryCanonical : MemOk placed ∧ leaves (step placed) (fun t => Memory.wf t.mem) = true :=
  ⟨show Memory.wf placed.mem = true by decide +kernel, by decide +kernel⟩
theorem witness_TaskKeepsPrivilegedRegisters :
    encode (.syscall 12) ≠ none ∧ caller.hart.status.priv = .task ∧ leaves (exec (.syscall 12) caller) (fun _ => true) = true := by
  decide +kernel

/-! ### The clauses on waits, links and choices -/

/-- A store of parish 0 that waits for an invalidation; a link that sleeps; a parish that is off. -/
def unseen : State :=
  { bytes with coh := { Coh.reset with l2 := [((0, 5), { L2.reset with owned := true, pendingOwn := true, valid := 0b1111 })] } }
def dozing (s : State) : State := { s with links := [(.green 1, .doze)] }
theorem witness_fences : unseen.storesPending .system = true ∧ unseen.storesPending .device = true ∧ Ready unseen [8] 0 :=
  ⟨by decide +kernel, by decide +kernel, ready_of_free (by decide +kernel)⟩
/-- A fence waits for the store (R163); FENCE.VV marks the convoy that comes next (R164). -/
theorem test_fence_waits : leaves (exec (.fenceRel .device) unseen) (fun t => t.hart.wait == .parked) = true ∧
    leaves (exec .fenceVv bytes) (fun t => t.hart.vec.vv) = true := by decide +kernel

/-- 1/3 in fp32 lies between two values; 1 + 2^-24 is a tie, and rounds to the even code; the root of 2 is inexact. -/
theorem witness_rounding :
    unitsOf .fp32 0x3F800000 = some (2 ^ 1074) ∧ (∃ x, unitsOf .fp32 0x40400000 = some x ∧ x ≠ 0) ∧
    (∃ x, unitsOf .fp32 0x33800000 = some x ∧ 0 ≤ x) ∧ (unitsOf .fp32 (fpSqrt .fp32 .rne 0 0x40000000).code).isSome = true ∧
    unitsOf .fp32 0x7F800000 = none :=
  ⟨by decide +kernel, ⟨_, rfl, by decide +kernel⟩, ⟨_, rfl, by decide +kernel⟩, by decide +kernel, by decide +kernel⟩
theorem test_rounding :
    fpDiv .fp32 .rup 0 0x3F800000 0x40400000 = { code := 0x3EAAAAAB, flags := 1 } ∧
    fpDiv .fp32 .rtz 0 0x3F800000 0x40400000 = { code := 0x3EAAAAAA, flags := 1 } ∧
    fpAdd .fp32 .rne 0 0x3F800000 0x33800000 = { code := 0x3F800000, flags := 1 } ∧
    fpAdd .fp32 .rna 0 0x3F800000 0x33800000 = { code := 0x3F800001, flags := 1 } := by decide +kernel

theorem witness_channelSwitchEnd : events.coh.waiting = [] := by rfl
/-- MIGRATE's operands: class T of a member without T-cores, class C for a compute hart, and cores by EXACT. -/
def movesTo (v : Word) (s : State) : State := { s with hart := s.hart.writeG 2 v }
theorem witness_migrate :
    ((0x80000 : Word).extractLsb' 18 2 = Config.cclassCode .T ∧ Config.hasCore ({ ints with member := .y4840 } : State).member .T = false) ∧
    ((0 : Word).extractLsb' 18 2 = Config.cclassCode .C ∧ (vcore eight).hart.compute = true) ∧
    (∀ v, v ∈ [0x8000000000001F00#64, 0x8000000000000008#64, 0x8000000000000000#64, 0x8000000000002000#64] →
      v.getLsbD 63 = true ∧ Ready (movesTo v ints) [2] 0) ∧
    Config.coreExists ints.member { die := 0, parish := 31, core := 0 } = false ∧ granted.hart.mat.grantRows ≠ 0 ∧ Ready granted [2] 0 ∧
    (queued eight (.iota 1)).canLeave = false ∧ ints.canLeave = true ∧ ints.runs (ints.ppOf { die := 0, parish := 0, core := 1 }) = true ∧
    ((ints.finishNone [2] 4).freeContext { die := 0, parish := 0, core := 1 } false).isSome = true ∧
    ints.runs (ints.ppOf { die := 1, parish := 0, core := 0 }) = false ∧ caller.hart.status.priv = .task ∧ Ready caller [2] 0 := by
  refine ⟨by decide +kernel, by decide +kernel, ?_, by decide +kernel, by decide +kernel, ready_of_free (by decide +kernel),
    by decide +kernel, by decide +kernel, by decide +kernel, by decide +kernel, by decide +kernel, by decide +kernel,
    ready_of_free (by decide +kernel)⟩
  intro v h
  simp only [List.mem_cons, List.not_mem_nil, or_false] at h
  rcases h with rfl | rfl | rfl | rfl <;> exact ⟨by decide, ready_of_free (by decide +kernel)⟩
theorem test_migrate_exact :
    leaves (exec (.migrate 2) (movesTo 0x8000000000001F00 ints)) (fun t => t.hart.bankF.cause == 6 && t.hart.bankF.val == 0x8000000000001F00) =
      true ∧
    leaves (exec (.migrate 2) (movesTo 0x8000000000000008 ints)) (fun t => t.here.core == { die := 0, parish := 0, core := 1 }) = true ∧
    leaves (exec (.migrate 2) (movesTo 0x8000000000002000 ints)) (fun t => t.hart.wait == .vacant && t.carter.length == 1) = true := by
  decide +kernel
theorem witness_tlbinv :
    (1 : Nat) ∈ [0, 1, 2, 3, 4, 8, 9, 10, 11, 12, 13, 14, 15] ∧ 1 ∉ filled.lostDies ∧ (dozing filled).reaches filled.here.core.die 1 = false ∧
    filled.tlbinvReaches.isNone = true ∧ filled.tlbinvWaits = false ∧ unseen.tlbinvReaches.isNone = true ∧ unseen.tlbinvWaits = true := by
  decide +kernel
/-- TLBINV waits for a link that sleeps (R200). -/
theorem test_tlbinv_link : leaves (exec (.tlbinv 8 0 2) (dozing filled)) (fun t => t.hart.wait == .parked && t.waking != []) = true := by
  decide +kernel

/-- A convoy behind a FENCE.VV, while a store waits. -/
def fencedConvoy : State :=
  { queued eight (.iota 1) with
    hart := { (queued eight (.iota 1)).hart with
      vec := { eight with queue := [{ closed (alone eight (.iota 1)) with fenced := true }] } }
    coh := unseen.coh }
theorem witness_fenced : fencedConvoy.storesPending .system = true ∧ (queued eight (.iota 1)).unitTurn = true ∧
    (queued eight (.iota 1)).storesPending .system = false := by decide +kernel
/-- A load and a store of four elements that run. -/
def loading : State := buffer (queued four32 (.load 1 (.unit 0x1000) .uint false))
def storing : State := queued four32 (.store 2 (.unit 0x1000) false)
def ran (s : State) : Bool := leaves (exec .convoyStart s) fun t => (t.hart.vec.queue.map fun c => c.done.isSome) == [true]
theorem witness_vectorMemory :
    ran loading = true ∧ ran storing = true ∧
    (∀ s, s = loading ∨ s = storing → s.lostDies = [] ∧ s.poison = [] ∧ s.migs = [] ∧ Memory.wf s.mem = true ∧
      (s.coh.l2.all fun e => e.2.ahead.isEmpty) = true) ∧
    (0x1000 : Word).toNat % 4 = 0 ∧ (alone four32 (.load 1 (.unit 0x1000) .uint false)).vn ≤ four32.form.vlmax := by
  refine ⟨by decide +kernel, by decide +kernel, ?_, by decide +kernel, by decide +kernel⟩
  rintro s (rfl | rfl) <;> exact ⟨rfl, rfl, rfl, by decide +kernel, by decide +kernel⟩
/-- MMA of sint8 tiles whose first elements are 3 and −2 into row 0 of the grant, column 64. -/
def product : MmaOps := { t := 0, b := .tile 1, ka := 0, kb := 0, cb := 1 }
def multiplying : State :=
  tcore [.mma product] { Mat.reset with
    grantBase := 16, grantRows := 16, shape := 0x1006D
    t := (Mat.reset.t.setIfInBounds 0 3).setIfInBounds 1 0xFE }
theorem witness_mma :
    shapeOk multiplying.hart.mat.shape = true ∧ shapeCF multiplying.hart.mat.shape = true ∧ multiplying.hart.mat.grantRows ≠ 0 ∧
    (∃ fa fb, matFmt (shapeAF 0x20000) = some fa ∧ matFmt (shapeBF 0x20000) = some fb) ∧ unitsOf .fp32 0x3F800000 = some (2 ^ 1074) ∧
    (∀ x ∈ [({ neg := false, m := 3, e := 2, sticky := false } : Ex), { neg := true, m := 0, e := -200, sticky := false }],
      x.sticky = false ∧ -1074 ≤ x.e ∧ ∀ y ∈ [({ neg := false, m := 3, e := 2, sticky := false } : Ex), { neg := true, m := 0, e := -200, sticky := false }],
        x.m ≠ 0 → y.m ≠ 0 → y.top ≤ x.e + 60) :=
  ⟨by decide +kernel, by decide +kernel, by decide +kernel, ⟨_, _, rfl, rfl⟩, by decide +kernel, by decide +kernel⟩

/-- A moot table on a die behind a sleeping link; a gang of a parish that is off; a moot that broke in generation 5. -/
def away (s : State) : State := dozing { s with
  hart := { s.hart with handles := s.hart.handles.set 1 (some { table := .parish 2, name := 5, member := 3, na := 6, await := none }) } }
theorem witness_tableWait :
    ((four 3 [] []).tableWait .device 5).isNone = true ∧ ((away (four 3 [] [])).tableWait (.parish 2) 5).isSome = true ∧
    (ints.parishWait 0).isNone = true ∧ (ints.parishWait 2).isSome = true ∧
    (1 ≤ ((6 : BitVec 32) - 5).toNat ∧ ((6 : BitVec 32) - 5).toNat ≤ 2 ^ 31) := by decide +kernel
theorem test_mootarrive_waits :
    leaves (exec (.mootarrive 8 1) (away (four 3 [] []))) (fun t => t.hart.wait == .parked && (t.parish 2).pw.pend) = true := by
  decide +kernel
theorem witness_endWait :
    (tasked.parishWait (homeOfTask tasked.hart.taskId)).isNone = true ∧ tasked.endWait.isNone = true ∧
    (({ tasked with hart := { tasked.hart with parent := 0x2000001 } } : State).endWait).isSome = true := by decide +kernel

/-- A core with a stray handler and a window that refuses the address, and one whose context 1 is free. -/
def straying : State :=
  State.reset.setCore c1 { Core.reset with arrival := [note none 0x5000], hbase := 0x4000, hlimit := 0x40F8, hen := true, hstray := 0x6000 }
theorem witness_stray :
    (∃ r, (straying.core c1).checkHandler 0x5000 = .fails r) ∧ (straying.core c1).hstray.extractLsb' 3 61 ≠ 0 ∧
    straying.freeContext c1 false = some { core := c1, hart := 0 } ∧ straying.recovery = false ∧ c1.die ∉ straying.lostDies ∧
    (arrived (some 1) 0x4000).isFree { core := c1, hart := 1 } = true ∧ 1 ∈ (arrived (some 1) 0x4000).taskContexts c1 ∧
    (arrived (some 1) 0x4000).isReserved { core := c1, hart := 1 } = false ∧
    (note none 0x4000).dest.die ∈ ({ leaving with lostDies := [0] } : State).lostDies := by
  refine ⟨?_, by decide +kernel, by decide +kernel, by decide +kernel, by decide +kernel, by decide +kernel, by decide +kernel,
    by decide +kernel, by decide +kernel⟩
  cases h : (straying.core c1).checkHandler 0x5000 with
  | fails r => exact ⟨r, rfl⟩
  | passes => exact absurd h (by decide +kernel)
  | waits => exact absurd h (by decide +kernel)
theorem test_stray :
    leaves (exec (.messageDispatch c1) straying) (fun t => (t.hartAt { core := c1, hart := 0 }).pc == 0x6000 &&
      (t.hartAt { core := c1, hart := 0 }).words == [0x5000, 42] && (t.core c1).strays == 1) = true := by decide +kernel
theorem test_dispatch_context :
    leaves (exec (.messageDispatch c1) (arrived (some 1) 0x4000)) (fun t => (t.hartAt { core := c1, hart := 1 }).pc == 0x4000) = true := by
  decide +kernel

/-- Line 5 lies on a channel; while that switches its rate, a request for the line waits (R467). -/
theorem witness_switchingOn :
    State.reset.switchingOn 5 = false ∧
    ({ State.reset with switching := [(homeOf (5 * 128), Config.channelOf 5 % 64)] } : State).switchingOn 5 = true := by
  have h : lineInHbm 5 = true := by decide +kernel
  have w : alHas 5 State.reset.coh.well = false := by decide +kernel
  exact ⟨by decide +kernel, by simp [State.switchingOn, h, w]⟩
theorem witness_makeRoom :
    State.reset.l2Count 0 < State.reset.l2Room 0 ∧ (State.reset.makeRoom 0 5).isSome = true ∧
    (∀ q ∈ bytes.forwardTo 0x20, bytes.reaches (lineHome 0x20) (bytes.dieOf q) = true) := by decide +kernel

theorem witness_startsAlone :
    (readies [waiting 1]).startsAlone 0 (waiting 1) = true ∧ reserving.startsAlone 0 (stopped (some team)) = false ∧
    (stopped (some team)).count = 1 ∧ taken.dieOf 0 ∉ taken.lostDies := by decide +kernel
/-- One member of the group in turn, for which nothing is held yet. -/
def unreserved : State := State.reset.setPdata 0 { ParishData.reset with queue := [stopped (some team)] }
theorem witness_reserve :
    (unreserved.pdata 0).ready = [stopped (some team)] ∧ unreserved.startsAlone 0 (stopped (some team)) = false ∧
    (∃ g, unreserved.groupInTurn 0 = some g ∧ meets (unreserved.clique g) (unreserved.groupsOfRecord (stopped (some team))) = true) ∧
    (unreserved.reservedFor 0 (stopped (some team))).length < (stopped (some team)).count ∧
    (((unreserved.coresFor (stopped (some team)) 0).flatMap (unreserved.contextsFor (stopped (some team)))).head?).isSome = true :=
  ⟨by decide +kernel, by decide +kernel, ⟨.gang 8, by decide +kernel, by decide +kernel⟩, by decide +kernel, by decide +kernel⟩
theorem test_reserve :
    leaves (exec (.placement 0) unreserved) (fun t => (t.reservedFor 0 (stopped (some team))).length == 1) = true := by decide +kernel
/-- A hart of no group that kept its context. -/
def keeping : State := { State.reset with hart := { State.reset.hart with wait := .preempted } }
theorem witness_resumeKept :
    keeping.runs 0 = true ∧ (keeping.pdata 0).queue = [] ∧
    (keeping.places.find? fun p => keeping.ppOf p.core == 0 && (keeping.hartAt p).wait == .preempted &&
      (keeping.groupsOf (keeping.hartAt p)).isEmpty) = some State.reset.here := by decide +kernel
theorem test_resumeKept : leaves (exec (.placement 0) keeping) (fun t => t.hart.wait == .running) = true := by decide +kernel

/-- The counts of a window of vector work, and the class that it prefers (R138, R143). -/
theorem witness_window :
    windowed.hart.mixctl.getLsbD 62 = true ∧ windowed.hart.preferred windowed.cclass = .V ∧ windowed.hart.windows.take 3 = [.V, .V, .V] ∧
    CoreClass.V ≠ windowed.cclass ∧ windowed.hart.mixctl.extractLsb' 24 2 = Config.cclassCode .C ∧ movable.hart.queuesEmpty = true ∧
    movable.unsent = false ∧ (∀ f, f ∈ framed.carter → framed.groupWaits f.hart = false) := by decide +kernel

/-- A record at the Lockhouse that asks for MIGRATE; a moot that the report names, on a lost die and in reach. -/
theorem witness_notices :
    serves { ints with mem := migrateRecord, lockQ := [{ asked with level := .super }] } lockHart 256 copyNotice
      (fun bs => (Machine.copyRec bs).mode == 1) = true ∧
    expecting.noticeDie (copyNotice (readBytes expecting.mem 0x10000 256)) = some (mootHome 5) ∧
    expecting.reaches copyHart.die (mootHome 5) = true ∧
    (kicked copyHart copyRecord).noticeDie (copyNotice (readBytes copyRecord 0x10000 256)) = none := by decide +kernel
theorem test_lockhouse_migrate :
    leaves (exec (.migrateRecord lockHart) { ints with mem := writeNum (writeNum migrateRecord 0x10003 1 1) 0x10018 8 0x3000, lockQ := [asked] })
      (fun t => t.lockQ == [] && t.migs.length == 1 && (t.migrating.map fun x => x.1) == [lockHart]) = true := by decide +kernel

/-- A page of which line 0 has been copied, so that a write goes to both homes. -/
theorem witness_freeBoth :
    hosted.switching = [] ∧ (∀ l ∈ linesOf 0x50000 2, ∀ k ∈ ({ hosted with migs := events.migs } : State).mirrorLines l,
      hosted.lineBusy k = false ∧ hosted.reaches (lineHome l) (lineHome k) = true) ∧
    (({ hosted with migs := events.migs } : State).mirrorLines (lineOf 0x50000)).length = 1 ∧
    (∀ h ∈ removing.cxlHeld, h.ext ≠ 0) ∧ removing.copiesIn (removing.rangeEntry 0) = false := by decide +kernel
theorem test_bar0 :
    leaves (exec (.hostWrite .bar0 8 [1, 0, 0, 0, 0, 0, 0, 0]) State.reset) (fun t => t.windowWord 1 == 1) = true ∧
    leaves (exec (.hostWrite .bar0 9 [1, 0, 0, 0, 0, 0, 0, 0]) State.reset) (fun t => t.hostOut == [.unsupported]) = true := by
  decide +kernel

/-- A save area on a lost W-die, one that may be read, and writes of registers that the table refuses. -/
theorem witness_power :
    (∃ l ∈ linesOf 0x1000 1, lineHome l ∈ ({ ints with lostDies := [homeOf 0x1000] } : State).lostDies) ∧
    (∃ u, (inState { on .restoring with modeOff := false }).restoreReads 2 = .ok u) ∧ ints.dieOf 2 ∉ ints.lostDies ∧
    ({ ints with hart := { ints.hart with pwSel := 2 } } : State).hart.pwSel.toNat = 2 ∧ (ints.power 2).st = .off ∧
    (ints.power 2).qreq = true ∧ (0x1002 : Word).extractLsb' 12 2 = 1 ∧ (0x2002 : Word).extractLsb' 12 2 = 2 ∧
    ((0x1002 : Word).extractLsb' 0 8).toNat = 2 :=
  ⟨⟨lineOf 0x1000, by decide +kernel, by decide +kernel⟩, ⟨_, rfl⟩, by decide +kernel, by decide +kernel, by decide +kernel, by decide +kernel,
    by decide, by decide, by decide⟩
theorem test_power_refused :
    (({ ints with hart := { ints.hart with pwSel := 2 } } : State).writeReg 0x301 0).hart.seqerr = true ∧
    (ints.writeReg 0x300 0x1002).hart.seqerr = true ∧ (ints.writeReg 0x300 0x2002).hart.seqerr = true := by decide +kernel

/-! ### The clauses on pages under migration, links, lost dies and pieces of work -/

/-- A page of which line 0 has been copied to another W-die, whose link is asleep or not. -/
def halfMoved : State := { bytes with migs := events.migs }
def asleep : State := { halfMoved with links := [(linkOf 1 9, .doze)] }
/-- Line 5, which parish 1 owns or shares, with a transaction of a parish on die 1. -/
def farAsking (req : Req) (flight : List CohMsg) : State :=
  withCoh { Coh.reset with
    dir := [(5, { shared [1] with busy := true, ackcnt := 1 })], l2 := [((1, 5), L2.reset)]
    active := [{ line := 5, pp := 5, req := req }], inflight := flight }
/-- Without its requester (R465): the owner keeps a share of a line that was to be read, and nothing waits. -/
def forsaken (s : State) : State := { s with lostDies := [1] }
theorem witness_settling :
    (match halfMoved.touchMirror (lineOf 0x50000) with | .error _ => false | .ok _ => true) = true ∧
    (match asleep.touchMirror (lineOf 0x50000) with | .error _ => true | .ok _ => false) = true ∧
    (halfMoved.homeBytes 0x50000 (.store [9])).isSome = true ∧
    (match (halfMoved.takeAhead 0 0x50000 [9]).touchMirror (lineOf 0x50000) with | .error _ => false | .ok _ => true) = true ∧
    (oneOwns.forwardTo 5).all (fun q => oneOwns.reaches (lineHome 5) (oneOwns.dieOf q)) = true ∧ oneOwns.forwardTo 5 ≠ [] := by
  decide +kernel
/-- A store at the home of a page under migration waits, BUSY, while that of the new page cannot take it (R214). -/
theorem test_settling :
    leaves (exec (.homeWrite 0x50000 [9]) asleep) (fun t => t.mem == bytes.mem && (t.coh.dirOf (lineOf 0x50000)).busy &&
      t.coh.settling.length == 1) = true ∧
    leaves (exec (.homeWrite 0x50000 [9]) halfMoved) (fun t => readNum t.mem 0x50000 1 == 9 && readNum t.mem 0x90000 1 == 9) = true := by
  decide +kernel
theorem witness_forsaken :
    State.reset.dieOf 5 = 1 ∧ (forsaken (farAsking .getx [.invAck 1 5])).nextMsg false 1 5 = some (.invAck 1 5) ∧
    (forsaken (farAsking .getx [.invAck 1 5])).wired 1 5 = true ∧
    (forsaken (farAsking .gets [.fwdData 1 5])).activeTx 5 = some { line := 5, pp := 5, req := .gets } ∧
    (forsaken (farAsking .gets [.fwdData 1 5])).wired 1 5 = true := by decide +kernel
theorem test_forsaken :
    leaves (exec (.invAck 1 5) (forsaken (farAsking .getx [.invAck 1 5]))) (fun t => t.coh.dirOf 5 == Dir.reset && t.coh.inflight == []) =
      true ∧
    leaves (exec (.fwdData 5) (forsaken (farAsking .gets [.fwdData 1 5]))) (fun t => t.coh.dirOf 5 == shared [1] && t.coh.inflight == []) =
      true := by decide +kernel

/-- A moot that broke in the generation after the one that a handle is parked for: the wait completes (R373); a wait that
comes only then is refused (R360). -/
theorem witness_parked :
    let m : Moot := { Moot.fresh 5 2 0 with gen := 6, broken := true, brokeGen := 6 }
    let h : Handle := { table := .device, name := 5, member := 3, na := 6, await := none, parked := some 5 }
    m.broken = true ∧ (5 : BitVec 32) ≠ m.brokeGen ∧ h.parked = some 5 ∧ 1 ≤ (m.brokeGen - 5).toNat ∧
    (m.brokeGen - 5).toNat ≤ 2 ^ 31 ∧ 1 ≤ (m.gen - 5).toNat := by decide +kernel

/-- A core of the class lies over a link that is asleep, and one is in reach; the same of a frame, and of parishes that lend. -/
theorem witness_links :
    movable.findOfClass .V = some { core := { die := 1, parish := 0, core := 0 }, hart := 0 } ∧ movable.linkWait 1 = none ∧
    ((dozing movable).linkWait 1).isSome = true ∧ (dozing movable).reaches movable.here.core.die 1 = false ∧
    framed.reaches c1.die c1.die = true ∧ taken.reaches (taken.dieOf 1) (taken.dieOf 0) = true ∧ taken.dieOf 0 ∉ taken.lostDies := by
  decide +kernel
theorem test_mix_link :
    leaves (exec .mixMigration (dozing movable)) (fun t => t.here == movable.here && t.waking != [] && t.hart.moveTo == some .V) = true := by
  decide +kernel

/-- A COPY of which PEND_DECREMENT has performed the first element. -/
theorem witness_copyAtWork :
    leaves (exec (.pendDecrement .device 5 4) expecting) (fun t =>
      match t.migrating.find? fun x => x.1 == copyHart && (Machine.copyRec x.2.bytes).mode == 0 with
      | some x => (Machine.copyRec x.2.bytes).plain x.2.bytes && (t.noticeHeld (copyNotice x.2.bytes)).isNone && x.2.landed / 4 == 1
      | none => false) = true := by decide +kernel

/-- A line that a store has made dirty above every point of coherence, and the bytes that stand below (R171). -/
theorem witness_heldAt :
    leaves (exec (.store 2 8 0 .b) (withG [(2, 7), (8, 0x1000)])) (fun t =>
      (t.heldAt t.pp 0x20 .array).any fun k => k.bytes.length == lineSize 0x20) = true ∧
    (bytes.heldAt bytes.pp 0x20 .array).isNone = true ∧ linesOf 0x1000 128 = [0x20] ∧ Memory.wf bytes.mem = true := by decide +kernel

end Sys2Proof.Tests
end

namespace Sys2Proof.Proofs

open Laws

/-! ### Bytes and numbers (R48) -/

@[simp] theorem leBytes_length (n v : Nat) : (leBytes n v).length = n := by
  induction n generalizing v with
  | zero => rfl
  | succ n ih => simp [leBytes, ih]

theorem leNat_leBytes (n v : Nat) : leNat (leBytes n v) = v % 256 ^ n := by
  induction n generalizing v with
  | zero => simp [leBytes, leNat, Nat.mod_one]
  | succ n ih =>
    rw [leBytes, leNat, ih, Nat.pow_succ', Nat.mod_mul]
    simp

theorem leNat_lt (bs : List Byte) : leNat bs < 256 ^ bs.length := by
  induction bs with
  | nil => simp [leNat]
  | cons b bs ih =>
    have hb := b.isLt
    rw [leNat, List.length_cons, Nat.pow_succ]
    omega

theorem leBytes_leNat (bs : List Byte) : leBytes bs.length (leNat bs) = bs := by
  induction bs with
  | nil => rfl
  | cons b bs ih =>
    have hb : b.toNat < 256 := b.isLt
    have hlow : BitVec.ofNat 8 (leNat (b :: bs)) = b :=
      BitVec.eq_of_toNat_eq (by simp only [BitVec.toNat_ofNat, leNat]; omega)
    have hhigh : leNat (b :: bs) / 256 = leNat bs := by rw [leNat]; omega
    rw [List.length_cons, leBytes, hlow, hhigh, ih]

/-- The bytes of one instruction as one number, zero-extended (R48). -/
def wordOf (bs : List Byte) : Word := BitVec.ofNat 64 (leNat bs)

theorem wordOf_toNat {bs : List Byte} (h : bs.length ≤ 8) : (wordOf bs).toNat = leNat bs := by
  have hlt : leNat bs < 256 ^ 8 := Nat.lt_of_lt_of_le (leNat_lt bs) (Nat.pow_le_pow_right (by decide) h)
  rw [wordOf, BitVec.toNat_ofNat, Nat.mod_eq_of_lt (by omega)]

theorem wordOf_leBytes {n : Nat} {w : Word} (h : w.toNat < 2 ^ (8 * n)) : wordOf (leBytes n w.toNat) = w := by
  rw [Nat.pow_mul] at h
  rw [wordOf, leNat_leBytes, Nat.mod_eq_of_lt h, BitVec.ofNat_toNat, BitVec.setWidth_eq]

/-- The first halfword stands in the two lowest bytes (R48). -/
theorem wordOf_firstHalf (b0 b1 : Byte) (t : List Byte) :
    (wordOf (b0 :: b1 :: t)).extractLsb' 0 16 = b1 ++ b0 := by
  apply BitVec.eq_of_toNat_eq
  have h0 := b0.isLt
  have h1 := b1.isLt
  rw [BitVec.toNat_append, Nat.shiftLeft_eq, Nat.mul_comm, ← Nat.two_pow_add_eq_or_of_lt h0]
  simp only [wordOf, leNat, BitVec.extractLsb'_toNat, BitVec.toNat_ofNat, Nat.shiftRight_zero]
  omega

/-! ### What the decoder answers -/

theorem two_le_lengthOf (h : BitVec 16) : 2 ≤ lengthOf h := by
  unfold lengthOf; split <;> decide

theorem lengthOf_le_eight (h : BitVec 16) : lengthOf h ≤ 8 := by
  unfold lengthOf; split <;> decide

theorem decode_eq_ok_raw {bs rest : List Byte} {i : Instr} :
    decode bs = .ok (i, rest) ↔ ∃ d, decodeBytes bs = .ok (d, rest) ∧ d.instr = i := by
  unfold decode
  cases decodeBytes bs with
  | error e => simp only [reduceCtorEq, false_and, exists_false]
  | ok p =>
    obtain ⟨d, tail⟩ := p
    simp only [Except.ok.injEq, Prod.mk.injEq]
    constructor
    · rintro ⟨hi, htail⟩
      exact ⟨d, ⟨rfl, htail⟩, hi⟩
    · rintro ⟨_, ⟨rfl, htail⟩, hi⟩
      exact ⟨hi, htail⟩

theorem decodeBytes_cons_cons (b0 b1 : Byte) (t : List Byte) :
    decodeBytes (b0 :: b1 :: t) =
      if (b0 :: b1 :: t).length < lengthOf (b1 ++ b0) then .error .short
      else
        match decodeRaw (lengthOf (b1 ++ b0)) (wordOf ((b0 :: b1 :: t).take (lengthOf (b1 ++ b0)))) with
        | some d => .ok (d, (b0 :: b1 :: t).drop (lengthOf (b1 ++ b0)))
        | none => .error (.illegal (lengthOf (b1 ++ b0)) (wordOf ((b0 :: b1 :: t).take (lengthOf (b1 ++ b0))))) := rfl

/-- Bytes that decode split into those that their own length bits ask for, whose bits are the instruction's, and
the rest (R47). -/
theorem decodeBytes_eq_ok_iff {bs rest : List Byte} {d : Decoded} :
    decodeBytes bs = .ok (d, rest) ↔ ∃ front, bs = front ++ rest ∧
      lengthOf ((wordOf front).extractLsb' 0 16) = front.length ∧
      decodeRaw front.length (wordOf front) = some d := by
  constructor
  · intro h
    match bs with
    | [] | [_] => cases h
    | b0 :: b1 :: t =>
      rw [decodeBytes_cons_cons] at h
      split at h
      · cases h
      · rename_i hlen
        split at h
        · rename_i d' hraw
          cases h
          have hfl := List.length_take_of_le (Nat.not_lt.1 hlen)
          refine ⟨_, (List.take_append_drop ..).symm, ?_, by rw [hfl, hraw]⟩
          obtain ⟨n, hn⟩ := Nat.exists_eq_add_of_le' (two_le_lengthOf (b1 ++ b0))
          rw [hfl, hn, List.take_succ_cons, List.take_succ_cons, wordOf_firstHalf, hn]
        · cases h
  · rintro ⟨front, rfl, hlen, hraw⟩
    have htwo := two_le_lengthOf ((wordOf front).extractLsb' 0 16)
    rw [hlen] at htwo
    match front, htwo with
    | b0 :: b1 :: t, _ =>
      rw [wordOf_firstHalf] at hlen
      have htake : (b0 :: b1 :: (t ++ rest)).take (lengthOf (b1 ++ b0)) = b0 :: b1 :: t := by
        rw [hlen]; exact List.take_left
      have hdrop : (b0 :: b1 :: (t ++ rest)).drop (lengthOf (b1 ++ b0)) = rest := by
        rw [hlen]; exact List.drop_left
      have hge : ¬ (b0 :: b1 :: (t ++ rest)).length < lengthOf (b1 ++ b0) := by
        rw [hlen]; simp
      rw [← hlen] at hraw
      rw [List.cons_append, List.cons_append, decodeBytes_cons_cons, if_neg hge, htake, hdrop, hraw]

theorem decode_eq_ok_iff {bs rest : List Byte} {i : Instr} :
    decode bs = .ok (i, rest) ↔ ∃ front, bs = front ++ rest ∧
      lengthOf ((wordOf front).extractLsb' 0 16) = front.length ∧
      decodeBits front.length (wordOf front) = some i := by
  rw [decode_eq_ok_raw]
  constructor
  · rintro ⟨d, hd, rfl⟩
    obtain ⟨front, hbs, hlen, hraw⟩ := decodeBytes_eq_ok_iff.1 hd
    exact ⟨front, hbs, hlen, by rw [decodeBits, hraw, Option.map_some]⟩
  · rintro ⟨front, hbs, hlen, hbits⟩
    obtain ⟨d, hraw, hi⟩ := Option.map_eq_some_iff.1 hbits
    exact ⟨d, decodeBytes_eq_ok_iff.2 ⟨front, hbs, hlen, hraw⟩, hi⟩

/-! ### Every encoding decodes (R47 to R57) -/

/-- The encoding laws of `Laws/PerInstr.lean` together; an event has no encoding. -/
theorem encoding_law (i : Instr) : Encoding.Statement i := by
  cases i with
  | cmv => apply Encoding.cmv
  | caddi => apply Encoding.caddi
  | cadd => apply Encoding.cadd
  | csub => apply Encoding.csub
  | cand => apply Encoding.cand
  | cor => apply Encoding.cor
  | cxor => apply Encoding.cxor
  | cshli => apply Encoding.cshli
  | cshri => apply Encoding.cshri
  | csrai => apply Encoding.csrai
  | cld => apply Encoding.cld
  | cst => apply Encoding.cst
  | cbnz => apply Encoding.cbnz
  | cbez => apply Encoding.cbez
  | cvadd => apply Encoding.cvadd
  | cvmul => apply Encoding.cvmul
  | cvfma => apply Encoding.cvfma
  | add => apply Encoding.add
  | sub => apply Encoding.sub
  | and => apply Encoding.and
  | or => apply Encoding.or
  | xor => apply Encoding.xor
  | andn => apply Encoding.andn
  | orn => apply Encoding.orn
  | xnor => apply Encoding.xnor
  | shl => apply Encoding.shl
  | shr => apply Encoding.shr
  | sra => apply Encoding.sra
  | rol => apply Encoding.rol
  | ror => apply Encoding.ror
  | slt => apply Encoding.slt
  | sltu => apply Encoding.sltu
  | min => apply Encoding.min
  | max => apply Encoding.max
  | minu => apply Encoding.minu
  | maxu => apply Encoding.maxu
  | mul => apply Encoding.mul
  | mulh => apply Encoding.mulh
  | mulhu => apply Encoding.mulhu
  | div => apply Encoding.div
  | divu => apply Encoding.divu
  | rem => apply Encoding.rem
  | remu => apply Encoding.remu
  | clz => apply Encoding.clz
  | ctz => apply Encoding.ctz
  | popc => apply Encoding.popc
  | bswap => apply Encoding.bswap
  | sext => apply Encoding.sext
  | zext => apply Encoding.zext
  | bfx => apply Encoding.bfx
  | bfi => apply Encoding.bfi
  | select => apply Encoding.select
  | addsc1 => apply Encoding.addsc1
  | addsc2 => apply Encoding.addsc2
  | addsc3 => apply Encoding.addsc3
  | addi => apply Encoding.addi
  | andi => apply Encoding.andi
  | ori => apply Encoding.ori
  | xori => apply Encoding.xori
  | slti => apply Encoding.slti
  | sltiu => apply Encoding.sltiu
  | addiL => apply Encoding.addiL
  | andiL => apply Encoding.andiL
  | oriL => apply Encoding.oriL
  | xoriL => apply Encoding.xoriL
  | sltiL => apply Encoding.sltiL
  | sltiuL => apply Encoding.sltiuL
  | shli => apply Encoding.shli
  | shri => apply Encoding.shri
  | srai => apply Encoding.srai
  | rori => apply Encoding.rori
  | ldhi => apply Encoding.ldhi
  | addpc => apply Encoding.addpc
  | laddpc => apply Encoding.laddpc
  | load => apply Encoding.load
  | loadL => apply Encoding.loadL
  | store => apply Encoding.store
  | storeL => apply Encoding.storeL
  | loadx => apply Encoding.loadx
  | storex => apply Encoding.storex
  | loadAcq => apply Encoding.loadAcq
  | storeRel => apply Encoding.storeRel
  | amoadd => apply Encoding.amoadd
  | amoand => apply Encoding.amoand
  | amoor => apply Encoding.amoor
  | amoxor => apply Encoding.amoxor
  | amomin => apply Encoding.amomin
  | amomax => apply Encoding.amomax
  | amominu => apply Encoding.amominu
  | amomaxu => apply Encoding.amomaxu
  | amoswap => apply Encoding.amoswap
  | amofadd => apply Encoding.amofadd
  | cas => apply Encoding.cas
  | fenceAcq => apply Encoding.fenceAcq
  | fenceRel => apply Encoding.fenceRel
  | fenceFull => apply Encoding.fenceFull
  | waitm => apply Encoding.waitm
  | prefetch => apply Encoding.prefetch
  | clean => apply Encoding.clean
  | flush => apply Encoding.flush
  | inval => apply Encoding.inval
  | beq => apply Encoding.beq
  | bne => apply Encoding.bne
  | blt => apply Encoding.blt
  | bge => apply Encoding.bge
  | bltu => apply Encoding.bltu
  | bgeu => apply Encoding.bgeu
  | beqL => apply Encoding.beqL
  | bneL => apply Encoding.bneL
  | bltL => apply Encoding.bltL
  | bgeL => apply Encoding.bgeL
  | bltuL => apply Encoding.bltuL
  | bgeuL => apply Encoding.bgeuL
  | call => apply Encoding.call
  | lcall => apply Encoding.lcall
  | jumpr => apply Encoding.jumpr
  | spawn => apply Encoding.spawn
  | msgopen => apply Encoding.msgopen
  | msgpoll => apply Encoding.msgpoll
  | mootnew => apply Encoding.mootnew
  | mootjoin => apply Encoding.mootjoin
  | mootleave => apply Encoding.mootleave
  | mootfree => apply Encoding.mootfree
  | mootarrive => apply Encoding.mootarrive
  | mootwait => apply Encoding.mootwait
  | mootsync => apply Encoding.mootsync
  | mootvoteAll => apply Encoding.mootvoteAll
  | mootvoteAny => apply Encoding.mootvoteAny
  | mootvoteCount => apply Encoding.mootvoteCount
  | mootbytes => apply Encoding.mootbytes
  | mootquery => apply Encoding.mootquery
  | mootredAdd => apply Encoding.mootredAdd
  | mootredMin => apply Encoding.mootredMin
  | mootredMax => apply Encoding.mootredMax
  | mootredAnd => apply Encoding.mootredAnd
  | mootredOr => apply Encoding.mootredOr
  | mootredXor => apply Encoding.mootredXor
  | xcopy => apply Encoding.xcopy
  | qgather => apply Encoding.qgather
  | qwalk => apply Encoding.qwalk
  | kick => apply Encoding.kick
  | fadd => apply Encoding.fadd
  | fsub => apply Encoding.fsub
  | fmul => apply Encoding.fmul
  | fdiv => apply Encoding.fdiv
  | fsqrt => apply Encoding.fsqrt
  | fmin => apply Encoding.fmin
  | fmax => apply Encoding.fmax
  | fsgn => apply Encoding.fsgn
  | fcmp => apply Encoding.fcmp
  | fclass => apply Encoding.fclass
  | frnd => apply Encoding.frnd
  | fmvx => apply Encoding.fmvx
  | fma => apply Encoding.fma
  | fms => apply Encoding.fms
  | fnma => apply Encoding.fnma
  | fnms => apply Encoding.fnms
  | fcvt => apply Encoding.fcvt
  | syscall => apply Encoding.syscall
  | brk => apply Encoding.brk
  | srd => apply Encoding.srd
  | swr => apply Encoding.swr
  | sswap => apply Encoding.sswap
  | tlbinv => apply Encoding.tlbinv
  | migrate => apply Encoding.migrate
  | pause => apply Encoding.pause
  | vadd => apply Encoding.vadd
  | vsub => apply Encoding.vsub
  | vrsub => apply Encoding.vrsub
  | vmul => apply Encoding.vmul
  | vmulh => apply Encoding.vmulh
  | vdiv => apply Encoding.vdiv
  | vrem => apply Encoding.vrem
  | vmin => apply Encoding.vmin
  | vmax => apply Encoding.vmax
  | vand => apply Encoding.vand
  | vor => apply Encoding.vor
  | vxor => apply Encoding.vxor
  | vshl => apply Encoding.vshl
  | vshr => apply Encoding.vshr
  | vfma => apply Encoding.vfma
  | vfms => apply Encoding.vfms
  | vfnma => apply Encoding.vfnma
  | vcmpEq => apply Encoding.vcmpEq
  | vcmpNe => apply Encoding.vcmpNe
  | vcmpLt => apply Encoding.vcmpLt
  | vcmpLe => apply Encoding.vcmpLe
  | vaddL => apply Encoding.vaddL
  | vsubL => apply Encoding.vsubL
  | vrsubL => apply Encoding.vrsubL
  | vmulL => apply Encoding.vmulL
  | vmulhL => apply Encoding.vmulhL
  | vdivL => apply Encoding.vdivL
  | vremL => apply Encoding.vremL
  | vminL => apply Encoding.vminL
  | vmaxL => apply Encoding.vmaxL
  | vandL => apply Encoding.vandL
  | vorL => apply Encoding.vorL
  | vxorL => apply Encoding.vxorL
  | vshlL => apply Encoding.vshlL
  | vshrL => apply Encoding.vshrL
  | vfmaL => apply Encoding.vfmaL
  | vfmsL => apply Encoding.vfmsL
  | vfnmaL => apply Encoding.vfnmaL
  | vcmpEqL => apply Encoding.vcmpEqL
  | vcmpNeL => apply Encoding.vcmpNeL
  | vcmpLtL => apply Encoding.vcmpLtL
  | vcmpLeL => apply Encoding.vcmpLeL
  | vmv => apply Encoding.vmv
  | vneg => apply Encoding.vneg
  | vabs => apply Encoding.vabs
  | vnot => apply Encoding.vnot
  | vsqrt => apply Encoding.vsqrt
  | vrcp => apply Encoding.vrcp
  | vrsq => apply Encoding.vrsq
  | vexp2 => apply Encoding.vexp2
  | vlog2 => apply Encoding.vlog2
  | vtanh => apply Encoding.vtanh
  | vclz => apply Encoding.vclz
  | vpopc => apply Encoding.vpopc
  | vsel => apply Encoding.vsel
  | vred => apply Encoding.vred
  | vredO => apply Encoding.vredO
  | vscan => apply Encoding.vscan
  | vcompress => apply Encoding.vcompress
  | vexpand => apply Encoding.vexpand
  | viota => apply Encoding.viota
  | vreshape => apply Encoding.vreshape
  | vextract => apply Encoding.vextract
  | vinsert => apply Encoding.vinsert
  | vld => apply Encoding.vld
  | vst => apply Encoding.vst
  | vldx => apply Encoding.vldx
  | vstx => apply Encoding.vstx
  | vldL => apply Encoding.vldL
  | vstL => apply Encoding.vstL
  | vldxL => apply Encoding.vldxL
  | vstxL => apply Encoding.vstxL
  | vldW => apply Encoding.vldW
  | vstW => apply Encoding.vstW
  | wset => apply Encoding.wset
  | wadv => apply Encoding.wadv
  | cnop => apply Encoding.cnop
  | fenceSv => apply Encoding.fenceSv
  | fenceVs => apply Encoding.fenceVs
  | fenceVv => apply Encoding.fenceVv
  | fenceI => apply Encoding.fenceI
  | join => apply Encoding.join
  | taskend => apply Encoding.taskend
  | msgdone => apply Encoding.msgdone
  | gbar => apply Encoding.gbar
  | eret => apply Encoding.eret
  | yield => apply Encoding.yield
  | halt => apply Encoding.halt
  | wfm => apply Encoding.wfm
  | vsetn => apply Encoding.vsetn
  | vsetnG => apply Encoding.vsetnG
  | vsetd => apply Encoding.vsetd
  | vtag => apply Encoding.vtag
  | vfsave => apply Encoding.vfsave
  | vfrestore => apply Encoding.vfrestore
  | mand => apply Encoding.mand
  | mor => apply Encoding.mor
  | mxor => apply Encoding.mxor
  | mandn => apply Encoding.mandn
  | mmov => apply Encoding.mmov
  | mpopc => apply Encoding.mpopc
  | mfirst => apply Encoding.mfirst
  | vcvt => apply Encoding.vcvt
  | vcvtSat => apply Encoding.vcvtSat
  | vcvtI4 => apply Encoding.vcvtI4
  | vcvtE3m2 => apply Encoding.vcvtE3m2
  | vcvtE2m3 => apply Encoding.vcvtE2m3
  | mattach => apply Encoding.mattach
  | mshape => apply Encoding.mshape
  | mtld => apply Encoding.mtld
  | mtldk => apply Encoding.mtldk
  | mtst => apply Encoding.mtst
  | mring => apply Encoding.mring
  | mma => apply Encoding.mma
  | mmas => apply Encoding.mmas
  | mext => apply Encoding.mext
  | mextst => apply Encoding.mextst
  | mdetach => apply Encoding.mdetach
  | mzero => apply Encoding.mzero
  | mrel => apply Encoding.mrel
  | mwait => apply Encoding.mwait
  | _ => exact Encoding.of_event rfl

/-- Settles O54: the encoding law of every constructor, carried over to bytes by `decode_eq_ok_iff`. -/
theorem decodeEncode : Obligations.DecodeEncode := by
  intro i e rest hwf he
  obtain ⟨hbits, hlen, hlt⟩ := encoding_law i hwf e he
  have hbytes : encodeBytes i = leBytes e.len e.bits.toNat := by rw [encodeBytes, he]
  refine decode_eq_ok_iff.2 ⟨encodeBytes i, rfl, ?_, ?_⟩
  · rw [hbytes, wordOf_leBytes hlt, leBytes_length, hlen]
  · rw [hbytes, wordOf_leBytes hlt, leBytes_length, hbits]

theorem decode_of_encodeBytes {i : Instr} {bs : List Byte} (hwf : WellFormed i = true)
    (he : (encode i).isSome = true) (hbs : encodeBytes i = bs) : decode bs = .ok (i, []) := by
  obtain ⟨e, he⟩ := Option.isSome_iff_exists.1 he
  simpa [hbs] using decodeEncode i e [] hwf he

/-- Settles O56: each word is the encoding of its instruction, and the last one names no major. -/
theorem decodeWords : Obligations.DecodeWords := by
  refine ⟨?_, ?_, ?_, ?_, ?_, ?_, ?_, ?_, ?_, ?_, ?_, ?_, rfl⟩ <;> exact decode_of_encodeBytes rfl rfl rfl

/-! ### Which instruction a step runs (R85) -/

section Step

open Machine

theorem fetch_eq_code {s s1 s2 : State} {b0 b1 rest : List Byte} {i : Instr}
    (hpc : s.hart.pc.getLsbD 0 = false) (h0 : s.fetchHalves s.hart.pc 1 = .done b0 s1)
    (h1 : s1.fetchHalves (s.hart.pc + 2) (lengthOf (BitVec.ofNat 16 (leNat b0)) / 2 - 1) = .done b1 s2)
    (hd : decode (b0 ++ b1) = .ok (i, rest)) : ∃ d, s.fetch = .code d s2 ∧ d.instr = i := by
  obtain ⟨d, hraw, rfl⟩ := decode_eq_ok_raw.1 hd
  refine ⟨d, ?_, rfl⟩
  simp only [State.fetch, numOf, hpc, h0, h1, hraw, Bool.false_eq_true, if_false]

theorem act_of_no_turns {s : State} (ht : s.turns = []) (hl : 0 ∉ s.lostDies) : s.act = s.turn := by
  simp [State.act, ht, hl]

theorem issues_of_running {s : State} (hw : s.hart.wait = .running) (hr : s.recovery = false ∨ s.cclass ≠ .C) :
    s.issues = true := by
  rcases hr with hr | hr <;> simp [State.issues, hw, hr]

theorem before_eq_none {s : State} (hwin : s.hart.winCount < 65536) (hev : s.hart.evict = false)
    (hmove : s.hart.moveTo = none) (h1 : s.hart.pend1 = false) (h2 : s.hart.pend2 = false)
    (hfp : s.hart.fpTraps = []) : s.before = none := by
  have hasync : s.hart.asyncDue = none := by simp [Hart.asyncDue, h1, h2]
  have hevicted : s.evicted = false := by simp [State.evicted, hev]
  simp [State.before, Nat.not_le.2 hwin, hevicted, hmove, hfp, dueTrap, hasync]

/-- Settles O57: an empty schedule leaves the turn to the current hart, which fetches, decodes and executes; a
schedule names its own event or hart. -/
theorem stepRunsDecoded : Obligations.StepRunsDecoded := by
  intro s
  refine ⟨?_, before_eq_none, ?_, ?_, ?_⟩
  · intro s1 s2 b0 b1 rest i ht hl hw hb hr hpc h0 h1 hd
    obtain ⟨d, hfetch, rfl⟩ := fetch_eq_code hpc h0 h1 hd
    calc step s = s.turn := act_of_no_turns ht hl
      _ = s.issue := by simp [State.turn, hb, issues_of_running hw hr]
      _ = exec d.instr s2 := by simp [State.issue, hfetch, execDecoded]
  · intro i t ht hl he
    simp [step, State.act, ht, hl, isEvent, he]
  · intro t ht
    simp [step, State.act, ht, isEvent, encode]
  · intro p t ht hl hp
    have hp' : ({ s with turns := t } : State).places.contains p = true := List.contains_iff_mem.2 hp
    have hl' : s.lostDies.contains 0 = false := by simpa using hl
    simp only [step, State.act, ht, hl', hp', Bool.false_eq_true, if_false, if_true]

end Step

/-! ### What is decoded is well formed and encoded by the bytes read: the rules (R84) -/

/-- `i` is well formed, and `e` is its encoding. -/
def Coded (i : Instr) (e : Enc) : Prop := WellFormed i = true ∧ encode i = some e

/-- What a decoder answers for the encoding `e`, if it answers, stands for an instruction that `e` encodes. -/
def Codes {α : Type} (val : α → Instr) (answer : Option α) (e : Enc) : Prop :=
  ∀ r, answer = some r → Coded (val r) e

section Rules

variable {α β : Type} {val : α → Instr} {e : Enc}

@[simp] theorem codes_none : Codes val none e := nofun

@[simp] theorem codes_some {r : α} : Codes val (some r) e ↔ Coded (val r) e := by simp [Codes]

@[simp] theorem codes_whenZero {z : Bool} {r : α} : Codes val (whenZero z r) e ↔ (z = true → Coded (val r) e) := by
  cases z <;> simp [whenZero]

@[simp] theorem codes_if_else_none {z : Prop} [Decidable z] {o : Option α} :
    Codes val (if z then o else none) e ↔ (z → Codes val o e) := by
  by_cases hz : z <;> simp [hz]

@[simp] theorem codes_if_none_else {z : Prop} [Decidable z] {o : Option α} :
    Codes val (if z then none else o) e ↔ (¬ z → Codes val o e) := by
  by_cases hz : z <;> simp [hz]

@[simp] theorem codes_checked {i : Instr} : Codes id (checked i) e ↔ (WellFormed i = true → encode i = some e) := by
  by_cases hw : WellFormed i = true <;> simp [checked, hw, Coded]

@[simp] theorem codes_map {o : Option β} {g : β → α} :
    Codes val (o.map g) e ↔ ∀ q, o = some q → Coded (val (g q)) e := by
  cases o <;> simp

@[simp] theorem codes_bind {o : Option β} {g : β → Option α} :
    Codes val (o.bind g) e ↔ ∀ q, o = some q → Codes val (g q) e := by
  cases o <;> simp

end Rules

/-- A word in the base form, or in the long form with the extension word given. -/
def encExt (maj f : BitVec 6) (a : BitVec 5) (x : BitVec 3) (b c : BitVec 5) : Option (BitVec 32) → Enc
  | none => enc32 maj f a x b c
  | some e => enc64 maj f a x b c e

/-! ### A field is the row that its table selects -/

theorem eq_ofNat_of_toNat_eq {w k : Nat} {x : BitVec w} (h : x.toNat = k) : x = BitVec.ofNat w k := by
  rw [← h, BitVec.ofNat_toNat, BitVec.setWidth_eq]

theorem eq_three {p : BitVec 2} (h0 : p ≠ 0) (h1 : p ≠ 1) (h2 : p ≠ 2) : p = 3 := by
  revert p; decide

theorem eq_seven {p : BitVec 3} (h0 : p ≠ 0) (h1 : p ≠ 1) (h2 : p ≠ 2) (h3 : p ≠ 3) (h4 : p ≠ 4) (h5 : p ≠ 5)
    (h6 : p ≠ 6) : p = 7 := by
  bv_omega

/-! ### A field is its slices, a word its fields

The counterpart of the slices of `Laws/Fields.lean`, under the same names: with a field written as its slices, each
condition of a decoder fixes one of them. -/

theorem exists_append {n m : Nat} (x : BitVec (n + m)) : ∃ (p : BitVec n) (q : BitVec m), x = p ++ q :=
  ⟨x.extractLsb' m n, x.extractLsb' 0 m, by simp⟩

theorem exists_append₃ {n m k : Nat} (x : BitVec (n + m + k)) :
    ∃ (p : BitVec n) (q : BitVec m) (r : BitVec k), x = p ++ q ++ r := by
  obtain ⟨y, r, rfl⟩ := exists_append x
  obtain ⟨p, q, rfl⟩ := exists_append y
  exact ⟨p, q, r, rfl⟩

theorem exists_ofBool (x : BitVec 1) : ∃ j : Bool, x = BitVec.ofBool j := by
  revert x; decide

theorem exists_ofBool_append {n : Nat} (x : BitVec (1 + n)) :
    ∃ (j : Bool) (q : BitVec n), x = BitVec.ofBool j ++ q := by
  obtain ⟨p, q, rfl⟩ := exists_append x
  obtain ⟨j, rfl⟩ := exists_ofBool p
  exact ⟨j, q, rfl⟩

theorem exists_ofBool_append₃ {n m : Nat} (x : BitVec (1 + n + m)) :
    ∃ (j : Bool) (q : BitVec n) (r : BitVec m), x = BitVec.ofBool j ++ q ++ r := by
  obtain ⟨p, q, r, rfl⟩ := exists_append₃ x
  obtain ⟨j, rfl⟩ := exists_ofBool p
  exact ⟨j, q, r, rfl⟩

theorem split_12 (x : BitVec 3) : ∃ (j : Bool) (q : BitVec 2), x = BitVec.ofBool j ++ q :=
  exists_ofBool_append (n := 2) x
theorem split_21 (x : BitVec 3) : ∃ (p : BitVec 2) (j : Bool), x = p ++ BitVec.ofBool j := by
  obtain ⟨p, q, rfl⟩ := exists_append (n := 2) (m := 1) x
  obtain ⟨j, rfl⟩ := exists_ofBool q
  exact ⟨p, j, rfl⟩
theorem split_14 (x : BitVec 5) : ∃ (j : Bool) (q : BitVec 4), x = BitVec.ofBool j ++ q :=
  exists_ofBool_append (n := 4) x
theorem split_23 (x : BitVec 5) : ∃ (p : BitVec 2) (q : BitVec 3), x = p ++ q := exists_append (n := 2) (m := 3) x
theorem split_32 (x : BitVec 5) : ∃ (p : BitVec 3) (q : BitVec 2), x = p ++ q := exists_append (n := 3) (m := 2) x
theorem split_122 (x : BitVec 5) : ∃ (j : Bool) (p q : BitVec 2), x = BitVec.ofBool j ++ p ++ q :=
  exists_ofBool_append₃ (n := 2) (m := 2) x
theorem split_15 (x : BitVec 6) : ∃ (j : Bool) (q : BitVec 5), x = BitVec.ofBool j ++ q :=
  exists_ofBool_append (n := 5) x
theorem split_42 (x : BitVec 6) : ∃ (p : BitVec 4) (q : BitVec 2), x = p ++ q := exists_append (n := 4) (m := 2) x
theorem split_222 (x : BitVec 6) : ∃ p q r : BitVec 2, x = p ++ q ++ r := exists_append₃ (n := 2) (m := 2) (k := 2) x
theorem split_231 (x : BitVec 6) : ∃ (p : BitVec 2) (q : BitVec 3) (r : BitVec 1), x = p ++ q ++ r :=
  exists_append₃ (n := 2) (m := 3) (k := 1) x
theorem split_123 (x : BitVec 6) : ∃ (j : Bool) (p : BitVec 2) (q : BitVec 3), x = BitVec.ofBool j ++ p ++ q :=
  exists_ofBool_append₃ (n := 2) (m := 3) x
theorem split_132 (x : BitVec 6) : ∃ (j : Bool) (p : BitVec 3) (q : BitVec 2), x = BitVec.ofBool j ++ p ++ q :=
  exists_ofBool_append₃ (n := 3) (m := 2) x
theorem split_114 (x : BitVec 6) : ∃ (j k : Bool) (q : BitVec 4), x = BitVec.ofBool j ++ BitVec.ofBool k ++ q := by
  obtain ⟨j, p, q, rfl⟩ := exists_ofBool_append₃ (n := 1) (m := 4) x
  obtain ⟨k, rfl⟩ := exists_ofBool p
  exact ⟨j, k, q, rfl⟩
theorem split_213 (x : BitVec 6) : ∃ (p : BitVec 2) (j : Bool) (q : BitVec 3), x = p ++ BitVec.ofBool j ++ q := by
  obtain ⟨p, r, q, rfl⟩ := exists_append₃ (n := 2) (m := 1) (k := 3) x
  obtain ⟨j, rfl⟩ := exists_ofBool r
  exact ⟨p, j, q, rfl⟩
theorem split_411 (x : BitVec 6) : ∃ (p : BitVec 4) (j k : Bool), x = p ++ BitVec.ofBool j ++ BitVec.ofBool k := by
  obtain ⟨p, q, r, rfl⟩ := exists_append₃ (n := 4) (m := 1) (k := 1) x
  obtain ⟨j, rfl⟩ := exists_ofBool q
  obtain ⟨k, rfl⟩ := exists_ofBool r
  exact ⟨p, j, k, rfl⟩
theorem split_1113 (x : BitVec 6) :
    ∃ (j k l : Bool) (q : BitVec 3), x = BitVec.ofBool j ++ BitVec.ofBool k ++ BitVec.ofBool l ++ q := by
  obtain ⟨y, r, q, rfl⟩ := exists_append₃ (n := 2) (m := 1) (k := 3) x
  obtain ⟨j, p, rfl⟩ := exists_ofBool_append (n := 1) y
  obtain ⟨k, rfl⟩ := exists_ofBool p
  obtain ⟨l, rfl⟩ := exists_ofBool r
  exact ⟨j, k, l, q, rfl⟩
theorem split_655 (x : BitVec 16) : ∃ (p : BitVec 6) (q r : BitVec 5), x = p ++ q ++ r :=
  exists_append₃ (n := 6) (m := 5) (k := 5) x
theorem split_313 (x : BitVec 16) : ∃ (p : BitVec 3) (q : BitVec 13), x = p ++ q := exists_append (n := 3) (m := 13) x
theorem split_385 (x : BitVec 16) : ∃ (p : BitVec 3) (q : BitVec 8) (r : BitVec 5), x = p ++ q ++ r :=
  exists_append₃ (n := 3) (m := 8) (k := 5) x
theorem split_394 (x : BitVec 16) : ∃ (p : BitVec 3) (q : BitVec 9) (r : BitVec 4), x = p ++ q ++ r :=
  exists_append₃ (n := 3) (m := 9) (k := 4) x
theorem split_3715 (x : BitVec 16) :
    ∃ (p : BitVec 3) (q : BitVec 7) (j : Bool) (r : BitVec 5), x = p ++ q ++ BitVec.ofBool j ++ r := by
  obtain ⟨y, s, r, rfl⟩ := exists_append₃ (n := 10) (m := 1) (k := 5) x
  obtain ⟨p, q, rfl⟩ := exists_append (n := 3) (m := 7) y
  obtain ⟨j, rfl⟩ := exists_ofBool s
  exact ⟨p, q, j, r, rfl⟩
theorem split_1616 (x : BitVec 32) : ∃ p q : BitVec 16, x = p ++ q := exists_append (n := 16) (m := 16) x
theorem split_16142 (x : BitVec 32) : ∃ (p : BitVec 16) (q : BitVec 14) (r : BitVec 2), x = p ++ q ++ r :=
  exists_append₃ (n := 16) (m := 14) (k := 2) x

theorem exists_word32 (w : BitVec 32) : ∃ (c b : BitVec 5) (f : BitVec 6) (ln : BitVec 2) (maj : BitVec 6)
    (a : BitVec 5) (x : BitVec 3), w = word32 c b f ln maj a x := by
  obtain ⟨y, a, x, rfl⟩ := exists_append₃ (n := 24) (m := 5) (k := 3) w
  obtain ⟨z, ln, maj, rfl⟩ := exists_append₃ (n := 16) (m := 2) (k := 6) y
  obtain ⟨c, b, f, rfl⟩ := exists_append₃ (n := 5) (m := 5) (k := 6) z
  exact ⟨c, b, f, ln, maj, a, x, rfl⟩

/-! ### An all-zero field has all-zero slices -/

@[simp] theorem ofBool_eq_zero {j : Bool} : BitVec.ofBool j = 0#1 ↔ j = false := by
  cases j <;> decide
@[simp] theorem append_12_eq_zero {p : BitVec 1} {q : BitVec 2} : (p ++ q : BitVec 3) = 0#3 ↔ p = 0#1 ∧ q = 0#2 := by
  revert p q; decide
@[simp] theorem append_21_eq_zero {p : BitVec 2} {q : BitVec 1} : (p ++ q : BitVec 3) = 0#3 ↔ p = 0#2 ∧ q = 0#1 := by
  revert p q; decide
@[simp] theorem append_13_eq_zero {p : BitVec 1} {q : BitVec 3} : (p ++ q : BitVec 4) = 0#4 ↔ p = 0#1 ∧ q = 0#3 := by
  revert p q; decide
@[simp] theorem append_23_eq_zero {p : BitVec 2} {q : BitVec 3} : (p ++ q : BitVec 5) = 0#5 ↔ p = 0#2 ∧ q = 0#3 := by
  revert p q; decide
@[simp] theorem append_32_eq_zero {p : BitVec 3} {q : BitVec 2} : (p ++ q : BitVec 5) = 0#5 ↔ p = 0#3 ∧ q = 0#2 := by
  revert p q; decide

/-! ### Immediates put together from fields (R53) -/

@[simp] theorem slice_55_0_5 (p q : BitVec 5) : (p ++ q : BitVec 10).extractLsb' 0 5 = q := by ext i hi; grind
@[simp] theorem slice_55_5_5 (p q : BitVec 5) : (p ++ q : BitVec 10).extractLsb' 5 5 = p := by ext i hi; grind

theorem encImm_append (maj : BitVec 6) (a b c : BitVec 5) (f : BitVec 6) (x : BitVec 3) :
    encImm maj a b (c ++ f ++ x) = enc32 maj f a x b c := by
  unfold encImm
  congr 1 <;> (ext i hi; grind)

theorem encU_append (maj : BitVec 6) (a b c : BitVec 5) (f : BitVec 6) (x : BitVec 3) :
    encU maj a (c ++ b ++ f ++ x) = enc32 maj f a x b c := by
  unfold encU
  congr 1 <;> (ext i hi; grind)

theorem encM_append (maj : BitVec 6) (a b c : BitVec 5) (f : BitVec 6) (x : BitVec 3) :
    encM maj a b (c ++ f) x = enc32 maj f a x b c := by
  unfold encM
  congr 1 <;> (ext i hi; grind)

theorem encSysReg_append (f : BitVec 6) (a b c : BitVec 5) (q : BitVec 2) :
    encSysReg f a (c ++ b ++ q) = enc32 0x1E f a (0#1 ++ q) b c := by
  unfold encSysReg
  congr 1
  · congr 1; ext i hi; grind
  all_goals ext i hi; grind

/-! ### A field is the code of what it is read as -/

@[simp] theorem loadSize_ofCode {x : BitVec 3} {q : LoadSize} : LoadSize.ofCode x = some q ↔ q.code = x :=
  ⟨by revert x; cases q <;> decide, by rintro rfl; exact loadSize_code q⟩
@[simp] theorem storeSize_ofCode {x : BitVec 3} {q : StoreSize} : StoreSize.ofCode x = some q ↔ q.code = x :=
  ⟨by revert x; cases q <;> decide, by rintro rfl; exact storeSize_code q⟩
@[simp] theorem scope_ofCode {x : BitVec 3} {q : Scope} : Scope.ofCode x = some q ↔ q.code = x :=
  ⟨by revert x; cases q <;> decide, by rintro rfl; exact scope_code q⟩
@[simp] theorem rm_ofCode {x : BitVec 3} {q : Rm} : Rm.ofCode x = some q ↔ q.code = x :=
  ⟨by revert x; cases q <;> decide, by rintro rfl; exact rm_code q⟩
@[simp] theorem fsgn_ofCode {x : BitVec 3} {q : FsgnOp} : FsgnOp.ofCode x = some q ↔ q.code = x :=
  ⟨by revert x; cases q <;> decide, by rintro rfl; exact fsgn_code q⟩
@[simp] theorem fcmp_ofCode {x : BitVec 3} {q : FcmpOp} : FcmpOp.ofCode x = some q ↔ q.code = x :=
  ⟨by revert x; cases q <;> decide, by rintro rfl; exact fcmp_code q⟩
@[simp] theorem extW_ofCode {x : BitVec 3} {q : ExtW} : ExtW.ofCode x = some q ↔ q.code = x :=
  ⟨by revert x; cases q <;> decide, by rintro rfl; exact extW_code q⟩
@[simp] theorem vform_ofCode {x : BitVec 2} {q : VForm} : VForm.ofCode x = some q ↔ q.code = x :=
  ⟨by revert x; cases q <;> decide, by rintro rfl; exact vform_code q⟩
@[simp] theorem redOp_ofCode {x : BitVec 5} {q : RedOp} : RedOp.ofCode x = some q ↔ q.code = x :=
  ⟨by revert x; cases q <;> decide, by rintro rfl; exact redOp_code q⟩
@[simp] theorem extFmt_ofCode {x : BitVec 3} {q : ExtFmt} : ExtFmt.ofCode x = some q ↔ q.code = x :=
  ⟨by revert x; cases q <;> decide, by rintro rfl; exact extFmt_code q⟩
@[simp] theorem decMatB_eq_some {b : BitVec 5} {q : MatB} : decMatB b = some q ↔ q.code = b :=
  ⟨by cases q with
    | tile t => revert b t; decide
    | latch n => revert b n; decide, by rintro rfl; exact matB_code q⟩
theorem exists_fpFmt (x : BitVec 2) : ∃ f : FpFmt, x = f.code := ⟨FpFmt.ofCode x, by revert x; decide⟩
theorem exists_cvtFmt (x : BitVec 4) : ∃ f : CvtFmt, x = f.code := ⟨CvtFmt.ofCode x, by revert x; decide⟩
theorem exists_amoOrd (x : BitVec 2) : ∃ o : AmoOrd, x = o.code := ⟨AmoOrd.ofCode x, by revert x; decide⟩
theorem exists_tag (x : BitVec 3) : ∃ t : Tag, x = t.code := ⟨Tag.ofCode x, by revert x; decide⟩
theorem exists_sew (x : BitVec 2) : ∃ s : Sew, x = s.code := ⟨Sew.ofCode x, by revert x; decide⟩
theorem exists_grp (x : BitVec 2) : ∃ g : Grp, x = g.code := ⟨Grp.ofCode x, by revert x; decide⟩

/-- A halfword that reads as a descriptor reads as a legal one, and is its word (R57). -/
theorem code_of_drove_ofCode {w : BitVec 16} : ∀ d, Drove.ofCode w = some d → d.wf = true ∧ d.code = w := by
  unfold Drove.ofCode
  dsimp only
  split
  case h_2 h | h_4 h =>
    obtain ⟨k, arg, rfl⟩ := split_313 w
    simp [BitVec.toNat_eq_nat, -BitVec.reduceAppend, -BitVec.extractLsb'_toNat] at h ⊢
    subst h
    exact ⟨rfl, rfl⟩
  case' h_1 h => obtain ⟨k, arg, rfl⟩ := split_313 w
  case' h_3 h | h_5 h => obtain ⟨k, z, g, rfl⟩ := split_385 w
  case' h_6 h | h_7 h => obtain ⟨k, z, n, rfl⟩ := split_394 w
  case' h_8 h0 h1 h2 h3 h4 h5 h6 =>
    obtain ⟨k, z, m, v, rfl⟩ := split_3715 w
    simp [BitVec.toNat_eq_nat, -BitVec.reduceAppend, -BitVec.extractLsb'_toNat] at h0 h1 h2 h3 h4 h5 h6
    have h := congrArg BitVec.toNat (eq_seven h0 h1 h2 h3 h4 h5 h6)
  all_goals
    simp [BitVec.toNat_eq_nat, -BitVec.reduceAppend, -BitVec.extractLsb'_toNat] at h ⊢
    subst h
    rintro rfl hw
    exact ⟨hw, rfl⟩

/-- The two halves of an extension word that reads as descriptors are their words (R56). -/
theorem eq_of_drovesOf {e : BitVec 32} {p : Drove × Drove} (h : drovesOf e = some p) :
    p.2.wf = true ∧ e = p.2.code ++ p.1.code := by
  obtain ⟨hi, lo, rfl⟩ := split_1616 e
  simp only [drovesOf, Option.bind_eq_some_iff, Option.map_eq_some_iff, slice_1616_0_16, slice_1616_16_16] at h
  obtain ⟨db, hb, dc, hc, rfl⟩ := h
  obtain ⟨-, rfl⟩ := code_of_drove_ofCode db hb
  obtain ⟨hw, rfl⟩ := code_of_drove_ofCode dc hc
  exact ⟨hw, rfl⟩

/-! ### The rows of each table decode only what encodes to them

Each proof goes through the rows of its decoder. A reserved row answers nothing (`codes_none`). Any other row asks some
slices of the fields to have a value and reads its operands from the rest: once the asked values stand for the slices,
the row's entry of `encode` computes to the word read, because no bit was left unread. -/

theorem decIntR_codes {a x b c f} :
    Codes id (decIntR ⟨a, x, b, c, f, 1⟩) (enc32 1 f a x b c) := by
  fun_cases decIntR
  any_goals exact codes_none
  all_goals
    simp +zetaDelta [BitVec.toNat_eq_nat, -BitVec.reduceAppend, -BitVec.extractLsb'_toNat] at *
    intros; subst_vars
    exact ⟨rfl, rfl⟩

theorem decShiftI_codes {a x b c f} :
    Codes id (decShiftI ⟨a, x, b, c, f, 8⟩) (enc32 8 f a x b c) := by
  fun_cases decShiftI
  any_goals exact codes_none
  all_goals
    simp +zetaDelta [BitVec.toNat_eq_nat, -BitVec.reduceAppend, -BitVec.extractLsb'_toNat] at *
    intros; subst_vars
    exact ⟨rfl, rfl⟩

theorem decMemX_codes {a x b c f} :
    Codes id (decMemX ⟨a, x, b, c, f, 0x0D⟩) (enc32 0x0D f a x b c) := by
  fun_cases decMemX
  any_goals exact codes_none
  case' case1 | case3 => obtain ⟨p, q, r, rfl⟩ := split_222 f
  case' case5 => obtain ⟨p, q, r, rfl⟩ := split_231 f
  case' case7 h0 h1 h2 =>
    obtain ⟨p, q, r, rfl⟩ := split_231 f
    simp +zetaDelta [BitVec.toNat_eq_nat, -BitVec.reduceAppend, -BitVec.extractLsb'_toNat] at h0 h1 h2
    obtain rfl := eq_three h0 h1 h2
  all_goals
    simp_all +zetaDelta [BitVec.toNat_eq_nat, -BitVec.reduceAppend, -BitVec.extractLsb'_toNat]
    intros; subst_vars
    exact ⟨rfl, rfl⟩

theorem decFence_codes {a x b c f} :
    Codes id (decFence ⟨a, x, b, c, f, 0x0F⟩) (enc32 0x0F f a x b c) := by
  obtain ⟨p, q, rfl⟩ := split_42 f
  fun_cases decFence
  any_goals exact codes_none
  case case1 h0 habc =>
    simp +zetaDelta [BitVec.toNat_eq_nat, -BitVec.reduceAppend, -BitVec.extractLsb'_toNat] at *
    obtain ⟨⟨rfl, rfl⟩, rfl⟩ := habc
    subst h0
    rintro s rfl
    split
    case h_4 => exact codes_none
    all_goals
      rename_i hq
      obtain rfl := eq_ofNat_of_toNat_eq hq
      exact codes_some.2 ⟨rfl, rfl⟩
  all_goals
    simp_all +zetaDelta [BitVec.toNat_eq_nat, -BitVec.reduceAppend, -BitVec.extractLsb'_toNat]
    intros; subst_vars
    exact ⟨rfl, rfl⟩

theorem decTask_codes {a x b c f} :
    Codes id (decTask ⟨a, x, b, c, f, 0x18⟩) (enc32 0x18 f a x b c) := by
  fun_cases decTask
  any_goals exact codes_none
  case' case1 => obtain ⟨z, p, rfl⟩ := split_12 x
  case' case4 => obtain ⟨z, j, rfl⟩ := split_21 x
  all_goals
    simp +zetaDelta [BitVec.toNat_eq_nat, -BitVec.reduceAppend, -BitVec.extractLsb'_toNat] at *
    intros; subst_vars
    exact ⟨rfl, rfl⟩

theorem decMoot_codes {a x b c f} :
    Codes id (decMoot ⟨a, x, b, c, f, 0x19⟩) (enc32 0x19 f a x b c) := by
  fun_cases decMoot
  any_goals exact codes_none
  all_goals
    simp +zetaDelta [BitVec.toNat_eq_nat, -BitVec.reduceAppend, -BitVec.extractLsb'_toNat] at *
    intros; subst_vars
    exact ⟨rfl, rfl⟩

theorem decEngine_codes {a x b c f} :
    Codes id (decEngine ⟨a, x, b, c, f, 0x1A⟩) (enc32 0x1A f a x b c) := by
  fun_cases decEngine
  any_goals exact codes_none
  all_goals
    simp +zetaDelta [BitVec.toNat_eq_nat, -BitVec.reduceAppend, -BitVec.extractLsb'_toNat] at *
    intros; subst_vars
    exact ⟨rfl, rfl⟩

theorem decFpR_codes {a x b c f} :
    Codes id (decFpR ⟨a, x, b, c, f, 0x1B⟩) (enc32 0x1B f a x b c) := by
  obtain ⟨p, q, rfl⟩ := split_42 f
  obtain ⟨fmt, rfl⟩ := exists_fpFmt q
  fun_cases decFpR
  any_goals exact codes_none
  all_goals
    simp +zetaDelta [BitVec.toNat_eq_nat, -BitVec.reduceAppend, -BitVec.extractLsb'_toNat] at *
    intros; subst_vars
    exact ⟨rfl, rfl⟩

theorem decFma_codes {a x b c f} :
    Codes id (decFma ⟨a, x, b, c, f, 0x1C⟩) (enc32 0x1C f a x b c) := by
  obtain ⟨p, q, r, rfl⟩ := split_222 f
  obtain ⟨fmt, rfl⟩ := exists_fpFmt r
  simp [decFma, -BitVec.reduceAppend, -BitVec.extractLsb'_toNat]
  rintro rfl rm rfl
  split
  case' h_1 h | h_2 h | h_3 h => obtain rfl := eq_ofNat_of_toNat_eq h
  case' h_4 h0 h1 h2 =>
    simp [BitVec.toNat_eq_nat] at h0 h1 h2
    obtain rfl := eq_three h0 h1 h2
  all_goals exact ⟨rfl, rfl⟩

theorem decCvt_codes {a x b c f} :
    Codes id (decCvt ⟨a, x, b, c, f, 0x1D⟩) (enc32 0x1D f a x b c) := by
  obtain ⟨sat, z, s, rfl⟩ := split_114 f
  obtain ⟨y, d, rfl⟩ := split_14 c
  obtain ⟨src, rfl⟩ := exists_cvtFmt s
  obtain ⟨dst, rfl⟩ := exists_cvtFmt d
  simp [decCvt, -BitVec.reduceAppend]
  rintro rfl rfl rm rfl
  exact ⟨rfl, rfl⟩

theorem decSystem_codes {a x b c f} :
    Codes id (decSystem ⟨a, x, b, c, f, 0x1E⟩) (enc32 0x1E f a x b c) := by
  obtain ⟨y, q, rfl⟩ := split_12 x
  fun_cases decSystem
  any_goals exact codes_none
  all_goals
    simp_all +zetaDelta [BitVec.toNat_eq_nat, -BitVec.reduceAppend, -BitVec.extractLsb'_toNat]
    intros; subst_vars
  case case1 | case2 => exact ⟨rfl, by simp [encode]⟩
  case case4 | case5 | case6 => exact ⟨rfl, congrArg some (encSysReg_append ..)⟩
  all_goals exact ⟨rfl, rfl⟩

theorem decAtomic_codes {a x b c f ext} :
    Codes id (decAtomic ⟨a, x, b, c, f, 0x0E⟩ ext) (enc64 0x0E f a x b c ext) := by
  obtain ⟨op, dbl, far, rfl⟩ := split_411 f
  obtain ⟨off, z, o, rfl⟩ := split_16142 ext
  obtain ⟨ord, rfl⟩ := exists_amoOrd o
  simp [decAtomic, -BitVec.reduceAppend, -BitVec.extractLsb'_toNat]
  rintro rfl scope rfl
  split
  case h_12 => exact codes_none
  all_goals
    rename_i h
    obtain rfl := eq_ofNat_of_toNat_eq h
    exact codes_some.2 ⟨rfl, rfl⟩

/-! #### Vector and matrix tables -/

theorem decVBase_codes {k : VBase → Instr} {maj} (hw : ∀ o, WellFormed (k o) = true)
    (he : ∀ o, encode (k o) = some (encVBase maj o)) {a x b c f} :
    Codes id ((decVBase ⟨a, x, b, c, f, maj⟩).map k) (enc32 maj f a x b c) := by
  obtain ⟨j, drv, r, rfl⟩ := split_132 f
  simp [decVBase, -BitVec.reduceAppend]
  rintro form rfl
  exact ⟨hw _, he _⟩

theorem decVCmpBase_codes {k : VCmpBase → Instr} {maj} (hw : ∀ o, WellFormed (k o) = true)
    (he : ∀ o, encode (k o) = some (encVCmpBase maj o)) {a x b c f} :
    Codes id ((decVCmpBase ⟨a, x, b, c, f, maj⟩).map k) (enc32 maj f a x b c) := by
  obtain ⟨j, drv, r, rfl⟩ := split_132 f
  obtain ⟨comb, md, rfl⟩ := split_23 a
  simp [decVCmpBase, -BitVec.reduceAppend]
  rintro form rfl
  exact ⟨hw _, he _⟩

theorem decVLong_codes {k : VLong → Instr} {maj} (hw : ∀ o, WellFormed (k o) = o.wf)
    (he : ∀ o, encode (k o) = some (encVLong maj o)) {a x b c f db dc} :
    Codes id ((decVLong ⟨a, x, b, c, f, maj⟩ db dc).map k) (enc64 maj f a x b c (dc.code ++ db.code)) := by
  obtain ⟨j, z, r, rfl⟩ := split_132 f
  simp [decVLong, -BitVec.reduceAppend, Option.bind_eq_some_iff]
  rintro o rfl form rfl ho rfl
  exact ⟨(hw _).trans ho, he _⟩

theorem decVCmpLong_codes {k : VCmpLong → Instr} {maj} (hw : ∀ o, WellFormed (k o) = o.wf)
    (he : ∀ o, encode (k o) = some (encVCmpLong maj o)) {a x b c f db dc} :
    Codes id ((decVCmpLong ⟨a, x, b, c, f, maj⟩ db dc).map k) (enc64 maj f a x b c (dc.code ++ db.code)) := by
  obtain ⟨j, z, r, rfl⟩ := split_132 f
  obtain ⟨comb, md, rfl⟩ := split_23 a
  simp [decVCmpLong, -BitVec.reduceAppend, Option.bind_eq_some_iff]
  rintro o rfl form rfl ho rfl
  exact ⟨(hw _).trans ho, he _⟩

theorem decVFmaLong_codes {a x b c f db dc} :
    Codes id (decVFmaLong ⟨a, x, b, c, f, 0x2E⟩ db dc) (enc64 0x2E f a x b c (dc.code ++ db.code)) := by
  obtain ⟨j, z, r, rfl⟩ := split_132 f
  simp [decVFmaLong, -BitVec.reduceAppend, -BitVec.extractLsb'_toNat]
  rintro rfl
  split
  case' h_1 h | h_2 h | h_3 h => obtain rfl := eq_ofNat_of_toNat_eq h
  case' h_4 h0 h1 h2 =>
    simp [BitVec.toNat_eq_nat] at h0 h1 h2
    obtain rfl := eq_three h0 h1 h2
  all_goals exact codes_checked.2 fun _ => rfl

theorem decVUn_short_codes {a x b c j k} :
    Codes id (decVUn ⟨a, x, b, c, BitVec.ofBool j ++ k ++ 0#2, 0x2F⟩ (.short k))
      (enc32 0x2F (BitVec.ofBool j ++ k ++ 0#2) a x b c) := by
  unfold decVUn
  split
  case h_13 => exact codes_none
  all_goals
    rename_i h
    obtain rfl := eq_ofNat_of_toNat_eq h
    simp [-BitVec.reduceAppend]
    exact ⟨rfl, rfl⟩

theorem decVUn_long_codes {a x b c j d} (hd : d.wf = true) :
    Codes id (decVUn ⟨a, x, b, c, BitVec.ofBool j ++ 0#5, 0x2F⟩ (.long d))
      (enc64 0x2F (BitVec.ofBool j ++ 0#5) a x b c (d.code ++ 0#16)) := by
  unfold decVUn
  split
  case h_13 => exact codes_none
  all_goals
    rename_i h
    obtain rfl := eq_ofNat_of_toNat_eq h
    simp [-BitVec.reduceAppend]
    exact ⟨hd, rfl⟩

theorem decVArith_codes {a x b c f maj} : Codes id (decVArith ⟨a, x, b, c, f, maj⟩) (enc32 maj f a x b c) := by
  fun_cases decVArith
  any_goals exact codes_none
  case case15 hmaj hf | case16 hmaj hf | case17 hmaj hf =>
    obtain rfl := eq_ofNat_of_toNat_eq hmaj
    obtain ⟨j, drv, r, rfl⟩ := split_132 f
    simp [BitVec.toNat_eq_nat, -BitVec.reduceAppend, -BitVec.extractLsb'_toNat] at hf
    subst hf
    simp [decVFmaBase, -BitVec.reduceAppend]
    exact ⟨rfl, rfl⟩
  case case18 hmaj h0 h1 h2 =>
    obtain rfl := eq_ofNat_of_toNat_eq hmaj
    obtain ⟨j, drv, r, rfl⟩ := split_132 f
    simp [BitVec.toNat_eq_nat, -BitVec.reduceAppend, -BitVec.extractLsb'_toNat] at h0 h1 h2
    obtain rfl := eq_three h0 h1 h2
    simp [decVFmaBase, -BitVec.reduceAppend]
    exact ⟨rfl, rfl⟩
  case case19 hmaj hf =>
    obtain rfl := eq_ofNat_of_toNat_eq hmaj
    obtain ⟨j, k, r, rfl⟩ := split_132 f
    simp [-BitVec.reduceAppend] at hf
    subst hf
    simp [-BitVec.reduceAppend]
    exact decVUn_short_codes
  all_goals
    rename_i hmaj
    obtain rfl := eq_ofNat_of_toNat_eq hmaj
  case case21 | case22 | case23 | case24 => exact decVCmpBase_codes (fun _ => rfl) fun _ => rfl
  all_goals exact decVBase_codes (fun _ => rfl) fun _ => rfl

theorem decVArithLong_codes {a x b c f maj db dc} (hd : dc.wf = true) :
    Codes id (decVArithLong ⟨a, x, b, c, f, maj⟩ db dc) (enc64 maj f a x b c (dc.code ++ db.code)) := by
  fun_cases decVArithLong
  any_goals exact codes_none
  case case16 hmaj hf =>
    obtain rfl := eq_ofNat_of_toNat_eq hmaj
    obtain ⟨j, z, rfl⟩ := split_15 f
    simp [-BitVec.reduceAppend] at hf
    obtain ⟨rfl, rfl⟩ := hf
    exact decVUn_long_codes hd
  all_goals
    rename_i hmaj
    obtain rfl := eq_ofNat_of_toNat_eq hmaj
  case case15 => exact decVFmaLong_codes
  case case18 | case19 | case20 | case21 => exact decVCmpLong_codes (fun _ => rfl) fun _ => rfl
  all_goals exact decVLong_codes (fun _ => rfl) fun _ => rfl

theorem decMisc_codes {a x b c j op mods} (hw : droveOptWf (mods.map (·.2)) = true) :
    Codes id (decMisc ⟨a, x, b, c, BitVec.ofBool j ++ op, 0x34⟩ mods) (encOpt 0x34 j op a x b c mods) := by
  unfold decMisc
  simp [-BitVec.reduceAppend, -BitVec.extractLsb'_toNat]
  split
  case h_11 => exact codes_none
  all_goals
    rename_i hop
    obtain rfl := eq_ofNat_of_toNat_eq hop
  case h_1 => exact codes_checked.2 fun _ => rfl
  case h_5 | h_6 =>
    rcases mods with _ | ⟨db, dc⟩ <;> simp <;> intros <;> subst_vars <;> rfl
  case h_7 | h_10 =>
    rcases mods with _ | ⟨db, dc⟩ <;> simp <;> intros <;> subst_vars <;> exact ⟨rfl, rfl⟩
  all_goals
    rcases mods with _ | ⟨db, dc⟩ <;> simp <;> intros <;> subst_vars <;> exact ⟨hw, rfl⟩

theorem decMask_codes {a x b c j op long} :
    Codes Decoded.instr (decMask ⟨a, x, b, c, BitVec.ofBool j ++ op, 0x35⟩ long)
      (encOpt 0x35 j op a x b c (noMods long)) := by
  obtain ⟨za, ma, rfl⟩ := split_23 a
  obtain ⟨zb, mb, rfl⟩ := split_23 b
  obtain ⟨zc, mc, rfl⟩ := split_23 c
  unfold decMask
  simp [-BitVec.reduceAppend, -BitVec.extractLsb'_toNat]
  split
  case h_8 => exact codes_none
  all_goals
    rename_i hop
    obtain rfl := eq_ofNat_of_toNat_eq hop
    simp
    intros; subst_vars
    exact ⟨rfl, rfl⟩

theorem decCfg_codes {a x b c f} : Codes Decoded.instr (decCfg ⟨a, x, b, c, f, 0x36⟩) (enc32 0x36 f a x b c) := by
  fun_cases decCfg
  any_goals exact codes_none
  case' case1 | case2 =>
    obtain ⟨tz, g, e, rfl⟩ := split_122 c
    obtain ⟨z, mz, rfl⟩ := split_21 x
    obtain ⟨grp, rfl⟩ := exists_grp g
    obtain ⟨sew, rfl⟩ := exists_sew e
  case' case8 => obtain ⟨t, rfl⟩ := exists_tag x
  all_goals
    simp_all +zetaDelta [BitVec.toNat_eq_nat, -BitVec.reduceAppend, -BitVec.extractLsb'_toNat]
    intros; subst_vars
    exact ⟨rfl, rfl⟩

theorem decVCvt_codes {a x b c j op mods} (hw : droveOptWf (mods.map (·.2)) = true) :
    Codes Decoded.instr (decVCvt ⟨a, x, b, c, BitVec.ofBool j ++ op, 0x37⟩ mods) (encOpt 0x37 j op a x b c mods) := by
  obtain ⟨p, q, rfl⟩ := split_23 op
  unfold decVCvt
  simp [-BitVec.reduceAppend, -BitVec.extractLsb'_toNat]
  intro hdb
  obtain ⟨dc, rfl⟩ : ∃ dc, mods = onlyC dc := by
    rcases mods with _ | ⟨db, dc⟩
    · exact ⟨none, rfl⟩
    · exact ⟨some dc, by simpa [onlyC] using hdb⟩
  have hdc : (onlyC dc).map (·.2) = dc := by cases dc <;> rfl
  simp only [hdc] at hw ⊢
  split
  case h_1 h | h_2 h =>
    obtain rfl := eq_ofNat_of_toNat_eq h
    obtain ⟨s, t, rfl⟩ := split_23 b
    obtain ⟨sew, rfl⟩ := exists_sew s
    obtain ⟨tag, rfl⟩ := exists_tag t
    simp [-BitVec.reduceAppend]
    rintro rm rfl hwf
    exact ⟨hwf, rfl⟩
  case h_3 h =>
    obtain rfl := eq_ofNat_of_toNat_eq h
    simp [-BitVec.reduceAppend]
    rintro rfl
    split
    case h_4 => exact codes_none
    all_goals
      rename_i h
      obtain rfl := eq_ofNat_of_toNat_eq h
      exact codes_some.2 ⟨hw, rfl⟩
  case h_4 => exact codes_none

/-- The addressing is read from F[4] and C (R55). -/
theorem fields_of_decVAddr {d : Fields} {addr : VAddr} (h : decVAddr d = some addr) :
    addr.dBit = d.f.getLsbD 4 ∧ addr.cField = d.c := by
  revert h
  fun_cases decVAddr <;> rintro ⟨⟩ <;> simp_all [VAddr.dBit, VAddr.cField]

theorem decVMem_codes {a x b c f maj off} :
    Codes id (decVMem ⟨a, x, b, c, f, maj⟩ off) (encExt maj f a x b c off) := by
  obtain ⟨j, d, u, t, rfl⟩ := split_1113 f
  fun_cases decVMem
  any_goals exact codes_none
  case' case1 | case5 => obtain ⟨tag, rfl⟩ := exists_tag t
  all_goals
    simp_all +zetaDelta [BitVec.toNat_eq_nat, -BitVec.reduceAppend, -BitVec.extractLsb'_toNat]
    subst_vars
  case case1 | case2 =>
    intro addr haddr
    obtain ⟨hd, hc⟩ := fields_of_decVAddr haddr
    simp [-BitVec.reduceAppend] at hd hc
    subst hd hc
    cases off <;> exact ⟨rfl, rfl⟩
  all_goals cases off <;> exact ⟨rfl, rfl⟩

theorem decStream_codes {a x b c f off} :
    Codes id (decStream ⟨a, x, b, c, f, 0x3C⟩ off) (encExt 0x3C f a x b c off) := by
  obtain ⟨j, op, t, rfl⟩ := split_123 f
  obtain ⟨za, wa, rfl⟩ := split_23 a
  obtain ⟨zb, wb, rfl⟩ := split_23 b
  fun_cases decStream
  case' case1 => obtain ⟨tag, rfl⟩ := exists_tag t
  case' case4 h0 h1 h2 =>
    simp +zetaDelta [BitVec.toNat_eq_nat, -BitVec.reduceAppend, -BitVec.extractLsb'_toNat] at h0 h1 h2
    obtain rfl := eq_three h0 h1 h2
  all_goals
    simp_all +zetaDelta [BitVec.toNat_eq_nat, -BitVec.reduceAppend, -BitVec.extractLsb'_toNat]
    intros; subst_vars
    cases off <;> exact ⟨rfl, rfl⟩

theorem decMatA_codes {a x b c f} : Codes Decoded.instr (decMatA ⟨a, x, b, c, f, 0x3D⟩) (enc32 0x3D f a x b c) := by
  obtain ⟨z, t, rfl⟩ := split_32 a
  obtain ⟨y, n, rfl⟩ := split_21 x
  fun_cases decMatA
  any_goals exact codes_none
  all_goals
    simp +zetaDelta [BitVec.toNat_eq_nat, -BitVec.reduceAppend, -BitVec.extractLsb'_toNat] at *
    intros; subst_vars
    exact ⟨rfl, rfl⟩

theorem decMatBMaj_codes {a x b c f} :
    Codes Decoded.instr (decMatBMaj ⟨a, x, b, c, f, 0x3E⟩) (enc32 0x3E f a x b c) := by
  obtain ⟨p, relu, lo, rfl⟩ := split_213 f
  fun_cases decMatBMaj
  any_goals exact codes_none
  case' case1 | case4 =>
    obtain ⟨z, kb, ka, rfl⟩ := split_122 c
    obtain ⟨y, t, rfl⟩ := split_32 a
  case' case7 h0 h1 h2 =>
    simp +zetaDelta [BitVec.toNat_eq_nat, -BitVec.reduceAppend, -BitVec.extractLsb'_toNat] at h0 h1 h2
    obtain rfl := eq_three h0 h1 h2
  all_goals
    simp_all +zetaDelta [BitVec.toNat_eq_nat, -BitVec.reduceAppend, -BitVec.extractLsb'_toNat]
    intros; subst_vars
    exact ⟨rfl, rfl⟩

/-! ### The decoder as a whole -/

theorem decode16_codes {op r g} : Codes id (decode16 (op ++ r ++ g)) (enc16 op r g) := by
  simp [decode16, -BitVec.reduceAppend, -BitVec.extractLsb'_toNat]
  split
  case h_19 => exact codes_none
  all_goals
    rename_i hop
    obtain rfl := eq_ofNat_of_toNat_eq hop
  case h_1 =>
    simp
    rintro rfl rfl
    exact ⟨rfl, rfl⟩
  case h_14 | h_15 => exact codes_some.2 ⟨rfl, by simp [encode]⟩
  all_goals exact codes_some.2 ⟨rfl, rfl⟩

theorem decode32Plain_codes {a x b c f maj} :
    Codes id (decode32Plain ⟨a, x, b, c, f, maj⟩) (enc32 maj f a x b c) := by
  fun_cases decode32Plain
  case case36 => exact decVArith_codes
  all_goals
    rename_i hmaj
    obtain rfl := eq_ofNat_of_toNat_eq hmaj
  case case1 => exact decIntR_codes
  case case8 => exact decShiftI_codes
  case case9 | case10 | case21 => exact codes_some.2 ⟨rfl, congrArg some (encU_append ..)⟩
  case case11 | case12 =>
    simp
    rintro sz rfl
    exact ⟨rfl, congrArg some (encM_append ..)⟩
  case case13 => exact decMemX_codes
  case case14 => exact decFence_codes
  case case23 => exact decTask_codes
  case case24 => exact decMoot_codes
  case case25 => exact decEngine_codes
  case case26 => exact decFpR_codes
  case case27 => exact decFma_codes
  case case28 => exact decCvt_codes
  case case29 => exact decSystem_codes
  case case30 =>
    obtain ⟨j, op, rfl⟩ := split_15 f
    exact decMisc_codes (mods := none) rfl
  case case31 | case32 | case33 | case34 => exact decVMem_codes (off := none)
  case case35 => exact decStream_codes (off := none)
  all_goals exact codes_some.2 ⟨rfl, congrArg some (encImm_append ..)⟩

theorem decode32_codes {a x b c f maj} :
    Codes Decoded.instr (Encoding.base ⟨a, x, b, c, f, maj⟩) (enc32 maj f a x b c) := by
  fun_cases Encoding.base
  case case6 => exact codes_map.2 decode32Plain_codes
  all_goals
    rename_i hmaj
    obtain rfl := eq_ofNat_of_toNat_eq hmaj
  case case1 =>
    obtain ⟨j, op, rfl⟩ := split_15 f
    exact decMask_codes
  case case2 => exact decCfg_codes
  case case3 =>
    obtain ⟨j, op, rfl⟩ := split_15 f
    exact decVCvt_codes (mods := none) rfl
  case case4 => exact decMatA_codes
  case case5 => exact decMatBMaj_codes

theorem decode64Plain_codes {a x b c f maj ext} :
    Codes id (decode64Plain ⟨a, x, b, c, f, maj⟩ ext) (enc64 maj f a x b c ext) := by
  fun_cases decode64Plain
  any_goals exact codes_none
  case case26 =>
    refine codes_bind.2 fun p h => ?_
    obtain ⟨hw, rfl⟩ := eq_of_drovesOf h
    exact decVArithLong_codes hw
  case' case8 hmaj hz | case10 hmaj hz =>
    simp +zetaDelta at hz
    obtain ⟨rfl, rfl⟩ := hz
  all_goals
    rename_i hmaj
    obtain rfl := eq_ofNat_of_toNat_eq hmaj
  case case12 => exact decAtomic_codes
  case case20 =>
    obtain ⟨j, op, rfl⟩ := split_15 f
    refine codes_bind.2 fun p h => ?_
    obtain ⟨hw, rfl⟩ := eq_of_drovesOf h
    exact decMisc_codes (mods := some p) hw
  case case21 | case22 | case23 | case24 => exact decVMem_codes (off := some ext)
  case case25 => exact decStream_codes (off := some ext)
  all_goals
    simp +zetaDelta
    intros; subst_vars
    exact ⟨rfl, rfl⟩

theorem decode64_codes {a x b c f maj ext} :
    Codes Decoded.instr (Encoding.long ⟨a, x, b, c, f, maj⟩ ext) (enc64 maj f a x b c ext) := by
  fun_cases Encoding.long
  case case3 => exact codes_map.2 decode64Plain_codes
  all_goals
    rename_i hmaj
    obtain rfl := eq_ofNat_of_toNat_eq hmaj
    obtain ⟨j, op, rfl⟩ := split_15 f
    refine codes_bind.2 fun ⟨db, dc⟩ h => ?_
    obtain ⟨hw, rfl⟩ := eq_of_drovesOf h
  case case1 => 
    simp
    rintro rfl rfl
    exact decMask_codes (long := true)
  case case2 => exact decVCvt_codes (mods := some (db, dc)) hw

theorem eq_of_lengthOf {h : BitVec 16} {n : Nat} (hn : lengthOf h = n) :
    n = 2 ∨ n = 4 ∧ h.extractLsb' 14 2 = 2 ∨ n = 8 ∧ h.extractLsb' 14 2 = 3 := by
  revert hn
  fun_cases lengthOf
  case case3 h2 =>
    rintro rfl
    exact .inr (.inl ⟨rfl, eq_ofNat_of_toNat_eq h2⟩)
  case case4 h0 h1 h2 =>
    rintro rfl
    simp only [BitVec.toNat_eq_nat] at h0 h1 h2
    exact .inr (.inr ⟨rfl, eq_three (by simpa using h0) (by simpa using h1) (by simpa using h2)⟩)
  all_goals
    rintro rfl
    exact .inl rfl

theorem exists_setWidth {n : Nat} {w : Word} (h : w.toNat < 2 ^ n) : ∃ v : BitVec n, w = v.setWidth 64 :=
  ⟨w.setWidth n, BitVec.eq_of_toNat_eq (by
    rw [BitVec.toNat_setWidth, BitVec.toNat_setWidth, Nat.mod_eq_of_lt h, Nat.mod_eq_of_lt w.isLt])⟩

theorem lenBits_word32 (c b : BitVec 5) (f : BitVec 6) (ln : BitVec 2) (maj : BitVec 6) (a : BitVec 5) (x : BitVec 3) :
    (word32 c b f ln maj a x).extractLsb' 14 2 = ln := by
  unfold word32; ext i hi; grind

theorem lenBits_of_low32 {w : Word} {v : BitVec 32} (h : w.extractLsb' 0 32 = v) :
    (w.extractLsb' 0 16).extractLsb' 14 2 = v.extractLsb' 14 2 := by
  subst h; ext i hi; grind

/-- Bits that decode at the length that they say are the encoding of what they decode to (R47, R84). -/
theorem decodeRaw_codes {n : Nat} {w : Word} (hlen : lengthOf (w.extractLsb' 0 16) = n) (hlt : w.toNat < 2 ^ (8 * n)) :
    Codes Decoded.instr (decodeRaw n w) ⟨n, w⟩ := by
  rcases eq_of_lengthOf hlen with rfl | ⟨rfl, hln⟩ | ⟨rfl, hln⟩
  · obtain ⟨v, rfl⟩ := exists_setWidth hlt
    obtain ⟨op, r, g, rfl⟩ := split_655 v
    have hv : ((op ++ r ++ g : BitVec 16).setWidth 64).extractLsb' 0 16 = op ++ r ++ g := by ext i hi; grind
    rw [decodeRaw, hv]
    exact codes_map.2 decode16_codes
  · obtain ⟨v, rfl⟩ := exists_setWidth hlt
    obtain ⟨c, b, f, ln, maj, a, x, rfl⟩ := exists_word32 v
    have hv : ((word32 c b f ln maj a x).setWidth 64).extractLsb' 0 32 = word32 c b f ln maj a x := by ext i hi; grind
    rw [lenBits_of_low32 hv, lenBits_word32] at hln
    subst hln
    show Codes _ (Encoding.base (fieldsOf _)) _
    rw [hv, fieldsOf_word32]
    exact decode32_codes
  · obtain ⟨ext, v, rfl⟩ := exists_append (n := 32) (m := 32) w
    obtain ⟨c, b, f, ln, maj, a, x, rfl⟩ := exists_word32 v
    have hlo : (ext ++ word32 c b f ln maj a x : BitVec 64).extractLsb' 0 32 = word32 c b f ln maj a x := by
      ext i hi; grind
    have hhi : (ext ++ word32 c b f ln maj a x : BitVec 64).extractLsb' 32 32 = ext := by ext i hi; grind
    rw [lenBits_of_low32 hlo, lenBits_word32] at hln
    subst hln
    show Codes _ (Encoding.long (fieldsOf (BitVec.extractLsb' 0 32 _)) (BitVec.extractLsb' 32 32 _)) _
    rw [hlo, hhi, fieldsOf_word32]
    exact decode64_codes

/-- Settles O55: what stands at the front decodes by its own length bits, so `decodeRaw_codes` gives its bits. -/
theorem encodeDecode : Obligations.EncodeDecode := by
  intro bs i rest h
  obtain ⟨front, rfl, hlen, hbits⟩ := decode_eq_ok_iff.1 h
  obtain ⟨d, hraw, rfl⟩ := Option.map_eq_some_iff.1 hbits
  have hnat : (wordOf front).toNat = leNat front := wordOf_toNat (hlen ▸ lengthOf_le_eight _)
  have hlt : (wordOf front).toNat < 2 ^ (8 * front.length) := by
    rw [hnat, Nat.pow_mul]
    exact leNat_lt front
  obtain ⟨hwf, he⟩ := decodeRaw_codes hlen hlt d hraw
  refine ⟨hwf, ?_⟩
  rw [encodeBytes, he]
  show leBytes front.length (wordOf front).toNat ++ rest = front ++ rest
  rw [hnat, leBytes_leNat]

end Sys2Proof.Proofs

namespace Sys2Proof.Proofs

open Machine Say

/-! ### What the integer operations compute (R99, R102 to R104) -/

section Values

theorem shamt_eq (y : Word) : shamt y = y.toNat % 64 := BitVec.extractLsb'_toNat 0 6 y

/-- The field WM1 of a control word (R104). -/
theorem toNat_extractLsb'_eight_six (y : Word) : (y.extractLsb' 8 6).toNat = y.toNat / 256 % 64 := by
  rw [BitVec.extractLsb'_toNat, Nat.shiftRight_eq_div_pow]

theorem rolW_eq_rotateLeft (x : Word) {n : Nat} (h : n < 64) : rolW x n = x.rotateLeft n := by
  rw [BitVec.rotateLeft, Nat.mod_eq_of_lt h]; rfl

theorem rorW_eq_rotateRight (x : Word) {n : Nat} (h : n < 64) : rorW x n = x.rotateRight n := by
  rw [BitVec.rotateRight, Nat.mod_eq_of_lt h]; rfl

theorem rolW_shamt (x y : Word) : rolW x (shamt y) = x.rotateLeft (y.toNat % 64) := by
  rw [shamt_eq, rolW_eq_rotateLeft x (Nat.mod_lt _ (by decide))]

theorem rorW_shamt (x y : Word) : rorW x (shamt y) = x.rotateRight (y.toNat % 64) := by
  rw [shamt_eq, rorW_eq_rotateRight x (Nat.mod_lt _ (by decide))]

/-- Two tests choose alike when they differ at most where the choices are equal. -/
theorem ite_eq_ite_of {α : Type} {p q : Prop} [Decidable p] [Decidable q] {x y : α} (hpq : p → q)
    (heq : q → ¬ p → x = y) : (if p then x else y) = if q then x else y := by
  by_cases hp : p
  · rw [if_pos hp, if_pos (hpq hp)]
  · by_cases hq : q
    · rw [if_neg hp, if_pos hq, heq hq hp]
    · rw [if_neg hp, if_neg hq]

theorem smin_eq_ite_le (x y : Word) : (if s64 x < s64 y then x else y) = if x.toInt ≤ y.toInt then x else y :=
  ite_eq_ite_of Int.le_of_lt fun hle hlt => BitVec.eq_of_toInt_eq (Int.le_antisymm hle (Int.not_lt.1 hlt))

theorem umin_eq_ite_le (x y : Word) : (if u64 x < u64 y then x else y) = if x.toNat ≤ y.toNat then x else y :=
  ite_eq_ite_of Nat.le_of_lt fun hle hlt => BitVec.eq_of_toNat_eq (Nat.le_antisymm hle (Nat.not_lt.1 hlt))

theorem smax_eq_ite_ge (x y : Word) : (if s64 x < s64 y then y else x) = if y.toInt ≤ x.toInt then x else y := by
  simp only [← Int.not_lt, ite_not]

theorem umax_eq_ite_ge (x y : Word) : (if u64 x < u64 y then y else x) = if y.toNat ≤ x.toNat then x else y := by
  simp only [← Nat.not_lt, ite_not]

theorem mulh_eq_extractLsb' (x y : Word) :
    BitVec.ofInt 64 (s64 x * s64 y / 2 ^ 64) = (x.signExtend 128 * y.signExtend 128).extractLsb' 64 64 := by
  have hprod : x.signExtend 128 * y.signExtend 128 = BitVec.ofInt 128 (s64 x * s64 y) := (BitVec.ofInt_mul _ _).symm
  rw [hprod]
  generalize s64 x * s64 y = p
  apply BitVec.eq_of_toNat_eq
  simp only [BitVec.toNat_ofInt, BitVec.extractLsb'_toNat, Nat.shiftRight_eq_div_pow]
  omega

theorem mulhu_eq_extractLsb' (x y : Word) :
    BitVec.ofNat 64 (u64 x * u64 y / 2 ^ 64) = (x.zeroExtend 128 * y.zeroExtend 128).extractLsb' 64 64 := by
  have hlt : x.toNat * y.toNat < 2 ^ 64 * 2 ^ 64 := Nat.mul_lt_mul'' x.isLt y.isLt
  have hprod : (x.zeroExtend 128 * y.zeroExtend 128).toNat = x.toNat * y.toNat := by
    rw [BitVec.toNat_mul, BitVec.toNat_setWidth_of_le (by decide), BitVec.toNat_setWidth_of_le (by decide),
      Nat.mod_eq_of_lt (by omega)]
  apply BitVec.eq_of_toNat_eq
  rw [BitVec.toNat_ofNat, BitVec.extractLsb'_toNat, hprod, Nat.shiftRight_eq_div_pow]

theorem divW_eq (x y : Word) : divW x y =
    if y = 0 then (if 0 ≤ x.toInt then 0x7FFFFFFFFFFFFFFF else 0x8000000000000000) else x.sdiv y := by
  have hdiv : BitVec.ofInt 64 (x.toInt.tdiv y.toInt) = x.sdiv y :=
    BitVec.eq_of_toInt_eq (by rw [BitVec.toInt_ofInt, BitVec.toInt_sdiv])
  simp only [divW, hdiv]

theorem divuW_eq (x y : Word) : divuW x y = if y = 0 then 0xFFFFFFFFFFFFFFFF else x / y := by
  rw [divuW, BitVec.udiv_def]

theorem remW_eq (x y : Word) : remW x y = if y = 0 then x else x.srem y := by
  rw [remW, ← BitVec.toInt_srem, BitVec.ofInt_toInt]

theorem remuW_eq_umod (x y : Word) : remuW x y = x % y := by
  by_cases h : y = 0
  · rw [remuW, if_pos h, h]; exact BitVec.umod_zero.symm
  · rw [remuW, if_neg h, BitVec.umod_def]

theorem shlW_one (x : Word) : shlW x 1 = 2 * x := by unfold shlW; bv_omega
theorem shlW_two (x : Word) : shlW x 2 = 4 * x := by unfold shlW; bv_omega
theorem shlW_three (x : Word) : shlW x 3 = 8 * x := by unfold shlW; bv_omega

/-- Sign extension of a field of `w + 1` bits subtracts the weight above them when the top bit is set. -/
theorem signExt_ofNat {w f : Nat} (hw : w < 64) (hf : f < 2 ^ (w + 1)) : signExt (w + 1) (BitVec.ofNat 64 f) =
    if 2 ^ w ≤ f then BitVec.ofInt 64 ((f : Int) - 2 ^ (w + 1)) else BitVec.ofNat 64 f := by
  have hsigned : ((BitVec.ofNat 64 f).setWidth (w + 1)).toInt = if 2 ^ w ≤ f then (f : Int) - 2 ^ (w + 1) else f := by
    rw [BitVec.setWidth_ofNat_of_le (by omega), BitVec.toInt_eq_toNat_cond, BitVec.toNat_ofNat, Nat.mod_eq_of_lt hf]
    have htop : 2 ^ (w + 1) = 2 ^ w * 2 := Nat.pow_succ ..
    push_cast
    split <;> split <;> omega
  rw [signExt, BitVec.signExtend, hsigned]
  split
  · rfl
  · exact BitVec.ofInt_natCast 64 f

theorem bfxW_eq (x y : Word) : bfxW x y =
    (let pos := y.toNat % 64
     let wid := y.toNat / 256 % 64 + 1
     let f := x.toNat / 2 ^ pos % 2 ^ wid
     if y.getLsbD 16 ∧ 2 ^ (wid - 1) ≤ f then BitVec.ofInt 64 ((f : Int) - 2 ^ wid) else BitVec.ofNat 64 f) := by
  have hwid : y.toNat / 256 % 64 < 64 := Nat.mod_lt _ (by decide)
  have hfield := Nat.mod_lt (x.toNat / 2 ^ (y.toNat % 64)) (Nat.two_pow_pos (y.toNat / 256 % 64 + 1))
  rw [bfxW, ← shamt, shamt_eq, toNat_extractLsb'_eight_six]
  simp only [signExt_ofNat hwid hfield, Nat.add_sub_cancel]
  by_cases hsgn : y.getLsbD 16 = true
  · simp only [hsgn, if_true, true_and]
  · simp only [hsgn, Bool.false_eq_true, if_false, false_and]

/-- BFI takes the bits under its mask from the source, and the others from the destination (R104). -/
theorem getLsbD_bfiW (x y d : Word) {k : Nat} (hk : k < 64) :
    (bfiW x y d).getLsbD k =
      if y.toNat % 64 ≤ k ∧ k < y.toNat % 64 + (y.toNat / 256 % 64 + 1) then x.getLsbD (k - y.toNat % 64)
      else d.getLsbD k := by
  rw [bfiW, ← shamt, shamt_eq, toNat_extractLsb'_eight_six]
  generalize y.toNat % 64 = pos
  generalize y.toNat / 256 % 64 + 1 = wid
  have hmask : (BitVec.ofNat 64 ((2 ^ wid - 1) * 2 ^ pos)).getLsbD k = decide (pos ≤ k ∧ k < pos + wid) := by
    rw [BitVec.getLsbD_ofNat, Nat.testBit_mul_two_pow, Nat.testBit_two_pow_sub_one]
    grind
  rw [BitVec.getLsbD_or, BitVec.getLsbD_and, BitVec.getLsbD_and, BitVec.getLsbD_not, hmask, shlW,
    BitVec.getLsbD_shiftLeft]
  split
  · next h => simp [h, hk]
  · next h => simp [h, hk]

theorem clz64_spec (x : Word) :
    clz64 x ≤ 64 ∧ x.toNat < 2 ^ (64 - clz64 x) ∧ (clz64 x < 64 → 2 ^ (63 - clz64 x) ≤ x.toNat) := by
  unfold clz64
  split
  · next h => simp [h]
  · next h =>
    have h0 : x.toNat ≠ 0 := fun e => h (BitVec.eq_of_toNat_eq e)
    have hlog : Nat.log2 x.toNat < 64 := (Nat.log2_lt h0).2 x.isLt
    refine ⟨by omega, ?_, fun _ => ?_⟩
    · rw [← Nat.log2_lt h0]; omega
    · rw [← Nat.le_log2 h0]; omega

theorem trailingZeros_spec (n x : Nat) :
    trailingZeros n x ≤ n ∧ (∀ k, k < trailingZeros n x → x.testBit k = false) ∧
      (trailingZeros n x < n → x.testBit (trailingZeros n x) = true) := by
  induction n generalizing x with
  | zero => simp [trailingZeros]
  | succ n ih =>
    obtain ⟨hle, hlow, htop⟩ := ih (x / 2)
    rw [trailingZeros]
    split
    · next hodd => simp [hodd]
    · next heven =>
      rw [Nat.add_comm 1]
      refine ⟨by omega, ?_, fun hlt => ?_⟩
      · rintro (_ | k) hk
        · simpa using heven
        · rw [Nat.testBit_succ]; exact hlow k (by omega)
      · rw [Nat.testBit_succ]; exact htop (by omega)

theorem onesIn_eq_length (n x : Nat) : onesIn n x = ((List.range n).filter fun k => x.testBit k).length := by
  induction n generalizing x with
  | zero => rfl
  | succ n ih =>
    have hshift : ((fun k => x.testBit k) ∘ Nat.succ) = fun k => (x / 2).testBit k :=
      funext fun k => Nat.testBit_succ x k
    rw [onesIn, ih, List.range_succ_eq_map, List.filter_cons, List.filter_map, hshift, Nat.testBit_zero]
    rcases Nat.mod_two_eq_zero_or_one x with h | h <;> simp [h, Nat.add_comm]

theorem extractLsb'_append_byte {n j : Nat} (u : BitVec n) (v : Byte) :
    (u ++ v).extractLsb' (j + 8) 8 = u.extractLsb' j 8 := by
  ext i hi; grind

theorem extractLsb'_zero_append_byte {n : Nat} (u : BitVec n) (v : Byte) : (u ++ v).extractLsb' 0 8 = v := by
  ext i hi; grind

theorem extractLsb'_byteSwap (x : Word) {k : Nat} (hk : k < 8) :
    (byteSwap x).extractLsb' (8 * k) 8 = x.extractLsb' (56 - 8 * k) 8 := by
  rw [byteSwap]
  have hcases : k = 0 ∨ k = 1 ∨ k = 2 ∨ k = 3 ∨ k = 4 ∨ k = 5 ∨ k = 6 ∨ k = 7 := by omega
  rcases hcases with rfl | rfl | rfl | rfl | rfl | rfl | rfl | rfl <;>
    simp only [Nat.reduceMul, Nat.reduceSub, extractLsb'_append_byte, extractLsb'_zero_append_byte,
      BitVec.extractLsb'_eq_self]

theorem zeroExt_eq_and (w : Nat) (x : Word) : zeroExt w x = x &&& BitVec.ofNat 64 (2 ^ w - 1) := by
  apply BitVec.eq_of_getLsbD_eq
  intro i hi
  simp only [zeroExt, BitVec.getLsbD_and, BitVec.getLsbD_ofNat, Nat.testBit_two_pow_sub_one, BitVec.getLsbD_setWidth,
    hi, decide_true, Bool.true_and, Bool.and_comm]

theorem sltW_signExtend {n : Nat} (hn : n ≤ 64) (x : Word) (i : BitVec n) :
    sltW x (i.signExtend 64) = if x.toInt < i.toInt then 1 else 0 := by
  rw [sltW, s64, s64, BitVec.toInt_signExtend_of_le hn]

/-- The U value has the 19 bits of its fields above 13 zeros (R53). -/
theorem immU_eq (i : BitVec 19) : immU i = (i.setWidth 32 <<< 13).signExtend 64 := by
  have hbits : (i ++ 0#13 : BitVec 32) = i.setWidth 32 <<< 13 := by ext k hk; grind
  rw [immU, hbits]

end Values

/-! ### When an instruction is ready, it gives its value (R92 to R96) -/

section Gives

variable {s : State} {i : Instr} {a b c : GReg} {v : Word} {len : Nat}

theorem gives_op0 (h : Ready s [] a) (hi : exec i s = s.op0 len a v) : Gives s i [] a v (BitVec.ofNat 64 len) :=
  gives_finish (by rw [hi, State.op0, h.none])

theorem gives_op1 {f : Word → Word} (h : Ready s [b] a) (hi : exec i s = s.op1 len a b f)
    (hv : f (s.hart.src [] b) = v) : Gives s i [b] a v (BitVec.ofNat 64 len) :=
  gives_finish (by rw [hi, State.op1, h.none, hv])

theorem gives_op2 {f : Word → Word → Word} (h : Ready s [b, c] a) (hi : exec i s = s.op2 len a b c f)
    (hv : f (s.hart.src [] b) (s.hart.src [b] c) = v) : Gives s i [b, c] a v (BitVec.ofNat 64 len) :=
  gives_finish (by rw [hi, State.op2, h.none, hv])

theorem gives_op3 {f : Word → Word → Word → Word} (h : Ready s [b, c, a] a) (hi : exec i s = s.op3 len a b c f)
    (hv : f (s.hart.src [] b) (s.hart.src [b] c) (s.hart.src [b, c] a) = v) :
    Gives s i [b, c, a] a v (BitVec.ofNat 64 len) :=
  gives_finish (by rw [hi, State.op3, h.none, hv])

end Gives

/-- Settles O1: each instruction is ready, so it gives the value of its operation, which the lemmas above put in the
terms of the statement. -/
theorem integerTwoSources : Obligations.IntegerTwoSources := by
  intro s a b c h
  exact ⟨gives_op2 h (exec_add ..) rfl, gives_op2 h (exec_sub ..) rfl, gives_op2 h (exec_and ..) rfl,
    gives_op2 h (exec_or ..) rfl, gives_op2 h (exec_xor ..) rfl, gives_op2 h (exec_andn ..) rfl,
    gives_op2 h (exec_orn ..) rfl, gives_op2 h (exec_xnor ..) rfl,
    gives_op2 h (exec_shl ..) (congrArg (shlW _) (shamt_eq _)),
    gives_op2 h (exec_shr ..) (congrArg (shrW _) (shamt_eq _)),
    gives_op2 h (exec_sra ..) (congrArg (sraW _) (shamt_eq _)),
    gives_op2 h (exec_rol ..) (rolW_shamt ..), gives_op2 h (exec_ror ..) (rorW_shamt ..),
    gives_op2 h (exec_slt ..) rfl, gives_op2 h (exec_sltu ..) rfl,
    gives_op2 h (exec_min ..) (smin_eq_ite_le ..), gives_op2 h (exec_max ..) (smax_eq_ite_ge ..),
    gives_op2 h (exec_minu ..) (umin_eq_ite_le ..), gives_op2 h (exec_maxu ..) (umax_eq_ite_ge ..),
    gives_op2 h (exec_mul ..) rfl, gives_op2 h (exec_mulh ..) (mulh_eq_extractLsb' ..),
    gives_op2 h (exec_mulhu ..) (mulhu_eq_extractLsb' ..),
    gives_op2 h (exec_div ..) (divW_eq ..), gives_op2 h (exec_divu ..) (divuW_eq ..),
    gives_op2 h (exec_rem ..) (remW_eq ..), gives_op2 h (exec_remu ..) (remuW_eq_umod ..),
    gives_op2 h (exec_addsc1 ..) (congrArg (· + _) (shlW_one _)),
    gives_op2 h (exec_addsc2 ..) (congrArg (· + _) (shlW_two _)),
    gives_op2 h (exec_addsc3 ..) (congrArg (· + _) (shlW_three _)),
    gives_op2 h (exec_bfx ..) (bfxW_eq ..)⟩

/-- Settles O2: as O1; the counts of CLZ and CTZ and the bytes of BSWAP are those that their lemmas describe. -/
theorem integerOneSource : Obligations.IntegerOneSource := by
  intro s a b h
  exact ⟨⟨_, gives_op1 h (exec_clz ..) rfl, clz64_spec _⟩, ⟨_, gives_op1 h (exec_ctz ..) rfl, trailingZeros_spec 64 _⟩,
    gives_op1 h (exec_popc ..) (congrArg (BitVec.ofNat 64) (onesIn_eq_length 64 _)),
    ⟨_, gives_op1 h (exec_bswap ..) rfl, fun _ => extractLsb'_byteSwap _⟩,
    gives_op1 h (exec_sext ..) rfl, gives_op1 h (exec_sext ..) rfl, gives_op1 h (exec_sext ..) rfl,
    gives_op1 h (exec_zext ..) (zeroExt_eq_and 8 _), gives_op1 h (exec_zext ..) (zeroExt_eq_and 16 _),
    gives_op1 h (exec_zext ..) (zeroExt_eq_and 32 _),
    fun i => ⟨gives_op1 h (exec_addi ..) rfl, gives_op1 h (exec_andi ..) rfl, gives_op1 h (exec_ori ..) rfl,
      gives_op1 h (exec_xori ..) rfl, gives_op1 h (exec_slti ..) (sltW_signExtend (by decide) _ i),
      gives_op1 h (exec_sltiu ..) rfl⟩,
    fun i => ⟨gives_op1 h (exec_addiL ..) rfl, gives_op1 h (exec_andiL ..) rfl, gives_op1 h (exec_oriL ..) rfl,
      gives_op1 h (exec_xoriL ..) rfl, gives_op1 h (exec_sltiL ..) (sltW_signExtend (by decide) _ i),
      gives_op1 h (exec_sltiuL ..) rfl⟩,
    fun sh => ⟨gives_op1 h (exec_shli ..) rfl, gives_op1 h (exec_shri ..) rfl, gives_op1 h (exec_srai ..) rfl,
      gives_op1 h (exec_rori ..) (rorW_eq_rotateRight _ sh.isLt)⟩⟩

/-- Settles O3: SELECT and BFI read gA among their sources before `finish` writes it; a compact form is the operation
of its base form on the register of LDS. -/
theorem integerThreeSourcesConstantsAndCompactForms : Obligations.IntegerThreeSourcesConstantsAndCompactForms := by
  refine ⟨fun s a b c h => ?_, fun s a h => ?_, fun s r g => ?_⟩
  · exact ⟨gives_op3 h (exec_select ..) (ite_not ..), _, gives_op3 h (exec_bfi ..) rfl, fun _ hk => getLsbD_bfiW _ _ _ hk⟩
  · exact ⟨fun i => ⟨immU_eq i ▸ gives_op0 h (exec_ldhi ..), immU_eq i ▸ gives_op0 h (exec_addpc ..)⟩,
      fun i => gives_op0 h (exec_laddpc ..)⟩
  · refine ⟨fun h => gives_op1 h (exec_cmv ..) rfl, fun h i => ?_, fun h => ?_, ?_⟩
    · exact ⟨gives_op1 h (exec_caddi ..) rfl, gives_op1 h (exec_cshli ..) rfl, gives_op1 h (exec_cshri ..) rfl,
        gives_op1 h (exec_csrai ..) rfl⟩
    · exact ⟨gives_op2 h (exec_cadd ..) rfl, gives_op2 h (exec_csub ..) rfl, gives_op2 h (exec_cand ..) rfl,
        gives_op2 h (exec_cor ..) rfl, gives_op2 h (exec_cxor ..) rfl⟩
    · exact gives_finish (congrArg Host.Outcome.next (finishNone_eq s [] 2 .plain))

/-! ### Words of mq (R93, R94, R403) -/

section Words

variable {s : State} {i : Instr} {a b c : GReg} {m : OpenMsg} {srcs : List GReg} {dst : GReg}

theorem alGet_alSet_same {κ α : Type} [DecidableEq κ] (d : α) (k : κ) (x : α) (l : List (κ × α)) :
    alGet d k (alSet k x l) = x := by
  induction l with
  | nil => simp [alSet, alGet]
  | cons e l ih => by_cases he : e.1 = k <;> simp [alSet, alGet, he, ih]

theorem core_setCore_same (s : State) (c : CoreId) (x : Core) : (s.setCore c x).core c = x := alGet_alSet_same ..

theorem setWord_eq_set (ws : List (Option Word)) (p : Nat) (v : Word) : setWord ws p v = ws.set p (some v) := by
  induction ws generalizing p with
  | nil => rfl
  | cons w ws ih => cases p <;> simp [setWord, ih]

/-- A push fills the position that is next. -/
theorem push_eq_fillWord (ho : s.hart.open' = some m) (v : Word) : s.push v =
    ({ s with hart := { s.hart with open' := some { m with taken := m.taken + 1 } } } : State).fillWord m.taken v := by
  simp only [State.push, State.takePos, ho]

/-- A push that fills the last position: the message stands whole at the end of the core's departure buffer (R403). -/
theorem push_of_last (ho : s.hart.open' = some m) {v : Word} (hall : ∀ w ∈ m.words.set m.taken (some v), w ≠ none) :
    (s.push v).hart.open' = none ∧
      ((s.push v).core s.here.core).depart = (s.core s.here.core).depart ++
        [{ dest := m.dest, hart := m.hart, words := (m.words.set m.taken (some v)).filterMap id, sender := s.hid,
           slot := none, reeve := false }] := by
  have hfull : (m.words.set m.taken (some v)).all Option.isSome = true := by
    simpa [Option.isSome_iff_ne_none] using hall
  rw [push_eq_fillWord ho]
  simp only [State.fillWord, setWord_eq_set, hfull, if_true]
  exact ⟨trivial, congrArg Core.depart (core_setCore_same ..)⟩

/-- A push that leaves a position unfilled moves to the next one, and nothing departs. -/
theorem push_of_not_last (ho : s.hart.open' = some m) {v : Word}
    (hall : ¬ ∀ w ∈ m.words.set m.taken (some v), w ≠ none) :
    (s.push v).hart.open' = some { m with words := m.words.set m.taken (some v), taken := m.taken + 1 } ∧
      (s.push v).cores = s.cores := by
  have hfull : ¬ (m.words.set m.taken (some v)).all Option.isSome = true := by
    simpa [Option.isSome_iff_ne_none] using hall
  rw [push_eq_fillWord ho]
  simp only [State.fillWord, setWord_eq_set, hfull, Bool.false_eq_true, if_false]
  exact ⟨trivial, trivial⟩

theorem blocked_of_words_short (howed : ∀ r, s.hart.owed r = false) (hw : s.hart.words.length < mqCount srcs) :
    s.blocked srcs dst = some s.stall := by
  have hnone : (dst :: srcs).any s.hart.owed = false := by simp [howed]
  simp only [State.blocked, hnone, hw, Bool.false_eq_true, if_false, if_true]

/-- The instruction waits, and has changed no register, word, message or count (R93). -/
def Waits (s : State) (i : Instr) : Prop :=
  ∃ t, exec i s = .next t ∧ t.hart.wait = .parked ∧ t.hart.pc = s.hart.pc ∧ t.hart.g = s.hart.g ∧
    t.hart.words = s.hart.words ∧ t.hart.open' = s.hart.open' ∧ t.hart.instret = s.hart.instret ∧ t.cores = s.cores

theorem waits_of_stall (hi : exec i s = .next s.stall) : Waits s i :=
  ⟨_, hi, rfl, rfl, rfl, rfl, rfl, rfl, rfl⟩

theorem waits_op2 {len : Nat} {f : Word → Word → Word} (hi : exec i s = s.op2 len a b c f)
    (howed : ∀ r, s.hart.owed r = false) (hw : s.hart.words.length < mqCount [b, c]) : Waits s i :=
  waits_of_stall (by rw [hi, State.op2, blocked_of_words_short howed hw])

theorem waits_op3 {len : Nat} {f : Word → Word → Word → Word} (hi : exec i s = s.op3 len a b c f)
    (howed : ∀ r, s.hart.owed r = false) (hw : s.hart.words.length < mqCount [b, c, a]) : Waits s i :=
  waits_of_stall (by rw [hi, State.op3, blocked_of_words_short howed hw])

theorem gives_sub_mq {w0 w1 : Word} {rest : List Word} (hw : s.hart.words = w0 :: w1 :: rest)
    (howed : ∀ r, s.hart.owed r = false) (ha : a ≠ 31) : Gives s (.sub a 31 31) [31, 31] a (w0 - w1) 4 := by
  have hready : Ready s [31, 31] a := ⟨fun r _ => howed r, by simp [mqCount, hw], fun h => absurd h ha⟩
  exact gives_op2 hready (exec_sub ..) (by simp [Hart.src, mqCount, hw])

/-- An instruction whose three sources and destination are mq takes the words in the order B, C, A, and then pushes its
result. -/
theorem op3_mq {len : Nat} {f : Word → Word → Word → Word} {w0 w1 w2 : Word} {rest : List Word}
    (hi : exec i s = s.op3 len 31 31 31 f) (hw : s.hart.words = w0 :: w1 :: w2 :: rest)
    (howed : ∀ r, s.hart.owed r = false) (ho : s.hart.open' = some m) (ht : m.taken < m.words.length)
    (hd : s.departUsed s.here.core < 64) :
    ∃ t, exec i s = .next t ∧ t.hart.words = rest ∧ t.hart.open' = (s.push (f w0 w1 w2)).hart.open' ∧
      t.cores = (s.push (f w0 w1 w2)).cores := by
  have hready : Ready s [31, 31, 31] 31 := ⟨fun r _ => howed r, by simp [mqCount, hw], fun _ => ⟨m, ho, ht, hd⟩⟩
  obtain ⟨t, hnext, -, -, -, hwords, ⟨hopen, hcores⟩, -⟩ :=
    gives_op3 (v := f w0 w1 w2) hready hi (by simp [Hart.src, mqCount, hw])
  exact ⟨t, hnext, by rw [hwords, hw]; rfl, hopen, hcores⟩

end Words

/-- Settles O4: ready instructions pop through `Retired`, an instruction short of words stalls, and a push is
`fillWord` of the next position, which sends the message when that was the last one to fill. -/
theorem messageWords : Obligations.MessageWords := by
  refine ⟨fun s a w0 w1 rest hw howed ha => ?_, fun s w0 w1 w2 rest m hw howed ho ht hd => ?_, fun s a b c howed => ?_,
    fun s v m ho _ => ?_⟩
  · obtain ⟨t, hnext, -, hread, -, hwords, -⟩ := gives_sub_mq hw howed ha
    refine ⟨t, hnext, by rw [hwords, hw]; rfl, fun h0 => ?_⟩
    rw [hread a ha, if_pos ⟨rfl, h0⟩]
  · have hselect := op3_mq (exec_select ..) hw howed ho ht hd
    have hbfi := op3_mq (exec_bfi ..) hw howed ho ht hd
    exact ⟨ite_not (w2 = 0) w0 w1 ▸ hselect, _, hbfi, fun _ hk => getLsbD_bfiW _ _ _ hk⟩
  · exact ⟨fun hw => ⟨waits_op2 (exec_add ..) howed hw, waits_op2 (exec_sub ..) howed hw⟩,
      fun hw => ⟨waits_op3 (exec_select ..) howed hw, waits_op3 (exec_bfi ..) howed hw⟩⟩
  · dsimp only
    split
    · next hall => exact push_of_last ho hall
    · next hall => exact push_of_not_last ho hall

end Sys2Proof.Proofs

namespace Sys2Proof.Proofs

open Machine Say

/-! ### Harts at places, and the trap that a reply ends in (R128, R213) -/

section Places

variable {s : State} {p : Place} {x : Hart}

theorem hartAt_setHart_same (hx : x.wait ≠ .vacant) : (s.setHart p x).hartAt p = x := by
  by_cases hp : p = s.here
  · simp [State.setHart, State.hartAt, hp]
  · simp [State.setHart, State.hartAt, hp, hx, alGet_alSet_same]

theorem hartAt_trapAt (code : BitVec 8) (value : Word) (acc : BitVec 2) (vec : Bool)
    (hx : ((s.hartAt p).takeTrap code value false acc vec (s.hartAt p).pc).wait ≠ .vacant) :
    (s.trapAt p code value acc vec).hartAt p = (s.hartAt p).takeTrap code value false acc vec (s.hartAt p).pc := by
  simp only [State.trapAt]
  split
  · have hlog (u : State) (k n l : Nat) : (u.logRas k n l).hartAt p = u.hartAt p := by simp [State.hartAt]
    rw [hlog, hartAt_setHart_same hx]
  · exact hartAt_setHart_same hx

@[simp] theorem trapAt_mem (code : BitVec 8) (value : Word) (acc : BitVec 2) (vec : Bool) :
    (s.trapAt p code value acc vec).mem = s.mem := by
  simp only [State.trapAt]
  split <;> simp

@[simp] theorem trapAt_cores (code : BitVec 8) (value : Word) (acc : BitVec 2) (vec : Bool) :
    (s.trapAt p code value acc vec).cores = s.cores := by
  simp only [State.trapAt]
  split <;> simp

/-- A trap changes neither a general register nor an arrived word, and never leaves a context vacant (R128). -/
theorem takeTrap_keeps (h : Hart) (code : BitVec 8) (value : Word) (acc : BitVec 2) (vec : Bool) :
    let h' := h.takeTrap code value false acc vec h.pc
    h'.g = h.g ∧ h'.words = h.words ∧ h'.wait ≠ .vacant := by
  simp only [Hart.takeTrap]
  split
  · simp
  · split <;> simp

/-- A trap that is not delegated finds FBUSY clear, and is taken at FIRM (R123, R128). -/
theorem takeTrap_to_firm {h : Hart} {code : BitVec 8} (value : Word) (acc : BitVec 2) (vec : Bool)
    (hbusy : h.status.fbusy = false) (hdeleg : h.tdeleg.getLsbD code.toNat = false) :
    let h' := h.takeTrap code value false acc vec h.pc
    h'.bankF = { pc := h.pc, cause := causeWord false false vec acc code, val := value } ∧ h'.status.priv = .firm := by
  have hlevel : trapLevel h.closeConvoy code false = .firm := by simp [trapLevel, delegated, hdeleg]
  simp [Hart.takeTrap, hlevel, hbusy]

end Places

/-! ### The fault message (R212) -/

section Asks

variable {s : State} {a b : GReg} {e : Bad}

theorem readAt_of_bad {h : How} {va : Word} {n : Nat} (hbad : s.check s.who h va n = .bad e) :
    s.readAt h va n = .bad e := by
  simp [State.readAt, State.readAs, hbad]

theorem writeAt_of_bad {h : How} {va : Word} {bs : List Byte} (hbad : s.check s.who h va bs.length = .bad e) :
    s.writeAt h va bs = .bad e := by
  simp [State.writeAt, State.writeAs, hbad]

theorem load_eq_fail {off : BitVec 11} {sz : LoadSize} (hr : Ready s [b] a)
    (hbad : s.check s.who .load (s.hart.src [] b + off.signExtend 64) (loadBytes sz) = .bad e) :
    exec (.load a b off sz) s = .next (s.fail e 1) := by
  simp only [exec_load, execLoad, State.loadOp, hr.none, addr11, readAt_of_bad hbad]
  rfl

theorem store_eq_fail {off : BitVec 11} {sz : StoreSize} (hr : Ready s [b, a] 0)
    (hbad : s.check s.who .store (s.hart.src [] b + off.signExtend 64) (storeBytes sz) = .bad e) :
    exec (.store a b off sz) s = .next (s.fail e 2) := by
  have hlen (v : Nat) : (bytesOf (storeBytes sz) v).length = storeBytes sz := leBytes_length ..
  simp only [exec_store, execStore, State.storeOp, hr.none, addr11, writeAt_of_bad (hlen _ ▸ hbad)]
  rfl

theorem fail_eq_askReeve {acc : BitVec 2} (hc : e.cause = 0x05) (ha : e.addr.extractLsb' 56 8 = 0)
    (hp : s.hart.status.priv = .task) (hm : (s.pdata s.pp).reevemap ≠ 0) :
    s.fail e acc = s.askReeve e acc false false := by
  have hoffered : s.offered e s.hart.status.priv = true := by
    simp [State.offered, hc, ha, hp, show (s.pdata s.pp).reevemap ≠ 0#64 from hm]
  simp only [State.fail, hoffered, if_true]

/-- The word of a fault message that names the access: the task, its ASID, PERM, VEC and ACC (R212). -/
theorem accessWord_fields (id : BitVec 32) (asid : BitVec 16) (perm vec : Bool) (acc : BitVec 2) :
    let w := id ++ asid ++ 0#3 ++ BitVec.ofBool perm ++ BitVec.ofBool vec ++ 0#1 ++ acc ++ 0#8
    w.extractLsb' 32 32 = id ∧ w.extractLsb' 16 16 = asid ∧ w.extractLsb' 8 2 = acc ∧ w.getLsbD 11 = vec ∧
      w.getLsbD 12 = perm ∧ w.extractLsb' 0 8 = 0 := by
  intro w
  refine ⟨?_, ?_, ?_, ?_, ?_, BitVec.extractLsb'_append_eq_right⟩
  · iterate 6 rw [BitVec.extractLsb'_append_eq_of_le (by decide)]
    exact BitVec.extractLsb'_append_eq_left
  · iterate 6 rw [BitVec.extractLsb'_append_eq_of_le (by decide)]
    exact BitVec.extractLsb'_append_eq_right
  · rw [BitVec.extractLsb'_append_eq_of_le (by decide)]
    exact BitVec.extractLsb'_append_eq_right
  · simp only [w, BitVec.getLsbD_append]
    simp
  · simp only [w, BitVec.getLsbD_append]
    simp

theorem core_askReeve (s : State) (e : Bad) (acc : BitVec 2) (vec mat : Bool) :
    ((s.askReeve e acc vec mat).core s.here.core).depart = (s.core s.here.core).depart ++
      [{ dest := s.reeveOf s.here.core, hart := none, sender := s.hid, slot := none, reeve := true
         words := [(s.pdata s.pp).reevevec, e.addr,
           s.hart.taskId ++ s.hart.asid ++ 0#3 ++ BitVec.ofBool e.perm ++ BitVec.ofBool vec ++ 0#1 ++ acc ++ 0#8,
           s.hid] }] :=
  congrArg Core.depart (core_setCore_same s s.here.core _)

end Asks

/-! ### The handler (R212, R407) -/

section Handler

variable {s : State} {p : Place}

/-- A handler starts with nothing but what its message gives it: the registers of its context, three general registers
and the words (R407). -/
theorem startHandler_spec (s : State) (p : Place) (pc : Word) (level : Priv) (ctx : Ctx) (prio : Nat)
    (g4 g5 g6 : Word) (words : List Word) :
    let t := s.startHandler p pc level ctx prio g4 g5 g6 words
    let h := t.hartAt p
    t.cores = s.cores ∧ t.mem = s.mem ∧ h.pc = pc ∧ h.status = Status.start level ∧
      (∀ r, r ≠ 31 → h.readG r = if r = 4 then g4 else if r = 5 then g5 else if r = 6 then g6 else 0) ∧
      h.words = words ∧ h.asid = ctx.asid ∧ h.ptroot = ctx.ptroot ∧ h.ccid = ctx.ccid ∧ h.frm = ctx.frm ∧
      h.prio = prio ∧ h.wait = .running := by
  have hread : ∀ r : GReg, r ≠ 31 → Hart.reset.readG r = 0 := by decide
  simp only [State.startHandler, State.tick]
  rw [hartAt_setHart_same (by simp [Hart.starting, Hart.reset])]
  refine ⟨by simp [State.newTasks, State.draw], by simp [State.newTasks, State.draw], by simp [Hart.starting],
    by simp [Hart.starting], fun r hr => ?_, by simp [Hart.starting, Hart.reset]⟩
  show ((((Hart.starting pc level ctx _ prio _).writeG 4 g4).writeG 5 g5).writeG 6 g6).readG r = _
  rw [readG_writeG _ _ _ _ (by decide) hr, readG_writeG _ _ _ _ (by decide) hr, readG_writeG _ _ _ _ (by decide) hr,
    show (Hart.starting pc level ctx _ prio _).readG r = 0 from hread r hr]
  grind

theorem reeveContext_of_free {c : CoreId}
    (hfree : s.isFree { core := c, hart := Config.hartsOf (Config.classOf s.member c) - 1 } = true) :
    s.reeveContext c = some { core := c, hart := Config.hartsOf (Config.classOf s.member c) - 1 } := by
  simp [State.reeveContext, hfree]

theorem messageDispatch_reeve {c : CoreId} {m : Msg} {rest : List Msg} (ha : (s.core c).arrival = m :: rest)
    (hm : m.reeve = true) (hruns : s.runs (s.ppOf c) = true) (hrec : s.recovery = false) (hdie : c.die ∉ s.lostDies)
    (hroom : s.tableRoom (s.ppOf c) 1 = true) (hp : s.reeveContext c = some p) :
    exec (.messageDispatch c) s = .next ((s.unqueue c).startHandler p (m.words.headD 0) .super
      { (s.pdata (s.ppOf c)).reeveCtx with frm := 0 } 3 3 m.sender 0 (m.words.drop 1)) := by
  simp [execMessageDispatch, State.dispatchNext, State.dispatchMsg, ha, hm, hruns, hrec, hdie, hroom, hp]

end Handler

/-! ### The reply (R213) -/

section Reply

variable {s : State} {c : CoreId} {m : Msg} {rest : List Msg} {k : Nat} {f : Asleep}

@[simp] theorem undepart_mem (s : State) (c : CoreId) (m : Msg) : (s.undepart c m).mem = s.mem := by
  simp only [State.undepart]
  split <;> rfl

@[simp] theorem undepart_hartAt (s : State) (c : CoreId) (m : Msg) (p : Place) : (s.undepart c m).hartAt p = s.hartAt p := by
  simp only [State.undepart]
  split <;> rfl

theorem core_undepart (s : State) (c : CoreId) (m : Msg) :
    ((s.undepart c m).core c).depart = dropFirst (fun x => x == m) (s.core c).depart := by
  have hcores : (s.undepart c m).cores =
      (s.setCore c { s.core c with depart := dropFirst (fun x => x == m) (s.core c).depart }).cores := by
    simp only [State.undepart]
    split <;> rfl
  rw [State.core, hcores]
  exact congrArg Core.depart (core_setCore_same ..)

theorem messageDeparture_reply (hms : (s.core c).depart.filter Msg.passes = m :: rest) (hk : m.hart = some k)
    (hw : (s.hartAt { core := m.dest, hart := k }).wait = .asleep f) (hdie : m.dest.die ∉ s.lostDies)
    (hruns : s.runs (s.ppOf m.dest) = true) (hsend : s.sendWaits c m = false)
    (hreach : s.reaches c.die m.dest.die = true) :
    exec (.messageDeparture c) s =
      .next ((s.undepart c m).reply { core := m.dest, hart := k } f (m.words.getD 1 0)) := by
  have hpass : m.passes = true := (List.mem_filter.1 (hms ▸ List.mem_cons_self)).2
  have hreply : s.replyTo m = some ({ core := m.dest, hart := k }, f) := by simp [State.replyTo, hk, hpass, hw]
  simp [execMessageDeparture, State.sendNext, State.sendOne, hms, hdie, hruns, hsend, hreach, hreply]

/-- A reply of 0 lets the access issue again, and any other ends it in a trap; either keeps the registers and the
arrived words (R213). -/
theorem reply_spec (s : State) (p : Place) (f : Asleep) (v : Word) :
    let code : Nat := if v = 2 then 6 else 5
    let t := s.reply p f v
    let h := s.hartAt p
    let h' := t.hartAt p
    t.cores = s.cores ∧ h'.g = h.g ∧ h'.words = h.words ∧ t.mem = s.mem ∧
      (v = 0 → h'.wait = .running ∧ h'.pc = h.pc ∧ h'.status = h.status) ∧
      (v ≠ 0 → h.status.fbusy = false → h.tdeleg.getLsbD code = false →
        h'.bankF = { pc := h.pc, cause := causeWord false false f.vec f.acc (BitVec.ofNat 8 code), val := f.addr } ∧
          h'.status.priv = .firm) := by
  intro code
  by_cases hv : v = 0
  · simp only [State.reply, hv, if_true]
    rw [hartAt_setHart_same (by simp [Hart.unhold])]
    exact ⟨by simp, rfl, rfl, by simp, fun _ => ⟨rfl, rfl, rfl⟩, fun h => absurd rfl h⟩
  · have hcode : (if v = 2 then 0x06 else 0x05 : BitVec 8) = BitVec.ofNat 8 code := by grind
    have hnat : (BitVec.ofNat 8 code).toNat = code := by grind
    obtain ⟨hg, hwords, hwait⟩ := takeTrap_keeps (s.hartAt p) (BitVec.ofNat 8 code) f.addr f.acc f.vec
    simp only [State.reply, hv, if_false, hcode]
    rw [hartAt_trapAt _ _ _ _ hwait]
    exact ⟨by simp, hg, hwords, by simp, fun h => h.elim, fun _ hbusy hdeleg =>
      takeTrap_to_firm _ _ _ hbusy (hnat.symm ▸ hdeleg)⟩

end Reply

/-- Settles O9: a failed load or store is offered to the reeve, whose message and sleep are `askReeve`; its message
starts `startHandler` in the context that is kept; a reply wakes the hart or ends in the trap of `trapAt`. -/
theorem reeveFaults : Obligations.ReeveFaults := by
  refine ⟨fun s a b e hc ha hp hm => ?_, fun s c m rest harr hmr hruns hrec hdie hroom hfree => ?_,
    fun s m rest c k f hms hk hw hdie hruns hsend hreach => ?_⟩
  · have hasks (i : Instr) (acc : BitVec 2) (hi : exec i s = .next (s.fail e acc)) :=
      fail_eq_askReeve (acc := acc) hc ha hp hm ▸ hi
    refine ⟨fun off sz hr hbad => ?_, fun off sz hr hbad => ?_⟩
    · exact ⟨_, _, hasks _ _ (load_eq_fail hr hbad), core_askReeve .., rfl, rfl, rfl, rfl, rfl, rfl, rfl,
        accessWord_fields .., rfl, rfl, rfl, rfl, rfl, rfl⟩
    · exact ⟨_, _, hasks _ _ (store_eq_fail hr hbad), core_askReeve .., rfl, rfl, rfl, rfl, rfl, rfl, rfl,
        accessWord_fields .., rfl, rfl, rfl, rfl, rfl, rfl⟩
  · obtain ⟨hcores, hmem, hpc, hstatus, hregs, hwords, hasid, hptroot, hccid, hfrm, hprio, hwait⟩ :=
      startHandler_spec (s.unqueue c) { core := c, hart := Config.hartsOf (Config.classOf s.member c) - 1 }
        (m.words.headD 0) .super { (s.pdata (s.ppOf c)).reeveCtx with frm := 0 } 3 3 m.sender 0 (m.words.drop 1)
    refine ⟨_, messageDispatch_reeve harr hmr hruns hrec hdie hroom (reeveContext_of_free hfree), ?_, hmem, hpc, hstatus,
      fun r hr => ?_, hwords, hasid, hptroot, hccid, hfrm, hprio, hwait⟩
    · rw [State.core, hcores]
      exact (congrArg Core.arrival (core_setCore_same ..)).trans (by rw [harr]; rfl)
    · rw [hregs r hr, ite_self (0 : Word)]
  · obtain ⟨hcores, hg, hwords, hmem, hreply⟩ :=
      reply_spec (s.undepart c m) { core := m.dest, hart := k } f (m.words.getD 1 0)
    rw [undepart_hartAt] at hg hwords hreply
    refine ⟨_, messageDeparture_reply hms hk hw hdie hruns hsend hreach, ?_, hg, hwords, hmem.trans (undepart_mem ..), hreply⟩
    rw [State.core, hcores]
    exact core_undepart ..

end Sys2Proof.Proofs

namespace Sys2Proof.Proofs

open Machine Say

/-! ### Tables held as lists -/

section Tables

variable {κ α β : Type} [DecidableEq κ]

@[simp] theorem alHas_alSet_same (k : κ) (x : α) (l : List (κ × α)) : alHas k (alSet k x l) = true := by
  induction l with
  | nil => simp [alSet, alHas]
  | cons e l ih => by_cases he : e.1 = k <;> simp [alSet, alHas, he, ih]

theorem alHas_alDel (k k' : κ) (l : List (κ × α)) : alHas k' (alDel k l) = (decide (k' ≠ k) && alHas k' l) := by
  induction l with
  | nil => simp [alDel, alHas]
  | cons e l ih => by_cases he : e.1 = k <;> by_cases hk : e.1 = k' <;> grind [alDel, alHas]

theorem alHas_map (f : κ × α → κ × β) (hf : ∀ e, (f e).1 = e.1) (k : κ) (l : List (κ × α)) :
    alHas k (l.map f) = alHas k l := by
  induction l with
  | nil => rfl
  | cons e l ih => simp [alHas, hf, ih]

theorem alHas_eq_true_iff (k : κ) (l : List (κ × α)) : alHas k l = true ↔ ∃ e ∈ l, e.1 = k := by
  induction l with
  | nil => simp [alHas]
  | cons e l ih => by_cases he : e.1 = k <;> simp [alHas, he, ih]

theorem alGet_map_some (k : κ) (l : List (κ × α)) :
    alGet none k (l.map fun e => (e.1, some e.2)) = none ↔ alHas k l = false := by
  induction l with
  | nil => simp [alGet, alHas]
  | cons e l ih => by_cases he : e.1 = k <;> simp [alGet, alHas, he, ih]

theorem map_alSet (f : α → β) (k : κ) (x : α) (l : List (κ × α)) :
    (alSet k x l).map (fun e => (e.1, f e.2)) = alSet k (f x) (l.map fun e => (e.1, f e.2)) := by
  induction l with
  | nil => rfl
  | cons e l ih => by_cases he : e.1 = k <;> simp [alSet, he, ih]

end Tables

section CohTables

variable {c : Coh} {pp line : Nat}

theorem l2Of_eq_none_iff : c.l2Of pp line = none ↔ alHas (pp, line) c.l2 = false := alGet_map_some ..

theorem l2Of_delL2_same : (c.delL2 pp line).l2Of pp line = none :=
  l2Of_eq_none_iff.2 (by simp [Coh.delL2, alHas_alDel])

theorem l2Of_setL2_same (x : L2) : (c.setL2 pp line x).l2Of pp line = some x := by
  rw [Coh.l2Of, Coh.setL2, map_alSet]
  exact alGet_alSet_same ..

theorem dirOf_setDir_same (d : Dir) : (c.setDir line d).dirOf line = d := alGet_alSet_same ..

end CohTables

/-! ### Messages that leave (R191, R192, R200)

Sending, waking links, taking a line from the L1 caches and passing data through the well cache touch nothing but their
own records, so that a transaction is known by the entries that it writes and the messages that it sends. -/

/-- `t` is `s` after the messages `ms` have left: the L1 caches, the well caches and the links that wake may have changed
besides. -/
def Sends (s : State) (ms : List CohMsg) (t : State) : Prop :=
  ∃ cores waking inner well dram, t = { s with
    cores := cores, waking := waking
    coh := { s.coh with inner := inner, well := well, dram := dram, inflight := s.coh.inflight ++ ms } }

section Sends

variable {s t u : State} {ms ns : List CohMsg} {m : CohMsg} {pp line : Nat}

theorem sends_nil_of_eq {cores waking inner well dram} (h : t = { s with
    cores := cores, waking := waking, coh := { s.coh with inner := inner, well := well, dram := dram } }) :
    Sends s [] t :=
  ⟨cores, waking, inner, well, dram, by rw [h, List.append_nil]⟩

theorem Sends.trans (h : Sends s ms t) (h' : Sends t ns u) : Sends s (ms ++ ns) u := by
  obtain ⟨_, _, _, _, _, rfl⟩ := h
  obtain ⟨_, _, _, _, _, rfl⟩ := h'
  exact ⟨_, _, _, _, _, by rw [← List.append_assoc]⟩

theorem Sends.partyLost (h : Sends s ms t) (pp : Nat) : t.partyLost pp = s.partyLost pp := by
  obtain ⟨_, _, _, _, _, rfl⟩ := h
  rfl

theorem Sends.setDir (h : Sends s ms t) (line : Nat) (d : Dir) : Sends (s.setDir line d) ms (t.setDir line d) := by
  obtain ⟨_, _, _, _, _, rfl⟩ := h
  exact ⟨_, _, _, _, _, rfl⟩

/-! What messages that leave do not touch. -/

theorem Sends.mem (h : Sends s ms t) : t.mem = s.mem := by
  obtain ⟨_, _, _, _, _, rfl⟩ := h
  rfl

theorem Sends.hart (h : Sends s ms t) : t.hart = s.hart := by
  obtain ⟨_, _, _, _, _, rfl⟩ := h
  rfl

theorem Sends.others (h : Sends s ms t) : t.others = s.others := by
  obtain ⟨_, _, _, _, _, rfl⟩ := h
  rfl

theorem Sends.dir (h : Sends s ms t) : t.coh.dir = s.coh.dir := by
  obtain ⟨_, _, _, _, _, rfl⟩ := h
  rfl

theorem Sends.dirOf (h : Sends s ms t) (line : Nat) : t.coh.dirOf line = s.coh.dirOf line := by
  rw [Coh.dirOf, h.dir, Coh.dirOf]

theorem Sends.l2 (h : Sends s ms t) : t.coh.l2 = s.coh.l2 := by
  obtain ⟨_, _, _, _, _, rfl⟩ := h
  rfl

theorem Sends.l2Of (h : Sends s ms t) (pp line : Nat) : t.coh.l2Of pp line = s.coh.l2Of pp line := by
  rw [Coh.l2Of, h.l2, Coh.l2Of]

theorem Sends.active (h : Sends s ms t) : t.coh.active = s.coh.active := by
  obtain ⟨_, _, _, _, _, rfl⟩ := h
  rfl

theorem Sends.waiting (h : Sends s ms t) : t.coh.waiting = s.coh.waiting := by
  obtain ⟨_, _, _, _, _, rfl⟩ := h
  rfl

theorem Sends.evict (h : Sends s ms t) : t.coh.evict = s.coh.evict := by
  obtain ⟨_, _, _, _, _, rfl⟩ := h
  rfl

theorem Sends.inflight (h : Sends s ms t) : t.coh.inflight = s.coh.inflight ++ ms := by
  obtain ⟨_, _, _, _, _, rfl⟩ := h
  rfl

theorem wakeLinks_eq (s : State) (src : Nat) (ds : List Nat) : ∃ w, s.wakeLinks src ds = { s with waking := w } := by
  induction ds generalizing s src with
  | nil => exact ⟨_, rfl⟩
  | cons d ds ih =>
    unfold State.wakeLinks
    dsimp only
    split
    · exact ih ..
    · exact ih ..

/-- A message to a parish of a lost die is not sent (R465). -/
theorem send_sends (s : State) (m : CohMsg) : Sends s (if s.partyLost m.pp then [] else [m]) (s.send m) := by
  unfold State.send
  split
  · exact sends_nil_of_eq rfl
  · obtain ⟨w, hw⟩ := wakeLinks_eq { s with coh := { s.coh with inflight := s.coh.inflight ++ [m] } } (lineHome m.line)
      (pathOf s.lostDies (lineHome m.line) (s.dieOf m.pp))
    exact ⟨_, _, _, _, _, hw⟩

theorem send_sends_of_there (hm : s.partyLost m.pp = false) : Sends s [m] (s.send m) := by
  simpa [hm] using send_sends s m

theorem wellPut_sends (s : State) (line : Nat) (v : BitVec 4) : Sends s [] (s.wellPut line v) := by
  unfold State.wellPut
  split
  · exact sends_nil_of_eq rfl
  · split <;> exact sends_nil_of_eq rfl

theorem noteWellDirty_sends (s : State) (line : Nat) (v : BitVec 4) (old : Kept) :
    Sends s [] (s.noteWellDirty line v old) := by
  unfold State.noteWellDirty
  split
  · exact sends_nil_of_eq rfl
  · dsimp only
    split
    · exact wellPut_sends ..
    · exact (wellPut_sends s line v).trans (sends_nil_of_eq rfl)

theorem recallL1_sends (s : State) (line : Nat) : Sends s [] (s.recallL1 line) := sends_nil_of_eq rfl

theorem dropL1_sends (s : State) (p : CoreId → Bool) (line : Nat) : Sends s [] (s.dropL1 p line) := sends_nil_of_eq rfl

theorem sendData_sends (s : State) (pp line : Nat) (own pend : Bool) :
    Sends s (if s.partyLost pp then [] else [.data pp line own pend]) (s.sendData pp line own pend) := by
  have hwell := wellPut_sends s line 0b1111
  have hsend := send_sends (s.wellPut line 0b1111) (.data pp line own pend)
  rw [hwell.partyLost] at hsend
  exact hwell.trans hsend

theorem Sends.send (h : Sends s ms t) (m : CohMsg) :
    Sends s (ms ++ if s.partyLost m.pp then [] else [m]) (t.send m) :=
  h.trans (h.partyLost m.pp ▸ send_sends t m)

theorem Sends.send_of_there (h : Sends s ms t) (hm : s.partyLost m.pp = false) : Sends s (ms ++ [m]) (t.send m) := by
  simpa [hm] using h.send m

theorem Sends.sendData (h : Sends s ms t) (pp line : Nat) (own pend : Bool) :
    Sends s (ms ++ if s.partyLost pp then [] else [.data pp line own pend]) (t.sendData pp line own pend) :=
  h.trans (h.partyLost pp ▸ sendData_sends t pp line own pend)

/-- The invalidations to parishes that are there (R192). -/
theorem foldl_inv_sends (line : Nat) (ps : List Nat) (s : State) (hps : ∀ p ∈ ps, s.partyLost p = false) :
    Sends s (ps.map fun p => .inv p line) (ps.foldl (fun s p => s.send (.inv p line)) s) := by
  induction ps generalizing s with
  | nil => exact sends_nil_of_eq rfl
  | cons p ps ih =>
    have hsend : Sends s [.inv p line] (s.send (.inv p line)) := send_sends_of_there (hps p List.mem_cons_self)
    exact hsend.trans (ih _ fun q hq => (hsend.partyLost q).trans (hps q (List.mem_cons_of_mem _ hq)))

end Sends

/-! ### Requests at a home (R191, R482) -/

section Requests

variable {s : State} {tx : Tx} {pp line q : Nat} {needs : Bool}

theorem not_partyLost_of_wired (h : s.wired pp line = true) : s.partyLost pp = false := by
  simp only [State.wired, Bool.and_eq_true, Bool.not_eq_true'] at h
  exact h.1.2

theorem wired_of_mayAsk (h : s.mayAsk pp line = true) : s.wired pp line = true := by
  simp only [State.mayAsk, Bool.and_eq_true] at h
  exact h.1.1.1.1.1

theorem gets_eq_request (hask : s.mayAsk pp line = true) (hl2 : alHas (pp, line) s.coh.l2 = false) :
    exec (.gets pp line) s = .next (s.request { line := line, pp := pp, req := .gets }) := by
  simp [execGets, hask, hl2]

theorem getx_eq_request (hask : s.mayAsk pp line = true) (hl2 : alHas (pp, line) s.coh.l2 = false) :
    exec (.getx pp line) s = .next (s.request { line := line, pp := pp, req := .getx }) := by
  simp [execGetx, hask, hl2]

theorem upg_eq_request (hask : s.mayAsk pp line = true) {x : L2} (hx : s.coh.l2Of pp line = some x)
    (ho : x.owned = false) : exec (.upg pp line) s = .next (s.request { line := line, pp := pp, req := .upg }) := by
  simp [execUpg, hask, hx, ho]

/-- The home can begin a transaction on a line, and no request for it waits (R191, R449, R467). -/
def HomeFree (s : State) (line : Nat) : Prop :=
  (s.coh.dirOf line).busy = false ∧ s.snooped line = false ∧ s.switchingOn line = false ∧ ∀ x ∈ s.coh.waiting, x.line ≠ line

theorem homeFree_iff : HomeFree s line ↔ (s.homeBusy line || s.coh.waiting.any fun x => x.line == line) = false := by
  simp [HomeFree, State.homeBusy, and_assoc]

/-- No parish of a lost die is told to give a line up (R465). -/
theorem not_partyLost_of_mem_invTargets {p : Nat} (hp : p ∈ s.invTargets tx) : s.partyLost p = false := by
  simp only [State.invTargets, State.invited, List.mem_filter, Bool.and_eq_true, Bool.not_eq_true'] at hp
  exact hp.2.2

/-- With no other copy to remove, the requester owns the line at once, and learns it with the data or by COMPLETE
(R191, R482). -/
theorem invalidateFor_alone (hupg : needs = false → tx.req = .upg) (hthere : s.partyLost tx.pp = false)
    (hps : s.invTargets tx = []) :
    Sends (s.setDir tx.line (Dir.owned tx.pp))
      [if needs then .data tx.pp tx.line true false else .complete tx.pp tx.line true] (s.invalidateFor tx needs) := by
  cases needs with
  | true =>
    have hsend := sendData_sends s tx.pp tx.line true false
    simpa [State.invalidateFor, hps, hthere] using hsend.setDir tx.line (Dir.owned tx.pp)
  | false =>
    have hsend : Sends (s.setDir tx.line (Dir.owned tx.pp)) [.complete tx.pp tx.line true] _ := send_sends_of_there hthere
    simpa [State.invalidateFor, hps, State.settleFirst, State.mirrored, State.settleTx, State.ownedFor, hupg, hthere]
      using hsend

/-- The copies are told to go, and the data follows for a requester that needs it; the line is BUSY until all have
answered (R191, R192). -/
theorem invalidateFor_copies (needs : Bool) (hthere : s.partyLost tx.pp = false) (hps : s.invTargets tx ≠ []) :
    Sends (s.begin tx (s.invTargets tx).length) ((s.invTargets tx).map (fun p => .inv p tx.line) ++
      if needs then [.data tx.pp tx.line true true] else []) (s.invalidateFor tx needs) := by
  have hinv := foldl_inv_sends tx.line (s.invTargets tx) (s.begin tx (s.invTargets tx).length) fun p hp =>
    not_partyLost_of_mem_invTargets (s := s) hp
  have hempty : (s.invTargets tx).isEmpty = false := by simpa using hps
  cases needs with
  | true =>
    have hdata := hinv.sendData tx.pp tx.line true true
    rw [show (s.begin tx _).partyLost tx.pp = false from hthere] at hdata
    simpa [State.invalidateFor, hempty] using hdata
  | false => simpa [State.invalidateFor, hempty] using hinv

/-! #### A request that the home serves (R191) -/

theorem request_of_not_free (h : ¬ HomeFree s tx.line) :
    s.request tx = { s with coh := { s.coh with waiting := s.coh.waiting ++ [tx] } } := by
  rw [homeFree_iff, Bool.not_eq_false] at h
  simp only [State.request, h, if_true]

theorem request_of_free (h : HomeFree s tx.line) : s.request tx = s.startTx tx := by
  simp only [State.request, homeFree_iff.1 h, Bool.false_eq_true, if_false]

/-- Nobody holds the line: the requester owns it from here on. -/
theorem request_invalid (hfree : HomeFree s tx.line) (hthere : s.partyLost tx.pp = false)
    (hreq : tx.req = .gets ∨ tx.req = .getx) (hst : (s.coh.dirOf tx.line).st = .I) :
    Sends (s.setDir tx.line (Dir.owned tx.pp)) [.data tx.pp tx.line true false] (s.request tx) := by
  have hstart : s.startTx tx = (s.setDir tx.line (Dir.owned tx.pp)).sendData tx.pp tx.line true false := by
    rcases hreq with h | h <;> simp [State.startTx, h, hst]
  have hsend := sendData_sends (s.setDir tx.line (Dir.owned tx.pp)) tx.pp tx.line true false
  rw [show (s.setDir tx.line _).partyLost tx.pp = false from hthere] at hsend
  rwa [request_of_free hfree, hstart]

/-- Another parish owns the line: it is asked to give it up, and the line is BUSY meanwhile. -/
theorem request_forward (hfree : HomeFree s tx.line) (hreq : tx.req = .gets ∨ tx.req = .getx)
    (hst : (s.coh.dirOf tx.line).st = .O) (hown : s.lineOwner tx.line = some q) (hq : q ≠ tx.pp)
    (hthere : s.partyLost q = false) : Sends (s.begin tx 0) [.fwd q tx.line] (s.request tx) := by
  have hother : (some q).filter (fun q => q != tx.pp) = some q := by simp [hq]
  have hstart : s.startTx tx = (s.begin tx 0).send (.fwd q tx.line) := by
    rcases hreq with h | h <;> simp only [State.startTx, h, hst, hown, hother]
  rw [request_of_free hfree, hstart]
  exact send_sends_of_there hthere

/-- Others share the line: one more does. -/
theorem request_share (hfree : HomeFree s tx.line) (hthere : s.partyLost tx.pp = false) (hreq : tx.req = .gets)
    (hst : (s.coh.dirOf tx.line).st = .S) :
    Sends (s.setDir tx.line ((s.coh.dirOf tx.line).addSharer tx.pp)) [.data tx.pp tx.line false false] (s.request tx) := by
  have hstart : s.startTx tx =
      (s.setDir tx.line ((s.coh.dirOf tx.line).addSharer tx.pp)).sendData tx.pp tx.line false false := by
    simp [State.startTx, hreq, hst]
  have hsend := sendData_sends (s.setDir tx.line ((s.coh.dirOf tx.line).addSharer tx.pp)) tx.pp tx.line false false
  rw [show (s.setDir tx.line _).partyLost tx.pp = false from hthere] at hsend
  rwa [request_of_free hfree, hstart]

/-- Others share the line, and the requester asks for it alone: the copies go first. -/
theorem request_invalidate (hfree : HomeFree s tx.line) (hreq : tx.req = .getx ∨ tx.req = .upg)
    (hst : (s.coh.dirOf tx.line).st = .S) :
    s.request tx = s.invalidateFor tx (tx.req == .getx || !(s.coh.dirOf tx.line).records tx.pp) := by
  have hupg : (Req.upg == Req.getx) = false := rfl
  rw [request_of_free hfree]
  rcases hreq with h | h <;> simp [State.startTx, h, hst, hupg]

end Requests

/-- Settles O42: each row hands its request to the home, and the home's lemmas above say which entry it writes and which
messages it sends. -/
theorem coherenceRequests : Obligations.CoherenceRequests := by
  intro s pp line hask
  have hthere := not_partyLost_of_wired (wired_of_mayAsk hask)
  refine ⟨?_, fun hl2 hfree hst => ?_, ?_⟩
  · rintro i r hir - hl2
    have hi : exec i s = .next (s.request { line := line, pp := pp, req := r }) ∧ (r = .gets ∨ r = .getx) := by
      rcases hir with h | h <;> obtain ⟨rfl, rfl⟩ := Prod.mk.inj h
      · exact ⟨gets_eq_request hask hl2, .inl rfl⟩
      · exact ⟨getx_eq_request hask hl2, .inr rfl⟩
    obtain ⟨hexec, hr⟩ := hi
    refine ⟨fun hbusy => ?_, fun hfree hst => ?_, fun hfree hst q hown hq hqthere => ?_⟩
    · rw [hexec, request_of_not_free (tx := ⟨line, pp, r, none⟩) hbusy]
    · have hsend := request_invalid (tx := ⟨line, pp, r, none⟩) hfree hthere hr hst
      exact ⟨_, hexec, (hsend.dirOf line).trans (dirOf_setDir_same _), hsend.inflight, hsend.l2, hsend.mem, hsend.hart⟩
    · have hsend := request_forward (tx := ⟨line, pp, r, none⟩) hfree hr hst hown hq (by simpa [State.partyLost] using hqthere)
      exact ⟨_, hexec, ((hsend.dirOf line).trans (dirOf_setDir_same _)) ▸ rfl, hsend.inflight, hsend.active, hsend.l2,
        hsend.mem, hsend.hart⟩
  · have hsend := request_share (tx := ⟨line, pp, .gets, none⟩) hfree hthere rfl hst
    exact ⟨_, gets_eq_request hask hl2, (hsend.dirOf line).trans (dirOf_setDir_same _), hsend.inflight, hsend.mem⟩
  · rintro i r hir hfree hst
    have hi : exec i s = .next (s.request { line := line, pp := pp, req := r }) ∧ (r = .getx ∨ r = .upg) := by
      rcases hir with ⟨rfl, rfl, hl2⟩ | ⟨rfl, rfl, x, hx, ho⟩
      · exact ⟨getx_eq_request hask hl2, .inl rfl⟩
      · exact ⟨upg_eq_request hask hx ho, .inr rfl⟩
    obtain ⟨hexec, hr⟩ := hi
    have hreq := request_invalidate (tx := ⟨line, pp, r, none⟩) hfree hr hst
    have htargets : s.invTargets ⟨line, pp, r, none⟩ =
        ((s.coh.dirOf line).named s.member).filter fun p => p != pp && !s.lostDies.contains (s.dieOf p) := by
      rcases hr with rfl | rfl <;> rfl
    intro ps needs
    refine ⟨fun hps => ?_, fun hps => ?_⟩
    · have hsend := invalidateFor_copies (tx := ⟨line, pp, r, none⟩) needs hthere (htargets ▸ hps)
      rw [htargets] at hsend
      have hdir := (hsend.dirOf line).trans (dirOf_setDir_same _)
      refine ⟨_, hexec.trans (congrArg _ hreq), hdir ▸ rfl, hdir ▸ rfl, ?_, hsend.active, hsend.mem⟩
      rw [hsend.inflight, List.append_assoc]
      rfl
    · have hupg : needs = false → r = .upg := fun h => hr.resolve_left fun hg => by simp [needs, hg] at h
      have hsend := invalidateFor_alone (tx := ⟨line, pp, r, none⟩) hupg hthere (htargets.trans hps)
      exact ⟨_, hexec.trans (congrArg _ hreq), (hsend.dirOf line).trans (dirOf_setDir_same _), hsend.inflight, hsend.l2,
        hsend.mem, hsend.hart⟩

end Sys2Proof.Proofs

namespace Sys2Proof.Proofs

open Machine Say

/-! ### What the homes do when a message arrives (R191 to R193) -/

section Arrivals

variable {s t : State} {ms : List CohMsg} {tx : Tx} {pp line : Nat} {x : L2}

/-- The home has the data of a line: no copy of it is dirty any more, and nothing is kept below one (R170, R191). -/
def homeHas (s : State) (line : Nat) : State :=
  { s with coh := { s.coh with
      below := alDel line s.coh.below
      l2 := s.coh.l2.map fun (e : (Nat × Nat) × L2) => if e.1.2 = line then (e.1, { e.2 with dirty := false }) else e } }

theorem writeBack_sends (s : State) (line : Nat) : Sends (homeHas s line) [] (s.writeBack line) := by
  have hkeep (u : State) (h : Sends s [] u) : Sends (homeHas s line) [] (homeHas u line) := by
    obtain ⟨_, _, _, _, _, rfl⟩ := h
    exact ⟨_, _, _, _, _, rfl⟩
  have hrecall := recallL1_sends s line
  refine hkeep _ (?_ : Sends s [] (if alHas line (s.recallL1 line).coh.below then
    (s.recallL1 line).noteWellDirty line 0b1111 (alGet Kept.none line (s.recallL1 line).coh.below) else s.recallL1 line))
  split
  · exact hrecall.trans (noteWellDirty_sends ..)
  · exact hrecall

theorem Sends.writeBack (h : Sends s ms t) (line : Nat) : Sends (homeHas s line) ms (t.writeBack line) := by
  have hhas : Sends (homeHas s line) ms (homeHas t line) := by
    obtain ⟨_, _, _, _, _, rfl⟩ := h
    exact ⟨_, _, _, _, _, rfl⟩
  simpa using hhas.trans (writeBack_sends t line)

theorem alHas_homeHas (k : Nat × Nat) : alHas k (homeHas s line).coh.l2 = alHas k s.coh.l2 :=
  alHas_map _ (fun e => by split <;> rfl) ..

theorem pumpAll_of_none (h : ∀ y ∈ s.coh.waiting, y.line ≠ line) : s.pumpAll line = s := by
  have hnone : s.coh.waiting.find? (fun y => y.line == line) = none := by simpa using h
  simp only [State.pumpAll, State.pump, hnone]
  split <;> rfl

/-- A transaction leaves the list of those in progress. -/
def ended (s : State) (tx : Tx) : State :=
  { s with coh := { s.coh with active := dropFirst (fun x => x == tx) s.coh.active } }

theorem Sends.endTx (h : Sends s ms t) (hw : ∀ y ∈ s.coh.waiting, y.line ≠ tx.line) :
    Sends (ended s tx) ms (t.endTx tx) := by
  have hpump : t.endTx tx = ended t tx := pumpAll_of_none (s := ended t tx) (h.waiting ▸ hw)
  rw [hpump]
  obtain ⟨_, _, _, _, _, rfl⟩ := h
  exact ⟨_, _, _, _, _, rfl⟩

theorem Sends.ownedFor (h : Sends s ms t) (tx : Tx) {m : CohMsg} (hm : m.pp = tx.pp) :
    Sends (s.setDir tx.line (if s.partyLost tx.pp then Dir.reset else Dir.owned tx.pp))
      (ms ++ if s.partyLost tx.pp then [] else [m]) (t.ownedFor tx m) := by
  rw [State.ownedFor, h.partyLost, ← hm]
  exact (h.setDir ..).send m

/-! #### Evictions (R191, R193) -/

theorem wired_of_mayEvict {o : Bool} (h : s.mayEvict pp line o = true) : s.wired pp line = true := by
  unfold State.mayEvict at h
  split at h
  · simp only [Bool.and_eq_true] at h
    exact h.1.2
  · exact absurd h (by simp)

/-- The line has left the L2 for its eviction buffer. -/
def buffered (s : State) (pp line : Nat) : State :=
  { s with coh := { s.coh.delL2 pp line with
      evict := alSet (pp, line) (((s.coh.l2Of pp line).map fun x => x.dirty).getD false) s.coh.evict } }

theorem evictLine_sends (hthere : s.partyLost pp = false) :
    Sends (buffered s pp line) [.putAck pp line] (s.evictLine pp line) := by
  have hbuffered : Sends (buffered s pp line) [] (buffered ((s.recallL1 line).dropL1 (fun c => s.ppOf c == pp) line) pp line) :=
    sends_nil_of_eq rfl
  exact hbuffered.send_of_there hthere

/-- The entry that a notice of eviction leaves at the home: while a transaction is in progress, none changes (R191). -/
def afterNotice (d : Dir) (pp : Nat) (owned : Bool) : Dir :=
  if d.busy then d
  else if owned then (if d.st = .O ∧ d.records pp = true then Dir.reset else d)
  else d.puts pp

theorem afterNotice_of_busy {d : Dir} {o : Bool} (h : d.busy = true) : afterNotice d pp o = d := by simp [afterNotice, h]

theorem afterNotice_of_foreign {d : Dir} (h : ¬ (d.busy = false ∧ d.st = .O ∧ d.records pp = true)) :
    afterNotice d pp true = d := by
  grind [afterNotice]

/-- The row evicts the line: the L2 has given it up, PUT-ACK is on its way, and `d` is the line's entry (R191, R193). -/
def Evicts (s : State) (i : Instr) (pp line : Nat) (d : Dir) : Prop :=
  ∃ t, exec i s = .next t ∧ t.coh.l2Of pp line = none ∧ alHas (pp, line) t.coh.evict = true ∧
    t.coh.inflight = s.coh.inflight ++ [.putAck pp line] ∧ (t.mem = s.mem ∧ t.hart = s.hart ∧ t.others = s.others) ∧
    t.coh.dirOf line = d

theorem evicts_of_sends {i : Instr} {d : Dir} {dir l2 below} (hexec : exec i s = .next t)
    (hsend : Sends { s with coh := { s.coh with
      dir := dir, l2 := l2, below := below, evict := (buffered s pp line).coh.evict } } [.putAck pp line] t)
    (hl2 : alHas (pp, line) l2 = false) (hdir : alGet Dir.reset line dir = d) : Evicts s i pp line d :=
  ⟨t, hexec, (hsend.l2Of ..).trans (l2Of_eq_none_iff.2 hl2), by rw [hsend.evict]; exact alHas_alSet_same ..,
    hsend.inflight, ⟨hsend.mem, hsend.hart, hsend.others⟩, (hsend.dirOf line).trans hdir⟩

theorem alHas_buffered : alHas (pp, line) (buffered s pp line).coh.l2 = false := by
  simp [buffered, Coh.delL2, alHas_alDel]

theorem puts_evicts (hmay : s.mayEvict pp line false = true) :
    Evicts s (.puts pp line) pp line (afterNotice (s.coh.dirOf line) pp false) := by
  have hsend := evictLine_sends (line := line) (not_partyLost_of_wired (wired_of_mayEvict hmay))
  by_cases hbusy : (s.coh.dirOf line).busy = true
  · have hexec : exec (.puts pp line) s = .next (s.evictLine pp line) := by simp [execPuts, hmay, hbusy]
    exact evicts_of_sends hexec hsend alHas_buffered (afterNotice_of_busy hbusy).symm
  · have hexec : exec (.puts pp line) s = .next ((s.evictLine pp line).setDir line ((s.coh.dirOf line).puts pp)) := by
      simp [execPuts, hmay, hbusy]
    exact evicts_of_sends hexec (hsend.setDir ..) alHas_buffered
      ((dirOf_setDir_same (c := s.coh) _).trans (by simp [afterNotice, hbusy]))

theorem putx_evicts (hmay : s.mayEvict pp line true = true) :
    Evicts s (.putx pp line) pp line (afterNotice (s.coh.dirOf line) pp true) := by
  have hsend := evictLine_sends (line := line) (not_partyLost_of_wired (wired_of_mayEvict hmay))
  by_cases hmine : (s.coh.dirOf line).busy = false ∧ (s.coh.dirOf line).st = .O ∧ (s.coh.dirOf line).records pp = true
  · have hexec : exec (.putx pp line) s = .next (((s.evictLine pp line).writeBack line).setDir line Dir.reset) := by
      simp [execPutx, hmay, hmine]
    exact evicts_of_sends hexec ((hsend.writeBack line).setDir ..) ((alHas_homeHas _).trans alHas_buffered)
      ((dirOf_setDir_same (c := s.coh) _).trans (by simp [afterNotice, hmine]))
  · have hexec : exec (.putx pp line) s = .next (s.evictLine pp line) := by
      simp only [exec_putx, execPutx, hmay]
      grind
    exact evicts_of_sends hexec hsend alHas_buffered (afterNotice_of_foreign hmine).symm

theorem putAck_eq (hmsg : s.nextMsg true pp line = some (.putAck pp line)) : exec (.putAck pp line) s =
    .next { s with coh := { s.coh with
      inflight := dropFirst (fun x => x == .putAck pp line) s.coh.inflight, evict := alDel (pp, line) s.coh.evict } } := by
  simp only [exec_putAck, execPutAck, hmsg, if_true]
  rfl

/-! #### Invalidations (R192) -/

/-- The L2 of a parish gives up a line. -/
def givenUp (s : State) (pp line : Nat) : State := { s with coh := s.coh.delL2 pp line }

theorem Sends.givenUp (h : Sends s ms t) (pp line : Nat) : Sends (givenUp s pp line) ms (givenUp t pp line) := by
  obtain ⟨_, _, _, _, _, rfl⟩ := h
  exact ⟨_, _, _, _, _, rfl⟩

/-- The L2 of a parish holds a line. -/
def heldAs (s : State) (pp line : Nat) (x : L2) : State := { s with coh := s.coh.setL2 pp line x }

theorem Sends.heldAs (h : Sends s ms t) (pp line : Nat) (x : L2) : Sends (heldAs s pp line x) ms (heldAs t pp line x) := by
  obtain ⟨_, _, _, _, _, rfl⟩ := h
  exact ⟨_, _, _, _, _, rfl⟩

theorem inv_sends (hmsg : s.nextMsg true pp line = some (.inv pp line)) (hwired : s.wired pp line = true) :
    ∃ t, exec (.inv pp line) s = .next t ∧
      Sends (givenUp (s.unsend (.inv pp line)) pp line) [.invAck pp line] t := by
  have hthere : s.partyLost pp = false := not_partyLost_of_wired hwired
  have hdrop := dropL1_sends (s.unsend (.inv pp line)) (fun c => s.ppOf c == pp) line
  refine ⟨_, ?_, (hdrop.givenUp pp line).send_of_there (m := .invAck pp line) hthere⟩
  simp only [exec_inv, execInv, hmsg, hwired, and_self, if_true]
  rfl

/-- The last acknowledgement ends a transaction that gives its requester the line (R192). -/
theorem settle_gain (hreq : tx.req = .getx ∨ tx.req = .upg) (hw : ∀ y ∈ s.coh.waiting, y.line ≠ tx.line) :
    Sends (ended (s.setDir tx.line (if s.partyLost tx.pp then Dir.reset else Dir.owned tx.pp)) tx)
      (if s.partyLost tx.pp then [] else [.complete tx.pp tx.line true]) (s.settle tx) := by
  have hsettle : s.settle tx = (s.ownedFor tx (.complete tx.pp tx.line true)).endTx tx := by
    rcases hreq with h | h <;> simp [State.settle, State.mirrored, State.settleTx, h]
  rw [hsettle]
  exact ((sends_nil_of_eq (t := s) rfl).ownedFor tx rfl).endTx hw

theorem invAck_eq_countAck (hmsg : s.nextMsg false pp line = some (.invAck pp line)) (hwired : s.wired pp line = true) :
    exec (.invAck pp line) s = .next ((s.unsend (.invAck pp line)).countAck line) := by
  simp only [exec_invAck, execInvAck, hmsg, hwired, and_self, if_true]

theorem countAck_of_more (hx : s.activeTx line = some tx) (hd : 1 < (s.coh.dirOf line).ackcnt) :
    s.countAck line = s.setDir line { s.coh.dirOf line with ackcnt := (s.coh.dirOf line).ackcnt - 1 } := by
  simp only [State.countAck, hx, Nat.not_le.2 hd, if_false]

theorem countAck_of_last (hx : s.activeTx line = some tx) (hd : (s.coh.dirOf line).ackcnt ≤ 1) :
    s.countAck line = (s.setDir line { s.coh.dirOf line with ackcnt := (s.coh.dirOf line).ackcnt - 1 }).settle tx := by
  simp only [State.countAck, hx, hd, if_true]

/-! #### Forwards (R191, R193) -/

def isFwd (line : Nat) : CohMsg → Bool
  | .fwd _ l => l == line
  | _ => false

def isFwdData (line : Nat) : CohMsg → Bool
  | .fwdData _ l => l == line
  | _ => false

/-- An owner keeps a shared copy of a line that its home asks for when the requester only reads, and none otherwise
(R191). -/
theorem fwd_sends (hmsg : s.nextMsg true pp line = some (.fwd pp line)) (hwired : s.wired pp line = true)
    (hfind : s.coh.inflight.find? (isFwd line) = some (.fwd pp line)) :
    ∃ t c, exec (.fwd line) s = .next t ∧ Sends { s.unsend (.fwd pp line) with coh := c } [.fwdData pp line] t ∧
      c.inflight = (s.unsend (.fwd pp line)).coh.inflight ∧
      ∀ x, s.activeTx line = some x → alHas (pp, line) s.coh.l2 = true →
        c.l2Of pp line = if x.req = .gets then some { L2.reset with valid := wholeLine line } else none := by
  have hthere : s.partyLost pp = false := not_partyLost_of_wired hwired
  simp only [exec_fwd]
  unfold execFwd
  split
  · next q l h =>
    obtain ⟨rfl, rfl⟩ : q = pp ∧ l = line := by simpa using h.symm.trans hfind
    simp only [hmsg, hwired, ne_eq, not_true_eq_false, Bool.not_true, Bool.false_eq_true, or_self, if_false]
    have hrecall := recallL1_sends (s.unsend (.fwd q l)) l
    have hshares := (hrecall.heldAs q l { L2.reset with valid := wholeLine l }).send_of_there (m := .fwdData q l) hthere
    have hgives := ((hrecall.trans (dropL1_sends _ (fun c => ((s.unsend (.fwd q l)).recallL1 l).ppOf c == q) l)).givenUp
      q l).send_of_there (m := .fwdData q l) hthere
    split
    · split
      · next tx hact =>
        split
        · next hkeep =>
          refine ⟨_, _, rfl, hshares, rfl, fun x hx _ => ?_⟩
          rw [if_pos (Option.some.inj (hact.symm.trans hx) ▸ eq_of_beq hkeep)]
          exact l2Of_setL2_same _
        · next hkeep =>
          refine ⟨_, _, rfl, hgives, rfl, fun x hx _ => ?_⟩
          rw [if_neg (Option.some.inj (hact.symm.trans hx) ▸ fun h => hkeep (beq_iff_eq.2 h))]
          exact l2Of_delL2_same
      · next hact => exact ⟨_, _, rfl, hgives, rfl, fun x hx _ => absurd (hact.symm.trans hx) (by simp)⟩
    · next hhas =>
      exact ⟨_, _, rfl, hrecall.send_of_there (m := .fwdData q l) hthere, rfl, fun x _ hx => absurd hx hhas⟩
  · next h => exact absurd hfind (h pp line)

theorem fwdData_eq_returned (hwired : s.wired pp line = true) (hx : s.activeTx line = some tx)
    (hfind : s.coh.inflight.find? (isFwdData line) = some (.fwdData pp line)) :
    exec (.fwdData line) s = .next ((s.unsend (.fwdData pp line)).returned pp tx) := by
  simp only [exec_fwdData]
  unfold execFwdData
  split
  · next q l h =>
    obtain ⟨rfl, rfl⟩ : q = pp ∧ l = line := by simpa using h.symm.trans hfind
    simp [hwired, hx]
  · next h => exact absurd hfind (h pp line)

theorem returned_gets (hreq : tx.req = .gets) (hw : ∀ y ∈ s.coh.waiting, y.line ≠ tx.line) :
    Sends (ended ((homeHas s tx.line).setDir tx.line
        { Dir.reset with st := .S, ptrs := if s.partyLost tx.pp then [ptrCode pp] else [ptrCode pp, ptrCode tx.pp] }) tx)
      (if s.partyLost tx.pp then [] else [.data tx.pp tx.line false false]) (s.returned pp tx) := by
  have hreturned : s.returned pp tx = (((s.writeBack tx.line).setDir tx.line
      { Dir.reset with st := .S, ptrs := if s.partyLost tx.pp then [ptrCode pp] else [ptrCode pp, ptrCode tx.pp] }).sendData
        tx.pp tx.line false false).endTx tx := by
    simp only [State.returned, hreq]
  rw [hreturned]
  exact (((writeBack_sends s tx.line).setDir ..).sendData tx.pp tx.line false false).endTx hw

theorem returned_getx (hreq : tx.req = .getx) (hw : ∀ y ∈ s.coh.waiting, y.line ≠ tx.line) :
    ∃ l2 below, Sends (ended (State.setDir { s with coh := { s.coh with l2 := l2, below := below } } tx.line
        (if s.partyLost tx.pp then Dir.reset else Dir.owned tx.pp)) tx)
      (if s.partyLost tx.pp then [] else [.data tx.pp tx.line true false]) (s.returned pp tx) := by
  have hreturned : s.returned pp tx = ((if s.partyLost tx.pp then s.writeBack tx.line else s).ownedFor tx
      (.data tx.pp tx.line true false)).endTx tx := by
    simp only [State.returned, hreq]
  have hback : ∃ l2 below, Sends { s with coh := { s.coh with l2 := l2, below := below } } []
      (if s.partyLost tx.pp then s.writeBack tx.line else s) := by
    split
    · exact ⟨_, _, writeBack_sends ..⟩
    · exact ⟨s.coh.l2, s.coh.below, sends_nil_of_eq rfl⟩
  obtain ⟨l2, below, hback⟩ := hback
  rw [hreturned]
  exact ⟨l2, below, (hback.ownedFor tx (m := .data tx.pp tx.line true false) rfl).endTx hw⟩

/-! #### Answers at the requester (R24, R192) -/

/-- `t` is `s` after other lines than `line` have gone from the L2 of a parish: the home's records may have followed. -/
def MakesRoom (s : State) (pp line : Nat) (t : State) : Prop :=
  (∃ cores waking dir l2 inner well dram below, t = { s with
    cores := cores, waking := waking
    coh := { s.coh with dir := dir, l2 := l2, inner := inner, well := well, dram := dram, below := below } }) ∧
  alHas line t.coh.below = alHas line s.coh.below ∧
  (alHas (pp, line) s.coh.l2 = false → alHas (pp, line) t.coh.l2 = false)

theorem MakesRoom.refl (s : State) (pp line : Nat) : MakesRoom s pp line s :=
  ⟨⟨_, _, _, _, _, _, _, _, rfl⟩, rfl, id⟩

theorem MakesRoom.trans {u : State} (h : MakesRoom s pp line t) (h' : MakesRoom t pp line u) : MakesRoom s pp line u := by
  obtain ⟨⟨_, _, _, _, _, _, _, _, rfl⟩, hbelow, hl2⟩ := h
  obtain ⟨⟨_, _, _, _, _, _, _, _, rfl⟩, hbelow', hl2'⟩ := h'
  exact ⟨⟨_, _, _, _, _, _, _, _, rfl⟩, hbelow'.trans hbelow, fun h => hl2' (hl2 h)⟩

theorem alHas_of_victimLine {l : Nat} (h : s.victimLine pp = some l) : alHas (pp, l) s.coh.l2 = true := by
  obtain ⟨e, he, rfl⟩ := Option.map_eq_some_iff.1 h
  have hp := List.find?_some he
  simp only [Bool.and_eq_true, beq_iff_eq] at hp
  exact (alHas_eq_true_iff ..).2 ⟨e, List.mem_of_find?_eq_some he, Prod.ext hp.1.1.1 rfl⟩

theorem writeBack_makesRoom {l : Nat} (hl : l ≠ line) : MakesRoom s pp line (s.writeBack l) := by
  obtain ⟨_, _, _, _, _, heq⟩ := writeBack_sends s l
  rw [heq, List.append_nil]
  refine ⟨⟨_, _, _, _, _, _, _, _, rfl⟩, ?_, (alHas_homeHas _).trans⟩
  simp [homeHas, alHas_alDel, hl.symm]

theorem evictWhole_makesRoom {l : Nat} (hl : l ≠ line) : MakesRoom s pp line (s.evictWhole pp l) := by
  have hdrop : MakesRoom s pp line ((s.recallL1 l).dropL1 (fun c => s.ppOf c == pp) l) :=
    ⟨⟨_, _, _, _, _, _, _, _, rfl⟩, rfl, id⟩
  have hnotice (u : State) (d : Dir) : MakesRoom u pp line
      { u with coh := (if alHas l u.coh.dir then u.coh.setDir l d else u.coh).delL2 pp l } := by
    have hgone (h : alHas (pp, line) u.coh.l2 = false) : alHas (pp, line) (alDel (pp, l) u.coh.l2) = false := by
      simp [alHas_alDel, h]
    split <;> exact ⟨⟨_, _, _, _, _, _, _, _, rfl⟩, rfl, hgone⟩
  unfold State.evictWhole
  dsimp only
  refine .trans ?_ (hnotice ..)
  split
  · exact hdrop.trans (writeBack_makesRoom hl)
  · exact hdrop

theorem shrink_makesRoom (limit n : Nat) (s : State) (hl2 : alHas (pp, line) s.coh.l2 = false) :
    MakesRoom s pp line (s.shrink pp limit n) := by
  induction n generalizing s with
  | zero => exact .refl ..
  | succ n ih =>
    unfold State.shrink
    split
    · exact .refl ..
    · split
      · next l hv =>
        have hl : l ≠ line := by
          rintro rfl
          exact absurd (alHas_of_victimLine hv) (by simp [hl2])
        have hevict := evictWhole_makesRoom (s := s) (pp := pp) hl
        exact hevict.trans (ih _ (hevict.2.2 hl2))
      · exact .refl ..

theorem makeRoom_makesRoom (h : s.makeRoom pp line = some t) : MakesRoom s pp line t := by
  unfold State.makeRoom at h
  split at h
  · exact Option.some.inj h ▸ .refl ..
  · next hroom =>
    simp only [Bool.or_eq_true, decide_eq_true_eq, not_or, Bool.not_eq_true] at hroom
    dsimp only at h
    split at h
    · exact Option.some.inj h ▸ shrink_makesRoom _ _ _ hroom.1
    · exact absurd h (by simp)

theorem makeRoom_of_room (h : s.l2Count pp < s.l2Room pp) : s.makeRoom pp line = some s := by
  simp [State.makeRoom, h]

theorem dataReply_of_full {own pend : Bool} (hmsg : s.nextMsg true pp line = some (.data pp line own pend))
    (hroom : (s.unsend (.data pp line own pend)).makeRoom pp line = none) :
    exec (.dataReply pp line) s = .refused (.notEnabled "DATA_REPLY") := by
  simp only [exec_dataReply, execDataReply, hmsg, hroom, ite_self]

theorem dataReply_of_room {own pend : Bool} (hmsg : s.nextMsg true pp line = some (.data pp line own pend))
    (hwired : s.wired pp line = true) (hroom : (s.unsend (.data pp line own pend)).makeRoom pp line = some t) :
    exec (.dataReply pp line) s = .next { t with coh := t.coh.setL2 pp line { L2.reset with
      owned := own, dirty := own && alHas line t.coh.below, pendingOwn := pend, valid := wholeLine line } } := by
  simp only [exec_dataReply, execDataReply, hmsg, hroom, hwired, Bool.not_true, Bool.false_eq_true, if_false]

theorem complete_eq {own : Bool} (hmsg : s.nextMsg true pp line = some (.complete pp line own))
    (hwired : s.wired pp line = true) : ∃ c, exec (.complete pp line) s =
      .next { s.unsend (.complete pp line own) with coh := c } ∧
      c.inflight = (s.unsend (.complete pp line own)).coh.inflight ∧ c.dir = s.coh.dir ∧
      (∀ x, s.coh.l2Of pp line = some x →
        c.l2Of pp line = some { x with owned := own, pendingOwn := false, ahead := [] }) ∧
      (s.coh.l2Of pp line = none → c.l2 = s.coh.l2) := by
  simp only [exec_complete, execComplete, hmsg, hwired, Bool.not_true, Bool.false_eq_true, if_false]
  refine ⟨_, rfl, ?_⟩
  cases hx : s.coh.l2Of pp line with
  | none =>
    simp only [show (s.unsend _).coh.l2Of pp line = none from hx]
    exact ⟨trivial, rfl, fun y hy => by simp at hy, fun _ => rfl⟩
  | some x =>
    simp only [show (s.unsend _).coh.l2Of pp line = some x from hx]
    exact ⟨rfl, rfl, fun y hy => Option.some.inj hy ▸ l2Of_setL2_same _, fun h => by simp at h⟩

/-! #### Back-invalidates (R449, R453) -/

theorem Sends.cell (h : Sends s ms t) (a : Nat) : t.cell a = s.cell a := by
  obtain ⟨_, _, _, _, _, rfl⟩ := h
  rfl

theorem l2Of_dropCopies (s : State) (p line : Nat) : (s.dropCopies line).coh.l2Of p line = none := by
  refine l2Of_eq_none_iff.2 (Bool.eq_false_iff.2 fun h => ?_)
  obtain ⟨e, he, hk⟩ := (alHas_eq_true_iff ..).1 h
  have hline := (List.mem_filter.1 he).2
  simp [hk] at hline

theorem bisnp_recalls {addr i : Nat} {data : Option (List Byte)} (hregion : s.region addr = .cxl i)
    (hshared : (s.rangeEntry i).shared = true) (hbusy : s.lineBusy (lineOf addr) = false)
    (hfits : ∀ bs, data = some bs → bs.length = 64) :
    ∃ t, exec (.bisnp { addr := addr, data := data }) s = .next t ∧ (∀ p, t.coh.l2Of p (lineOf addr) = none) ∧
      t.mem = data.elim s.mem (fun bs => writeBytes s.mem (s.cell (lineAddr (lineOf addr))) bs) ∧ t.hart = s.hart ∧
      t.others = s.others := by
  have hshared' : (alGet RangeEntry.reset i s.ranges).shared = true := hshared
  have hback := writeBack_sends s (lineOf addr)
  have hmem : ((s.writeBack (lineOf addr)).dropCopies (lineOf addr)).mem = s.mem := hback.mem
  have hcell (a : Nat) : ((s.writeBack (lineOf addr)).dropCopies (lineOf addr)).cell a = s.cell a := hback.cell a
  have hhart : ((s.writeBack (lineOf addr)).dropCopies (lineOf addr)).hart = s.hart := hback.hart
  have hothers : ((s.writeBack (lineOf addr)).dropCopies (lineOf addr)).others = s.others := hback.others
  have hgone (p : Nat) := l2Of_dropCopies (s.writeBack (lineOf addr)) p (lineOf addr)
  simp only [exec_bisnp, execBisnp, hregion, hshared', hbusy]
  generalize (s.writeBack (lineOf addr)).dropCopies (lineOf addr) = u at *
  cases data with
  | none => exact ⟨u, rfl, hgone, hmem, hhart, hothers⟩
  | some bs =>
    refine ⟨{ u with mem := writeBytes u.mem (u.cell (lineAddr (lineOf addr))) bs }, ?_, hgone, ?_, hhart, hothers⟩
    · simp [hfits bs rfl]
    · simp [hmem, hcell]

/-- A byte read after a write of several is the one written there, or the one that stood there. -/
theorem readByte_writeBytes {m : List Host.Cell} (h : Memory.wf m = true) (a b : Nat) (bs : List Byte) :
    readByte (writeBytes m a bs) b = if a ≤ b ∧ b < a + bs.length then bs.getD (b - a) 0 else readByte m b := by
  induction bs generalizing m a with
  | nil => grind [writeBytes]
  | cons x xs ih =>
    rw [writeBytes, ih (Laws.writeByte_wf a x h), Laws.readByte_writeByte h]
    grind

theorem bisnpResponse_eq {addr : Nat} (hheld : s.coh.snoop.contains (addr / 64) = true)
    (hw : ∀ y ∈ s.coh.waiting, y.line ≠ addr / 128) :
    exec (.bisnpResponse addr) s =
      .next { s with coh := { s.coh with snoop := s.coh.snoop.filter fun g => g != addr / 64 } } := by
  simp only [exec_bisnpResponse, execBisnpResponse, hheld, if_true]
  refine congrArg _ (pumpAll_of_none ?_)
  exact hw

end Arrivals

/-- Settles O43, row by row: the evictions by `Evicts`, the ends of transactions by `settle_gain`, `returned_gets` and
`returned_getx`, the room that a DATA reply waits for by `MakesRoom`, and a back-invalidate by `bisnp_recalls`. -/
theorem coherenceMessages : Obligations.CoherenceMessages := by
  intro s pp line d same
  refine ⟨?_, ?_, ?_, ?_, ?_, ?_, ?_, ?_, ?_, ?_⟩
  · intro i o hio hmay
    have hevicts : Evicts s i pp line (afterNotice d pp o) := by
      rcases hio with h | h <;> obtain ⟨rfl, rfl⟩ := Prod.mk.inj h
      · exact puts_evicts hmay
      · exact putx_evicts hmay
    obtain ⟨t, hexec, hl2, hevict, hflight, hsame, hdir⟩ := hevicts
    refine ⟨t, hexec, hl2, hevict, hflight, hsame, ?_, ?_, ?_⟩
    · grind [afterNotice, Dir.puts]
    · grind [afterNotice]
    · grind [afterNotice, Dir.puts]
  · intro hmsg
    exact ⟨_, putAck_eq hmsg, by simp [alHas_alDel], rfl, rfl, rfl, rfl⟩
  · intro hmsg hwired
    obtain ⟨t, hexec, hsend⟩ := inv_sends hmsg hwired
    exact ⟨t, hexec, (hsend.l2Of ..).trans l2Of_delL2_same, hsend.inflight, hsend.dir, hsend.mem, hsend.hart, hsend.others⟩
  · intro hmsg hwired x hx
    have hexec := invAck_eq_countAck hmsg hwired
    refine ⟨fun hd => ?_, fun hd hreq hw hline => ?_⟩
    · rw [countAck_of_more (s := s.unsend (.invAck pp line)) hx hd] at hexec
      exact ⟨_, hexec, dirOf_setDir_same _, rfl, rfl, rfl, rfl⟩
    · rw [countAck_of_last (s := s.unsend (.invAck pp line)) hx hd] at hexec
      subst hline
      have hsend := settle_gain (s := (s.unsend (.invAck pp x.line)).setDir x.line { d with ackcnt := d.ackcnt - 1 })
        hreq hw
      exact ⟨_, hexec, (hsend.dirOf _).trans (dirOf_setDir_same _), hsend.inflight, hsend.active, hsend.mem, hsend.hart,
        hsend.others⟩
  · intro hmsg hwired hfind
    obtain ⟨t, c, hexec, hsend, hflight, hl2⟩ := fwd_sends hmsg hwired hfind
    exact ⟨t, hexec, hsend.inflight.trans (congrArg (· ++ _) hflight), fun x hx hhas => (hsend.l2Of ..).trans (hl2 x hx hhas),
      hsend.mem, hsend.hart, hsend.others⟩
  · intro hfind hwired x hx hline hw
    subst hline
    have hexec := fwdData_eq_returned hwired hx hfind
    refine ⟨fun hreq => ?_, fun hreq => ?_⟩
    · have hsend := returned_gets (s := s.unsend (.fwdData pp x.line)) (pp := pp) hreq hw
      exact ⟨_, hexec, (hsend.dirOf _).trans (dirOf_setDir_same _), hsend.inflight, hsend.active, hsend.mem, hsend.hart,
        hsend.others⟩
    · obtain ⟨l2, below, hsend⟩ := returned_getx (s := s.unsend (.fwdData pp x.line)) (pp := pp) hreq hw
      exact ⟨_, hexec, (hsend.dirOf _).trans (dirOf_setDir_same _), hsend.inflight, hsend.active, hsend.mem, hsend.hart,
        hsend.others⟩
  · intro own pend hmsg hwired room
    refine ⟨dataReply_of_full hmsg, fun h => ?_, fun hroom => ?_⟩
    · rw [show room = _ from makeRoom_of_room h]
      exact Option.some_ne_none _
    · obtain ⟨t, ht⟩ := Option.ne_none_iff_exists'.1 hroom
      obtain ⟨⟨_, _, _, _, _, _, _, _, heq⟩, hbelow, -⟩ := makeRoom_makesRoom ht
      have hdir (h : s.l2Count pp < s.l2Room pp) : t.coh.dir = s.coh.dir :=
        Option.some.inj (ht.symm.trans (makeRoom_of_room h)) ▸ rfl
      refine ⟨_, dataReply_of_room hmsg hwired ht, ?_, ?_, hdir, ?_⟩
      · rw [hbelow]
        exact l2Of_setL2_same _
      · rw [heq]
        rfl
      · rw [heq]
        exact ⟨rfl, rfl, rfl⟩
  · intro own hmsg hwired
    obtain ⟨c, hexec, hflight, hdir, hsome, hnone⟩ := complete_eq hmsg hwired
    exact ⟨_, hexec, hsome, hnone, hflight, hdir, rfl, rfl, rfl⟩
  · intro addr i hok hregion hshared hbusy c
    refine ⟨?_, fun bs hbs => ?_⟩
    · exact bisnp_recalls (data := none) hregion hshared hbusy (by simp)
    · obtain ⟨t, hexec, hl2, hmem, hhart, hothers⟩ := bisnp_recalls (data := some bs) hregion hshared hbusy (by simp [hbs])
      refine ⟨t, hexec, hl2, hhart, hothers, fun a => ?_⟩
      rw [hmem]
      exact hbs ▸ readByte_writeBytes hok c a bs
  · exact fun addr => bisnpResponse_eq

end Sys2Proof.Proofs
